-- ==== Sys2Proof/Word.lean ====
section
/-! DEFINITION. The word types of the model and its one kind of sparse table.

`Sparse α` is a list of (key, value) pairs; `Machine/Ops.lean` keeps every such list in one canonical form (keys strictly
rising, no entry equal to what an unlisted key reads as), so that equal tables are equal data. -/

namespace Sys2Proof

/-- A 128-bit workspace register or paddock granule (R85, R143). -/
abbrev W128 := BitVec 128
/-- A 64-bit word: virtual addresses, fabric addresses, hart registers, predicates. -/
abbrev W64 := BitVec 64
/-- A 64-byte line, little-endian: byte `b` is bits `[8b+7:8b]` (R5, R45). -/
abbrev Line := BitVec 512
/-- One byte. -/
abbrev Byte := BitVec 8
/-- A table with a value for every key: what it does not list reads as the table's default. -/
abbrev Sparse (α : Type) := List (Nat × α)
/-- Byte memory over addresses, in the host's cells. -/
abbrev Mem := Sparse Byte

/-- The bits of a Bool, as a number. -/
def b2n (b : Bool) : Nat := if b then 1 else 0

/-- Bit field `[hi:lo]` of a word, as a Nat (R5). -/
def fld {n : Nat} (w : BitVec n) (hi lo : Nat) : Nat := (w.toNat >>> lo) % 2 ^ (hi + 1 - lo)

/-- One bit of a word. -/
def bit {n : Nat} (w : BitVec n) (i : Nat) : Bool := w.getLsbD i

/-- Two's-complement reading of the low `w` bits of `x`. -/
def sext (w x : Nat) : Int :=
  let y := x % 2 ^ w
  if w = 0 then 0 else if y < 2 ^ (w - 1) then (y : Int) else (y : Int) - 2 ^ w

/-- The residue of an integer modulo 2^w, as a Nat. -/
def wrap (w : Nat) (x : Int) : Nat := (x % (2 ^ w : Nat)).toNat

/-- The bits `[lo+len-1:lo]` of `x` replaced by the low `len` bits of `v`. -/
def putFld (x lo len v : Nat) : Nat :=
  let low := x % 2 ^ lo
  let high := x >>> (lo + len)
  low + (v % 2 ^ len) * 2 ^ lo + high * 2 ^ (lo + len)

end Sys2Proof
end

