-- ==== Sys2Proof/Syntax.lean ====
section
/-! DEFINITION. The instruction set: one constructor per row of spec/opcode_table.json (rule numbers are the table's).

A Makel instruction carries its D field and its tail (R53, R54); an Xmakel instruction its R-type fields (R72). The
table's other rows are steps of the module's agents (thread engines, engines, directories, routers, stream processors,
join and launch units, die controllers, the hart's own memory accesses, the host, Dilvoac); each carries the unit it
concerns and the choices the manual leaves to that agent (which chunk lands next, which line a cache gives up, ...).
Which of them acts next is data of `Machine.State` (`sched`). -/

namespace Sys2Proof

/-- Who executes an instruction: a slot of a core, or a core's shepherd hart (die, logical core, slot). -/
inductive Agent where
  | slot (d c s : Nat)
  | hart (d c : Nat)
  deriving DecidableEq, Repr, Inhabited

/-- A directory pointer (R230): a logical core of the home die, or the coherence proxy of another die. -/
inductive Ptr where
  | core (c : Nat)
  | proxy (d : Nat)
  deriving DecidableEq, Repr, Inhabited

/-- Form S tail (R54): [15:9] B, [8:2] C, [1:0] W. -/
structure TailS where
  b : BitVec 7
  c : BitVec 7
  w : BitVec 2
  deriving DecidableEq, Repr, Inhabited

/-- Form V tail (R54). -/
structure TailV where
  b : BitVec 7
  c : BitVec 7
  ty : BitVec 5
  sh : BitVec 2
  p : BitVec 3
  pn : Bool
  f : BitVec 7
  deriving DecidableEq, Repr, Inhabited

/-- Form I tail (R54): B and IMM25. -/
structure TailI where
  b : BitVec 7
  imm : BitVec 25
  deriving DecidableEq, Repr, Inhabited

/-- Form B tail (R54). -/
structure TailB where
  loff : BitVec 22
  slot : BitVec 5
  p : BitVec 3
  pn : Bool
  hint : Bool
  deriving DecidableEq, Repr, Inhabited

/-- Form M tail (R54). -/
structure TailM where
  b : BitVec 7
  c : BitVec 7
  sz : BitVec 3
  sx : Bool
  sc : BitVec 2
  xi : Bool
  p : BitVec 3
  pn : Bool
  ord : BitVec 3
  scope : BitVec 3
  hint : BitVec 3
  aop : BitVec 6
  off : BitVec 24
  deriving DecidableEq, Repr, Inhabited

/-- Form E tail (R54). -/
structure TailE where
  wk : BitVec 8
  wt : BitVec 12
  sk : BitVec 8
  si : BitVec 4
  b : BitVec 7
  c : BitVec 7
  l : BitVec 6
  f12 : BitVec 12
  deriving DecidableEq, Repr, Inhabited

/-- The register fields of an Xmakel instruction (R72). -/
structure RType where
  rd : BitVec 5
  rs1 : BitVec 5
  rs2 : BitVec 5
  deriving DecidableEq, Repr, Inhabited

/-- What a RISC-V AMO does to the old memory value (the A extension the hart has by R119). -/
inductive AmoOp where
  | swap | add | xor | and | or | min | max | minu | maxu
  deriving DecidableEq, Repr, Inhabited

/-- The kinds of hart memory access of R120, R121. -/
inductive HartOp where
  | load (unsigned : Bool)
  | store
  | amo (op : AmoOp)
  | lr
  | sc
  deriving DecidableEq, Repr, Inhabited

/-- A RISC-V memory access of the hart: x (or f) registers, immediate, log2 of the size, ordering bits. -/
structure HartAccess where
  op : HartOp
  fp : Bool
  rd : BitVec 5
  rs1 : BitVec 5
  rs2 : BitVec 5
  imm : BitVec 12
  size : BitVec 2
  aq : Bool
  rl : Bool
  deriving DecidableEq, Repr, Inhabited

/-- The RISC-V fences of R121. -/
inductive HartFence where
  | fence | fenceTso | fenceI
  deriving DecidableEq, Repr, Inhabited

/-- Where a launch packet comes from (R411): an aperture slot of a PCIe function, or the oldest record that device code
has handed to the launch unit of a die (R117). -/
inductive PktSrc where
  | host (port fn slot : Nat)
  | device (d : Nat)
  deriving DecidableEq, Repr, Inhabited

/-- A register or CSR without behaviour of its own, or an item that the manual lets system software place without
naming the means (R89 frames, R231 keeper, R416 parameter copies, R449 ring sizes, R456 CXL mode). -/
inductive RegTarget where
  /-- CSR `addr` of a core's hart, written by that hart (R123) -/
  | csr (d c addr : Nat)
  /-- 8-byte register at `off` of a die unit of fabric class 4 (UNIT 104, 105 or 106), written by domain 0 -/
  | unit (d u off : Nat)
  /-- the 32-byte function record `f` (R412) or the port window record (R454) of a die controller -/
  | functionRecord (d f : Nat)
  | windowRecord (d : Nat)
  /-- post-box register of BAR 0 (R457): PBBASE 0x00, PBRD 0x10 -/
  | bar0 (off : Nat)
  /-- Lamong ring sizes SX, SY, SZ in bits [4:0], [12:8], [20:16] (R449) -/
  | rings
  /-- message frame `i` of a core's active set: WP in [19:0] (R89) -/
  | frame (d c i : Nat)
  /-- parameter-copy area of partition `p` on die `d`: [63:0] virtual, [127:64] fabric address, [191:128] bytes (R416) -/
  | pcopy (d p : Nat)
  /-- presence of the overflow keeper of a quad, with its table size in [15:0] (R231) -/
  | keeper (d q : Nat)
  /-- port 1 runs CXL (R456) -/
  | cxlMode
  deriving DecidableEq, Repr, Inhabited

/-- A management request as Dilvoac receives it (R492 to R495). -/
structure MctpMsg where
  /-- false: PCIe port 0 function 0; true: the I3C sideband -/
  i3c : Bool
  /-- bit d: die d is named -/
  dies : BitVec 12
  keySlot : BitVec 8
  dom : BitVec 12
  key : BitVec 512
  nonce : BitVec 256
  /-- which image is staged: 0 Dilvoac firmware, 1 die-controller firmware, 2 hart boot image -/
  image : BitVec 2
  /-- the bytes of the staged image, or of the signed request -/
  data : List (BitVec 8)
  signature : BitVec 768
  msgType : BitVec 8
  cmd : BitVec 8
  deriving DecidableEq, Repr, Inhabited

/-- The instructions and steps of the module: one constructor per row of the opcode table. -/
inductive Instr where
  /-- `NOP` (R105): Does nothing. -/
  | nop (d : BitVec 7)
  /-- `BRA` (R107): Branches to the form B target when the predicate condition holds. -/
  | bra (d : BitVec 7) (t : TailB)
  /-- `CALL` (R107): Writes NextIP to wD and branches to the target when the condition holds. -/
  | call (d : BitVec 7) (t : TailB)
  /-- `JMPX` (R107): Jumps to the address in wB, optionally linking NextIP into wD; RET is its alias. -/
  | jmpx (d : BitVec 7) (t : TailV)
  /-- `LOOP` (R107): Decrements the count in wD and branches while it stays nonzero. -/
  | loop (d : BitVec 7) (t : TailB)
  /-- `FETCH` (R107): Goes to the address in wB and prefetches following lines. -/
  | fetch (d : BitVec 7) (t : TailV)
  /-- `STOP` (R108): Herds a stray or ends a broadcast block. -/
  | stop (d : BitVec 7)
  /-- `HALT` (R102): Drains the context's post-queue entries and retires it, optionally handing scratch regions to a HELD successor. -/
  | halt (d : BitVec 7)
  /-- `YIELD` (R110): Leaves the slot READY when an equal or better context waits, else acts as NOP. -/
  | yield (d : BitVec 7)
  /-- `TRAP` (R109): Faults SWTRAP with FAUX n, or BREAK for n 127. -/
  | trap (d : BitVec 7)
  /-- `PLOG` (R111): Combines two predicate registers by a logic op into a third. -/
  | plog (d : BitVec 7) (t : TailV)
  /-- `PMOV` (R111): Moves a predicate to a register or a register to a predicate. -/
  | pmov (d : BitVec 7) (t : TailV)
  /-- `CYC` (R112): Writes the core's local cycle counter to wD. -/
  | cyc (d : BitVec 7)
  /-- `SYSR` (R112): Writes a named special register to wD. -/
  | sysr (d : BitVec 7) (t : TailV)
  /-- `ADD_S` (R166): Signed integer add in short form S. -/
  | addS (d : BitVec 7) (t : TailS)
  /-- `ADD_V` (R166): Integer add, optionally saturating, in form V. -/
  | addV (d : BitVec 7) (t : TailV)
  /-- `SUB_S` (R166): Signed integer subtract in form S. -/
  | subS (d : BitVec 7) (t : TailS)
  /-- `SUB_V` (R166): Integer subtract, optionally saturating, in form V. -/
  | subV (d : BitVec 7) (t : TailV)
  /-- `MUL_S` (R166): Signed multiply, low bits, in form S. -/
  | mulS (d : BitVec 7) (t : TailS)
  /-- `MUL_V` (R166): Multiply keeping the low w bits, in form V. -/
  | mulV (d : BitVec 7) (t : TailV)
  /-- `MULH_S` (R166): Signed multiply high in form S. -/
  | mulhS (d : BitVec 7) (t : TailS)
  /-- `MULH_V` (R166): Multiply keeping the high w bits, in form V. -/
  | mulhV (d : BitVec 7) (t : TailV)
  /-- `DIV_S` (R166): Signed divide in form S. -/
  | divS (d : BitVec 7) (t : TailS)
  /-- `DIV_V` (R166): Integer divide per R44 in form V. -/
  | divV (d : BitVec 7) (t : TailV)
  /-- `REM_S` (R166): Signed remainder in form S. -/
  | remS (d : BitVec 7) (t : TailS)
  /-- `REM_V` (R166): Integer remainder per R44 in form V. -/
  | remV (d : BitVec 7) (t : TailV)
  /-- `AND_S` (R166): Bitwise AND in form S. -/
  | andS (d : BitVec 7) (t : TailS)
  /-- `AND_V` (R166): Bitwise AND in form V. -/
  | andV (d : BitVec 7) (t : TailV)
  /-- `OR_S` (R166): Bitwise OR in form S. -/
  | orS (d : BitVec 7) (t : TailS)
  /-- `OR_V` (R166): Bitwise OR in form V. -/
  | orV (d : BitVec 7) (t : TailV)
  /-- `XOR_S` (R166): Bitwise XOR in form S. -/
  | xorS (d : BitVec 7) (t : TailS)
  /-- `XOR_V` (R166): Bitwise XOR in form V. -/
  | xorV (d : BitVec 7) (t : TailV)
  /-- `ANDN_S` (R166): AND with complement in form S. -/
  | andnS (d : BitVec 7) (t : TailS)
  /-- `ANDN_V` (R166): AND with complement in form V. -/
  | andnV (d : BitVec 7) (t : TailV)
  /-- `SHL_S` (R166): Shift left in form S. -/
  | shlS (d : BitVec 7) (t : TailS)
  /-- `SHL_V` (R166): Shift left by register or immediate in form V. -/
  | shlV (d : BitVec 7) (t : TailV)
  /-- `SHR_S` (R166): Logical shift right in form S. -/
  | shrS (d : BitVec 7) (t : TailS)
  /-- `SHR_V` (R166): Logical shift right in form V. -/
  | shrV (d : BitVec 7) (t : TailV)
  /-- `SRA_S` (R166): Arithmetic shift right in form S. -/
  | sraS (d : BitVec 7) (t : TailS)
  /-- `SRA_V` (R166): Arithmetic shift right in form V. -/
  | sraV (d : BitVec 7) (t : TailV)
  /-- `ROT_S` (R166): Rotate left in form S. -/
  | rotS (d : BitVec 7) (t : TailS)
  /-- `ROT_V` (R166): Rotate left in form V. -/
  | rotV (d : BitVec 7) (t : TailV)
  /-- `MIN_S` (R166): Signed minimum in form S. -/
  | minS (d : BitVec 7) (t : TailS)
  /-- `MIN_V` (R166): Minimum in form V. -/
  | minV (d : BitVec 7) (t : TailV)
  /-- `MAX_S` (R166): Signed maximum in form S. -/
  | maxS (d : BitVec 7) (t : TailS)
  /-- `MAX_V` (R166): Maximum in form V. -/
  | maxV (d : BitVec 7) (t : TailV)
  /-- `ABS` (R167): Absolute value, optionally saturating. -/
  | abs (d : BitVec 7) (t : TailV)
  /-- `NEG` (R167): Negation, optionally saturating. -/
  | neg (d : BitVec 7) (t : TailV)
  /-- `CLZ` (R167): Counts leading or trailing zero bits. -/
  | clz (d : BitVec 7) (t : TailV)
  /-- `POPC` (R167): Counts one bits. -/
  | popc (d : BitVec 7) (t : TailV)
  /-- `CMP` (R168): Compares elements and writes a predicate register. -/
  | cmp (d : BitVec 7) (t : TailV)
  /-- `SEL` (R169): Selects elements from two groups by a predicate. -/
  | sel (d : BitVec 7) (t : TailV)
  /-- `ADDI` (R170): Adds a signed 25-bit immediate to a 64-bit register. -/
  | addi (d : BitVec 7) (t : TailI)
  /-- `MOVI` (R170): Writes a zero-extended 32-bit immediate. -/
  | movi (d : BitVec 7) (imm : BitVec 32)
  /-- `MOVQ` (R170): Writes a 64-bit immediate. -/
  | movq (d : BitVec 7) (imm : BitVec 64)
  /-- `LEA` (R171): Forms base plus shifted index. -/
  | lea (d : BitVec 7) (t : TailV)
  /-- `BEXT` (R172): Extracts a bit field. -/
  | bext (d : BitVec 7) (t : TailV)
  /-- `BINS` (R172): Inserts a bit field. -/
  | bins (d : BitVec 7) (t : TailV)
  /-- `MADD` (R173): Integer multiply-accumulate in place. -/
  | madd (d : BitVec 7) (t : TailV)
  /-- `DOTI` (R174): Integer dot products within lanes, accumulated. -/
  | doti (d : BitVec 7) (t : TailV)
  /-- `SATN` (R175): Narrows elements to half width with rounding shift and clamp. -/
  | satn (d : BitVec 7) (t : TailV)
  /-- `SHUF` (R176): Permutes elements by an index group. -/
  | shuf (d : BitVec 7) (t : TailV)
  /-- `FADD` (R182): Floating add rounded once. -/
  | fadd (d : BitVec 7) (t : TailV)
  /-- `FSUB` (R182): Floating subtract. -/
  | fsub (d : BitVec 7) (t : TailV)
  /-- `FMUL` (R182): Floating multiply. -/
  | fmul (d : BitVec 7) (t : TailV)
  /-- `FMA` (R182): Fused multiply-add with optional negations. -/
  | fma (d : BitVec 7) (t : TailV)
  /-- `FMIN` (R183): minimumNumber of two elements. -/
  | fmin (d : BitVec 7) (t : TailV)
  /-- `FMAX` (R183): maximumNumber of two elements. -/
  | fmax (d : BitVec 7) (t : TailV)
  /-- `FSGN` (R184): Builds elements from one magnitude and a chosen sign. -/
  | fsgn (d : BitVec 7) (t : TailV)
  /-- `FCMP` (R185): Floating compare writing a predicate. -/
  | fcmp (d : BitVec 7) (t : TailV)
  /-- `FCVT` (R187): Converts between element types in a chosen rounding mode. -/
  | fcvt (d : BitVec 7) (t : TailV)
  /-- `FRND` (R189): Rounds elements to integral values. -/
  | frnd (d : BitVec 7) (t : TailV)
  /-- `FSCL` (R190): Scales elements by a power of two. -/
  | fscl (d : BitVec 7) (t : TailV)
  /-- `FCLS` (R191): Classifies elements. -/
  | fcls (d : BitVec 7) (t : TailV)
  /-- `FRCP` (R192): Approximate reciprocal. -/
  | frcp (d : BitVec 7) (t : TailV)
  /-- `FRSQ` (R192): Approximate reciprocal square root. -/
  | frsq (d : BitVec 7) (t : TailV)
  /-- `FSQRT` (R192): Correctly rounded square root. -/
  | fsqrt (d : BitVec 7) (t : TailV)
  /-- `FDIV` (R182): Correctly rounded division. -/
  | fdiv (d : BitVec 7) (t : TailV)
  /-- `FEXP2` (R192): Approximate base-2 exponential. -/
  | fexp2 (d : BitVec 7) (t : TailV)
  /-- `FLOG2` (R192): Approximate base-2 logarithm. -/
  | flog2 (d : BitVec 7) (t : TailV)
  /-- `FSIN` (R192): Sine of an argument in turns. -/
  | fsin (d : BitVec 7) (t : TailV)
  /-- `FCOS` (R192): Cosine of an argument in turns. -/
  | fcos (d : BitVec 7) (t : TailV)
  /-- `FTANH` (R192): Approximate hyperbolic tangent. -/
  | ftanh (d : BitVec 7) (t : TailV)
  /-- `FRED` (R194): Reduces a group by sum, max or min in the fixed tree. -/
  | fred (d : BitVec 7) (t : TailV)
  /-- `IMAX` (R195): Finds the greatest candidate with its key, optionally accumulating. -/
  | imax (d : BitVec 7) (t : TailV)
  /-- `FDOT` (R197): Narrow dot products accumulated into F32 lanes. -/
  | fdot (d : BitVec 7) (t : TailV)
  /-- `QNT` (R199): Quantises elements to a block element type under a scale. -/
  | qnt (d : BitVec 7) (t : TailV)
  /-- `QNT_SCL` (R198): Derives an E8M0 block scale from a largest magnitude. -/
  | qntScl (d : BitVec 7) (t : TailV)
  /-- `DQNT` (R200): Dequantises block elements under a scale. -/
  | dqnt (d : BitVec 7) (t : TailV)
  /-- `RAND` (R201): Writes Philox random blocks, from registers or the bound stream. -/
  | rand (d : BitVec 7) (t : TailV)
  /-- `ROPE` (R204): Rotates element pairs by positional phases from the rotary table. -/
  | rope (d : BitVec 7) (t : TailV)
  /-- `ROPE_SET` (R204): Writes entries of the core's rotary table. -/
  | ropeSet (d : BitVec 7) (t : TailV)
  /-- `FPCSET` (R205): Writes, sets or clears bits of %fpc and returns the old value. -/
  | fpcset (d : BitVec 7) (t : TailV)
  /-- `LD` (R156): Loads from the context's paddock regions into registers. -/
  | ld (d : BitVec 7) (t : TailM)
  /-- `ST` (R156): Stores registers into the context's paddock regions. -/
  | st (d : BitVec 7) (t : TailM)
  /-- `LDA` (R300): Loads from accumulator memory, optionally peeking under matrix locks. -/
  | lda (d : BitVec 7) (t : TailM)
  /-- `STA` (R300): Stores into accumulator memory. -/
  | sta (d : BitVec 7) (t : TailM)
  /-- `MOVX` (R158): Reads registers by computed index. -/
  | movx (d : BitVec 7) (t : TailV)
  /-- `MOVXS` (R158): Writes registers by computed index. -/
  | movxs (d : BitVec 7) (t : TailV)
  /-- `LNKR` (R113): Reads a register of the context bound on another slot. -/
  | lnkr (d : BitVec 7) (t : TailV)
  /-- `LNKW` (R113): Writes a register of the context bound on another slot. -/
  | lnkw (d : BitVec 7) (t : TailV)
  /-- `CHBIND` (R115): Binds a channel register to a route tag. -/
  | chbind (d : BitVec 7) (t : TailV)
  /-- `CHBIND_OFF` (R115): Removes a channel binding and drops its queued packets. -/
  | chbindOff (d : BitVec 7) (t : TailV)
  /-- `CHSEND` (R116): Sends a 16-byte channel packet to a routed tag. -/
  | chsend (d : BitVec 7) (t : TailV)
  /-- `GATH` (R159): Gathers elements from scattered paddock addresses. -/
  | gath (d : BitVec 7) (t : TailV)
  /-- `SCAT` (R159): Scatters elements to paddock addresses. -/
  | scat (d : BitVec 7) (t : TailV)
  /-- `GENNEW` (R160): Gives a region a fresh generation, clearing it. -/
  | gennew (d : BitVec 7) (t : TailV)
  /-- `GENQ` (R161): Reports a region's base, size and generation. -/
  | genq (d : BitVec 7) (t : TailV)
  /-- `GENQ_GRAN` (R161): Tests whether a granule is live and which region holds it. -/
  | genqGran (d : BitVec 7) (t : TailV)
  /-- `LDG` (R241): Loads from global memory, with optional acquire order. -/
  | ldg (d : BitVec 7) (t : TailM)
  /-- `STG` (R241): Stores to global memory through the store buffer. -/
  | stg (d : BitVec 7) (t : TailM)
  /-- `ATOM` (R242): Indivisible read-modify-write at the home or remote agent. -/
  | atom (d : BitVec 7) (t : TailM)
  /-- `CAS` (R242): Indivisible compare-and-swap. -/
  | cas (d : BitVec 7) (t : TailM)
  /-- `RED` (R242): Reduction store performed at the home. -/
  | red (d : BitVec 7) (t : TailM)
  /-- `FENCE` (R244): Orders the context's global accesses at a scope. -/
  | fence (d : BitVec 7) (t : TailV)
  /-- `PREF` (R245): Prefetches a line; no visible effect. -/
  | pref (d : BitVec 7) (t : TailM)
  /-- `LDNC` (R241): Loads through the read-only fabric cache. -/
  | ldnc (d : BitVec 7) (t : TailM)
  /-- `FABINV` (R248): Empties the fabric caches and prefetched code of every die in scope. -/
  | fabinv (d : BitVec 7) (t : TailV)
  /-- `FLUSHL` (R246): Writes every dirty copy of a line back to memory. -/
  | flushl (d : BitVec 7) (t : TailM)
  /-- `INVL` (R247): Removes a line from the die's fabric cache. -/
  | invl (d : BitVec 7) (t : TailM)
  /-- `SEND` (R117): Sends a message that creates a task on a named core. -/
  | send (d : BitVec 7) (t : TailE)
  /-- `SEND_LAUNCH` (R117): Sends a 256-byte launch record to the die's launch unit. -/
  | sendLaunch (d : BitVec 7) (t : TailE)
  /-- `SPAWN` (R117): Creates a task on the issuing core through its arrival buffer. -/
  | spawn (d : BitVec 7) (t : TailE)
  /-- `CWAIT` (R215): Waits until a counter reaches an immediate threshold. -/
  | cwait (d : BitVec 7) (t : TailI)
  /-- `CWAITR` (R215): Waits on a counter and threshold from registers, optionally for equality. -/
  | cwaitr (d : BitVec 7) (t : TailV)
  /-- `CSIG` (R216): Signals a local counter. -/
  | csig (d : BitVec 7) (t : TailI)
  /-- `CSIG_RMT` (R216): Sends an urgent counter signal to another core. -/
  | csigRmt (d : BitVec 7) (t : TailI)
  /-- `CSET` (R217): Sets a counter's value and clears OVF. -/
  | cset (d : BitVec 7) (t : TailI)
  /-- `CGET` (R217): Reads a counter, optionally clearing OVF. -/
  | cget (d : BitVec 7) (t : TailI)
  /-- `CTRIG` (R219): Arms a counter trigger. -/
  | ctrig (d : BitVec 7) (t : TailV)
  /-- `CTRIG_OFF` (R219): Disarms a counter trigger. -/
  | ctrigOff (d : BitVec 7) (t : TailV)
  /-- `BAR` (R224): Joins the launch's barrier at a scope and waits for its phase. -/
  | bar (d : BitVec 7) (t : TailV)
  /-- `CHKW` (R222): Waits on, tests and optionally clears chunk-map bits. -/
  | chkw (d : BitVec 7) (t : TailV)
  /-- `GET` (R284): Copies global bytes into local space. -/
  | get (d : BitVec 7) (t : TailE)
  /-- `PUT` (R285): Copies local bytes to a global destination. -/
  | put (d : BitVec 7) (t : TailE)
  /-- `TCOPY` (R287): Copies one layout walk onto another. -/
  | tcopy (d : BitVec 7) (t : TailE)
  /-- `TGATH` (R288): Gathers rows through an index list. -/
  | tgath (d : BitVec 7) (t : TailE)
  /-- `TSCAT` (R288): Scatters rows through an index list. -/
  | tscat (d : BitVec 7) (t : TailE)
  /-- `CFILL` (R289): Fills a destination walk with one value. -/
  | cfill (d : BitVec 7) (t : TailE)
  /-- `CREPLAY` (R293): Resumes or aborts a held CXL request. -/
  | creplay (d : BitVec 7) (t : TailV)
  /-- `LAYSET` (R291): Writes a layout slot from registers or paddock. -/
  | layset (d : BitVec 7) (t : TailE)
  /-- `LAYGET` (R291): Reads a layout record or its conflict counter. -/
  | layget (d : BitVec 7) (t : TailE)
  /-- `LAYKEY` (R292): Binds a key handle to a layout slot. -/
  | laykey (d : BitVec 7) (t : TailE)
  /-- `MMA` (R308): Issues a matrix multiply-accumulate command, solo or ganged. -/
  | mma (d : BitVec 7) (t : TailE)
  /-- `MMZ` (R314): Issues a command that clears accumulator tiles. -/
  | mmz (d : BitVec 7) (t : TailV)
  /-- `WBLD` (R304): Loads a weight-buffer half from a layout record. -/
  | wbld (d : BitVec 7) (t : TailE)
  /-- `WBSEL` (R305): Selects or toggles the weight-buffer half for later MMAs. -/
  | wbsel (d : BitVec 7) (t : TailV)
  /-- `ACCVT` (R315): Converts a tile into the paddock through a record. -/
  | accvt (d : BitVec 7) (t : TailE)
  /-- `SFORK` (R343): Forks a stream, or creates a root stream. -/
  | sfork (d : BitVec 7) (t : TailV)
  /-- `SRET` (R345): Posts a stream's word to its join group. -/
  | sret (d : BitVec 7) (t : TailV)
  /-- `SPRUNE` (R344): Frees a stream. -/
  | sprune (d : BitVec 7) (t : TailV)
  /-- `SADV` (R346): Advances a stream's layer cursor and horizon. -/
  | sadv (d : BitVec 7) (t : TailV)
  /-- `SACT_PUSH` (R347): Pushes a record onto a stream's action queue. -/
  | sactPush (d : BitVec 7) (t : TailV)
  /-- `SACT_POP` (R347): Pops the head record of a stream's action queue. -/
  | sactPop (d : BitVec 7) (t : TailV)
  /-- `SACT_PEEK` (R347): Reads the head record of an action queue without popping. -/
  | sactPeek (d : BitVec 7) (t : TailV)
  /-- `SPGR` (R349): Reads stream state pages into local space. -/
  | spgr (d : BitVec 7) (t : TailE)
  /-- `SPGW` (R349): Writes local data into stream state pages, cloning shared frames. -/
  | spgw (d : BitVec 7) (t : TailE)
  /-- `SCOMMIT_BEGIN` (R331): Opens a speculative step on a stream. -/
  | scommitBegin (d : BitVec 7) (t : TailV)
  /-- `SCOMMIT_COMMIT` (R331): Installs the speculative overlay into the committed table. -/
  | scommitCommit (d : BitVec 7) (t : TailV)
  /-- `SCOMMIT_DISCARD` (R331): Discards the speculative overlay and restores state. -/
  | scommitDiscard (d : BitVec 7) (t : TailV)
  /-- `SSTAT` (R351): Reads descriptor bits or the die's free pool counts. -/
  | sstat (d : BitVec 7) (t : TailV)
  /-- `SSET_BIND` (R352): Binds a stream to the issuing context. -/
  | ssetBind (d : BitVec 7) (t : TailV)
  /-- `SSET_PRIO` (R352): Sets a stream's priority. -/
  | ssetPrio (d : BitVec 7) (t : TailV)
  /-- `SSET_MODEL` (R352): Sets layers, base, cursor and staging of a stream. -/
  | ssetModel (d : BitVec 7) (t : TailV)
  /-- `SSET_JOIN` (R352): Sets a stream's join group. -/
  | ssetJoin (d : BitVec 7) (t : TailV)
  /-- `SSET_RUN` (R352): Moves a stream to READY or IDLE. -/
  | ssetRun (d : BitVec 7) (t : TailV)
  /-- `SSET_RNG` (R352): Sets a stream's random key and counter. -/
  | ssetRng (d : BitVec 7) (t : TailV)
  /-- `SSET_QUEUE` (R352): Sets a stream's action queue. -/
  | ssetQueue (d : BitVec 7) (t : TailV)
  /-- `SSET_PEN` (R352): Creates or releases a stream's penalty page. -/
  | ssetPen (d : BitVec 7) (t : TailV)
  /-- `SHOR` (R353): Reads and optionally sets a stream's horizon. -/
  | shor (d : BitVec 7) (t : TailV)
  /-- `SMIG` (R354): Starts migration of a stream to another die. -/
  | smig (d : BitVec 7) (t : TailE)
  /-- `TTRESET` (R361): Empties a token tree, gives it a root and settles its binding. -/
  | ttreset (d : BitVec 7) (t : TailV)
  /-- `TTADD` (R363): Appends a node to a token tree. -/
  | ttadd (d : BitVec 7) (t : TailV)
  /-- `TTMASK` (R364): Writes a node's 256-bit ancestor-or-self mask. -/
  | ttmask (d : BitVec 7) (t : TailV)
  /-- `TTPOS` (R365): Writes positions of consecutive nodes. -/
  | ttpos (d : BitVec 7) (t : TailV)
  /-- `TTPOS_HDR` (R365): Writes a tree's header. -/
  | ttposHdr (d : BitVec 7) (t : TailV)
  /-- `TTANC` (R366): Tests ancestry of two nodes. -/
  | ttanc (d : BitVec 7) (t : TailV)
  /-- `TTPATH` (R367): Reads the path or tokens from the root to a node. -/
  | ttpath (d : BitVec 7) (t : TailV)
  /-- `TTPRUNE` (R368): Accepts a path, commits a prefix and writes the row map. -/
  | ttprune (d : BitVec 7) (t : TailV)
  /-- `JOPEN` (R378): Opens a join group. -/
  | jopen (d : BitVec 7) (t : TailV)
  /-- `JPUT` (R379): Posts a value and key to a join group. -/
  | jput (d : BitVec 7) (t : TailV)
  /-- `JGET` (R387): Reads a join group's state. -/
  | jget (d : BitVec 7) (t : TailV)
  /-- `JGET_CLOSE` (R387): Reads a join group and completes it early. -/
  | jgetClose (d : BitVec 7) (t : TailV)
  /-- `PSORT` (R388): Issues a top-K selection over paddock values. -/
  | psort (d : BitVec 7) (t : TailE)
  /-- `SDESC` (R389): Finds a token within a shard by prefix sums. -/
  | sdesc (d : BitVec 7) (t : TailV)
  /-- `RLQ` (R294): Reports free queue and lock entries and locks over a range. -/
  | rlq (d : BitVec 7) (t : TailV)
  /-- `PERFR` (R390): Reads, optionally clearing, an event counter. -/
  | perfr (d : BitVec 7) (t : TailV)
  /-- `MK_BCAST` (R133): Delivers a broadcast block to herded slots of a mask. -/
  | mkBcast (r : RType)
  /-- `MK_LOOSE` (R133): Makes herded slots of a mask strays at an IP. -/
  | mkLoose (r : RType)
  /-- `MK_STOPPED` (R133): Returns the parked and herded slot masks. -/
  | mkStopped (r : RType)
  /-- `MK_WAITF` (R133): Waits until every slot of a mask is herded, parked or empty. -/
  | mkWaitf (r : RType)
  /-- `MK_HALTF` (R133): Retires the herded slots of a mask. -/
  | mkHaltf (r : RType)
  /-- `MK_LINK` (R134): Reads or writes a register, predicate or descriptor word of a bound context. -/
  | mkLink (r : RType)
  /-- `MK_CTXNEW` (R136): Creates a HELD context. -/
  | mkCtxnew (r : RType)
  /-- `MK_CTXFREE` (R135): Frees a HELD or READY context. -/
  | mkCtxfree (r : RType)
  /-- `MK_BIND` (R135): Binds a context herded to an empty slot. -/
  | mkBind (r : RType)
  /-- `MK_UNBIND` (R135): Takes a parked context off its slot. -/
  | mkUnbind (r : RType)
  /-- `MK_RUNQ` (R135): Sets context fields and releases a HELD context to the run queue. -/
  | mkRunq (r : RType)
  /-- `MK_UPRET` (R135): Resumes a parked context on its slot. -/
  | mkUpret (r : RType)
  /-- `MK_UPRET_RETURN` (R135): Returns the hart from an upcall. -/
  | mkUpretReturn (r : RType)
  /-- `MK_MIGR` (R135): Moves a READY context to another core of the die. -/
  | mkMigr (r : RType)
  /-- `MK_GENNEW` (R135): Gives a context region or the save region a fresh generation. -/
  | mkGennew (r : RType)
  /-- `MK_CWAIT` (R137): Stalls the hart until a counter reaches a threshold. -/
  | mkCwait (r : RType)
  /-- `MK_CSIG` (R137): Signals a counter from the hart. -/
  | mkCsig (r : RType)
  /-- `MK_CSET` (R137): Sets a counter from the hart. -/
  | mkCset (r : RType)
  /-- `MK_CGET` (R137): Reads a counter and its overflow bit. -/
  | mkCget (r : RType)
  /-- `MK_ENGW` (R138): Writes an engine shadow word and optionally commits the command. -/
  | mkEngw (r : RType)
  /-- `MK_ENGR` (R137): Reads a word of an engine port's shadow or active set. -/
  | mkEngr (r : RType)
  /-- `MK_SHSWAP` (R140): Checks, drains and exchanges the core's active and shadow sets. -/
  | mkShswap (r : RType)
  /-- `MK_FREEZE` (R139): Freezes a context, post queue or engine request stream. -/
  | mkFreeze (r : RType)
  /-- `MK_THAW` (R139): Releases a frozen agent. -/
  | mkThaw (r : RType)
  /-- `MK_PLBW` (R139): Writes a PLB entry. -/
  | mkPlbw (r : RType)
  /-- `MK_PLBINV` (R139): Invalidates PLB entries. -/
  | mkPlbinv (r : RType)
  /-- `MK_DBGRD` (R141): Reads raw paddock data or tag under debug authorisation. -/
  | mkDbgrd (r : RType)
  /-- `MK_DBGWR` (R141): Writes raw paddock data or tag under debug authorisation. -/
  | mkDbgwr (r : RType)
  /-- `RESERVED_OPCODE` (R70): A slot reaches an instruction with a reserved major, an unused SUB or a mismatched TL and faults ILLEGAL_OP. -/
  | reservedOpcode
  /-- `ILLEGAL_LINE` (R47): A slot enters a malformed line or a bad head index and faults ILLEGAL_LINE. -/
  | illegalLine
  /-- `CUSTOM0_RESERVED` (R74): A custom-0 instruction with an unlisted funct3 or funct7 raises the hart's illegal-instruction exception. -/
  | custom0Reserved (word : BitVec 32)
  /-- `HART_MEMORY_ACCESS` (R120): A RISC-V load, store, AMO or LR/SC of the hart through the save-area window or the virtual space. -/
  | hartMemoryAccess (x : HartAccess)
  /-- `HART_FENCE` (R121): A RISC-V FENCE, FENCE.TSO or FENCE.I drains the hart's stores and orders at scope sys or acts as FABINV at scope die. -/
  | hartFence (k : HartFence)
  /-- `CONTEXT_BIND` (R97): The thread engine binds the first run-queue entry to an empty slot in 2 cc. -/
  | contextBind (d c : Nat)
  /-- `AGING_STEP` (R99): Each 65,536 cc a READY context spends unbound lowers its EPRIO by one. -/
  | agingStep (d c ix : Nat)
  /-- `MESSAGE_ARRIVAL` (R94): A message enters the target core's arrival buffer, or is held, or discarded for its domain. -/
  | messageArrival (pkt : Nat)
  /-- `MESSAGE_CREATE` (R94): The head of the arrival buffer becomes a task once an index and frame are free. -/
  | messageCreate (d c : Nat)
  /-- `MESSAGE_SEND` (R117): A SEND or SPAWN post-queue entry sends its message once its wait is met. -/
  | messageSend (d c e : Nat)
  /-- `CHANNEL_PACKET_ARRIVAL` (R96): A channel packet joins its binding queue, is held, or is dropped. -/
  | channelPacketArrival (pkt : Nat)
  /-- `MAILBOX_DELIVERY` (R129): A message or trigger with handler IP 0 is written to the hart mailbox when an entry is free. -/
  | mailboxDelivery (d c : Nat)
  /-- `LOCAL_INTERRUPT` (R127): The hart takes a pending enabled local interrupt. -/
  | localInterrupt (d c : Nat)
  /-- `UPCALL_ENTRY` (R131): The hart enters the head upcall at a U-mode boundary. -/
  | upcallEntry (d c : Nat)
  /-- `LOAD_REFRESH` (R126): mk_load is refreshed every 64 cc. -/
  | loadRefresh (d c : Nat)
  /-- `SLICE_COPY` (R126): mk_slice is copied from the die controller every 64 of its cycles. -/
  | sliceCopy (d c : Nat)
  /-- `BALANCE_MOVE` (R429): An overloaded core moves at most one READY context per 64 cc. -/
  | balanceMove (d c : Nat)
  /-- `CONTEXT_MIGRATE_ARRIVAL` (R429): A moved context's message arrives and it is created READY at the target. -/
  | contextMigrateArrival (pkt : Nat)
  /-- `SHEARER_SCAN` (R148): In an idle bank cycle the shearer retags stale granules to 0. -/
  | shearerScan (d c bank : Nat)
  /-- `SHEAR_FORCED_RATE` (R148): After an Alloc stalls 4,096 cc the shearer takes one cycle in eight of every bank. -/
  | shearForcedRate (d c : Nat)
  /-- `REGION_RENEW` (R149): The core retags a due region under a fresh generation. -/
  | regionRenew (d c : Nat) (shadow : Bool) (ix g : Nat)
  /-- `BANK_WAKE` (R151): Gated banks needed by a creation or access wake together after 40 cc. -/
  | bankWake (d c : Nat)
  /-- `COMMAND_CAPTURE` (R269): A command in the port's active set is captured into its post-queue entry in 2 cc. -/
  | commandCapture (d c port : Nat)
  /-- `COMMAND_DISPATCH` (R270): A captured command whose wait and store conditions hold is sent to its engine. -/
  | commandDispatch (d c e : Nat)
  /-- `CHUNK_LAND` (R272): An engine writes a chunk's destination bytes and sets its chunk-map bit. -/
  | chunkLand (d c e j : Nat) (crcBad : Bool)
  /-- `COMPLETION_MESSAGE` (R272): The completion message lifts locks, frees the entry and signals the issuing counter. -/
  | completionMessage (d c e : Nat)
  /-- `COMMAND_FAIL` (R273): A dispatched command that fails ends without signals and posts a REMOTE report. -/
  | commandFail (d c e : Nat)
  /-- `CXL_NOT_PRESENT` (R282): A CXL pool answer of not present holds the request and posts a CXL_REPLAY upcall. -/
  | cxlNotPresent (d c e : Nat)
  /-- `TRIGGER_TASK_CREATE` (R220): A pending trigger takes an arrival-buffer place and creates its task. -/
  | triggerTaskCreate (d c k : Nat)
  /-- `COUNTER_SIGNAL_PACKET` (R216): A remote counter signal arrives and is applied at the named set. -/
  | counterSignalPacket (pkt : Nat)
  /-- `COUNTER_WINDOW_READ` (R213): An 8-byte load of the counter window returns the counter map. -/
  | counterWindowRead (a : Agent)
  /-- `COUNTER_WINDOW_SET` (R213): An 8-byte store to the counter window sets the counter. -/
  | counterWindowSet (d c : Nat)
  /-- `COUNTER_WINDOW_SIGNAL` (R213): A RED add to the counter window signals the counter. -/
  | counterWindowSignal (d c : Nat)
  /-- `GANG_TIMEOUT` (R310): A member that waits GTO cc faults GANG_TIMEOUT and leaves the gang. -/
  | gangTimeout (d c ix : Nat)
  /-- `GANG_START` (R310): A formed gang starts when every member's command is active and clear. -/
  | gangStart (d gang : Nat)
  /-- `MMA_START` (R311): An MMA starts when no earlier conflicting lock remains, clearing and masking its tile. -/
  | mmaStart (d c : Nat)
  /-- `MMA_GROUP_LAND` (R311): A K-group's update lands in the tile. -/
  | mmaGroupLand (d c : Nat)
  /-- `MMA_COMPLETE` (R313): An MMA's last group lands; it lifts locks and signals. -/
  | mmaComplete (d c : Nat)
  /-- `MMZ_START` (R314): An MMZ starts under the hazard rule and zeroes its tiles. -/
  | mmzStart (d c : Nat)
  /-- `MMZ_COMPLETE` (R314): An MMZ finishes its tiles and lifts its locks. -/
  | mmzComplete (d c : Nat)
  /-- `WEIGHT_REPLAY_COMPLETE` (R318): A half's replay lands, lifting its lock and signalling a pending WBLD. -/
  | weightReplayComplete (d c h : Nat) (failed : Bool)
  /-- `PSORT_COMPLETE` (R388): A PSORT writes its top-K header and entries and signals. -/
  | psortComplete (d c e : Nat)
  /-- `STORE_PERFORM` (R236): The last acknowledgement arrives and a write performs, retiring its buffer entry. -/
  | storePerform (d c : Nat)
  /-- `HOME_WRITE` (R236): A write reaches the home, which puts the line in P and sends invalidations. -/
  | homeWrite (d c : Nat)
  /-- `HOME_READ` (R230): A read request reaches the home directory and is served or held. -/
  | homeRead (a : Agent)
  /-- `INVALIDATION` (R236): A copy receives an invalidation and acknowledges it. -/
  | invalidation (line : Nat) (p : Ptr)
  /-- `KEEPER_POST` (R231): The overflow keeper records an extra sharer. -/
  | keeperPost (a : Agent)
  /-- `KEEPER_INVALIDATE` (R231): The keeper invalidates its recorded sharers and collects their acknowledgements. -/
  | keeperInvalidate (line : Nat)
  /-- `KEEPER_COMPLETE` (R231): The keeper's completion reaches the directory. -/
  | keeperComplete (line : Nat)
  /-- `PROXY_MISS` (R232): A die's coherence proxy serves a miss on a remotely homed line, evicting as needed. -/
  | proxyMiss (a : Agent) (victim : Option Nat)
  /-- `CACHE_FILL` (R233): A line arrives in a paddock cache, moving a victim within its group. -/
  | cacheFill (a : Agent) (victim : Option Nat) (toCore : Nat)
  /-- `ATOMIC_AT_HOME` (R235): An ATOM or CAS performs indivisibly at the home after the buffer drains. -/
  | atomicAtHome (a : Agent)
  /-- `LOAD_REPLY` (R241): A global load's value returns and is written to its registers. -/
  | loadReply (a : Agent)
  /-- `REMOTE_PADDOCK_ACCESS` (R238): The remote agent serves a class 0 access or holds it under a lock. -/
  | remotePaddockAccess (a : Agent)
  /-- `FABRIC_CACHE_FILL` (R237): A fabric-cache miss fills from the line's home. -/
  | fabricCacheFill (a : Agent) (victim : Option Nat)
  /-- `HOST_ATOMIC_COMPLETION` (R243): A host AtomicOp completes, or faults REMOTE on Unsupported Request. -/
  | hostAtomicCompletion (a : Agent) (old : BitVec 64) (ur : Bool)
  /-- `PLB_REFILL` (R401): The translation agent returns a range from the domain's list and the core installs it. -/
  | plbRefill (a : Agent)
  /-- `TABLE_WALK` (R404): The translation agent walks the table for a request, caching or faulting PAGE. -/
  | tableWalk (a : Agent)
  /-- `SHOOTDOWN` (R406): A write of SHOOT with GO starts a shootdown of one page range. -/
  | shootdown (d : Nat) (v : BitVec 64)
  /-- `SHOOTDOWN_COMPLETE` (R406): Every old use of the range has ended and GO reads 0. -/
  | shootdownComplete (d : Nat)
  /-- `SLICE_EXPIRY` (R426): REMAIN reaches 0, pending cause 20 and raising PREQ when another partition waits. -/
  | sliceExpiry (d p : Nat)
  /-- `PREEMPT_ORDER` (R435): The die controller orders the exchange once every core has set PACK. -/
  | preemptOrder (d p : Nat)
  /-- `SHSWAP_EXCHANGE` (R140): After the drain ends the sets are exchanged in one step and PACK and PREQ cleared. -/
  | shswapExchange (d c : Nat)
  /-- `PREEMPT_LATE` (R436): A core not acknowledging within 2^20 controller cycles is reported. -/
  | preemptLate (d c : Nat)
  /-- `COPY_OUT` (R437): The die controller copies a shadow set to HBM. -/
  | copyOut (d c : Nat)
  /-- `COPY_IN` (R437): A saved set is copied into a free shadow set and held updates applied. -/
  | copyIn (d c p img : Nat)
  /-- `FREEZE_PACKET` (R439): An urgent freeze packet reaches the sender's core and freezes the matching context. -/
  | freezePacket (pkt : Nat)
  /-- `FTHAW_WRITE` (R442): An M-mode store to FTHAW releases a frozen PCIe function. -/
  | fthawWrite (d : Nat) (v : BitVec 64)
  /-- `LAUNCH_PACKET` (R416): A LAUNCH packet is accepted and its parameter block copied to each die. -/
  | launchPacket (src : PktSrc) (w : BitVec 2048) (relaxed : Bool)
  /-- `GLOAD_PACKET` (R421): A GLOAD packet loads and checks a task graph. -/
  | gloadPacket (src : PktSrc) (w : BitVec 2048) (relaxed : Bool)
  /-- `REPLAY_PACKET` (R423): A REPLAY packet joins the graph's replay queue. -/
  | replayPacket (src : PktSrc) (w : BitVec 2048) (relaxed : Bool)
  /-- `PATCH_PACKET` (R424): A PATCH packet writes bytes into a node's inline block. -/
  | patchPacket (src : PktSrc) (w : BitVec 2048) (relaxed : Bool)
  /-- `REGISTER_PACKET` (R415): A REGISTER packet checks and enters an image. -/
  | registerPacket (src : PktSrc) (w : BitVec 2048) (relaxed : Bool)
  /-- `SHARE_PLACE` (R417): A die places a launch's whole share once every chosen core has room. -/
  | sharePlace (l d : Nat) (wps : List Nat)
  /-- `TASK_CREATE` (R418): A placed task is created once its generation can be drawn. -/
  | taskCreate (l d c : Nat)
  /-- `LAUNCH_COMPLETE` (R420): Every task has retired and every die reported; reservations are released and DONE written. -/
  | launchComplete (l : Nat)
  /-- `REPLAY_START` (R423): A queued replay snapshots the graph and launches its root nodes. -/
  | replayStart (part g : Nat)
  /-- `DROVE_DISPATCH` (R337): The drover dispatches a drove when its queue is long or old enough and room exists. -/
  | droveDispatch (d e : Nat)
  /-- `RESIDENCY_WRITE` (R336): A write to a weight residency entry re-judges the streams queued at it. -/
  | residencyWrite (d e : Nat) (v : BitVec 128)
  /-- `FRAME_CASCADE` (R330): The background cascade decrements children of freed frames and returns them to pools. -/
  | frameCascade (d : Nat)
  /-- `TIER_MOVE` (R334): The stream processor moves an unpinned frame between tiers. -/
  | tierMove (d tier : Nat) (node : Bool) (frame toTier toFrame : Nat)
  /-- `MIGRATION_PULL` (R340): The destination allocates a descriptor and pulls the stream's descriptor and frames. -/
  | migrationPull (m : Nat)
  /-- `MIGRATION_SWITCH` (R340): When all frames have arrived the stream resumes at the destination and the result is written. -/
  | migrationSwitch (m : Nat)
  /-- `JOIN_ARRIVAL` (R379): A post reaches the join unit and is counted or refused. -/
  | joinArrival (pkt : Nat)
  /-- `CHILD_RESULT_ARRIVAL` (R383): A child group's result arrives at its parent, or is lost and reported. -/
  | childResultArrival (pkt : Nat)
  /-- `DESCENT_STEP` (R384): A DESCENT group receives the descent and chooses among its candidates. -/
  | descentStep (pkt : Nat)
  /-- `JOIN_PRUNE` (R385): A stream processor frees a losing stream at a pruning join's request. -/
  | joinPrune (pkt : Nat)
  /-- `PACKET_ROUTE` (R448): A router or port forwards a packet, discarding it when unreachable. -/
  | packetRoute (pkt : Nat) (evict : Option Nat)
  /-- `EVICTION_NOTICE` (R446): An eviction notice reaches the source, which resends the packet. -/
  | evictionNotice (pkt : Nat)
  /-- `END_TO_END_ACK` (R446): The destination's acknowledgement lets the source drop its kept copy. -/
  | endToEndAck (pkt : Nat)
  /-- `CLASS_AGING` (R445): A head packet waiting 1,024 cc at an output gets the next flit slot. -/
  | classAging (pkt : Nat)
  /-- `FLIT_REPLAY` (R463): A flit failing its link CRC is replayed from the sender's buffer. -/
  | flitReplay (d port lane : Nat)
  /-- `LANE_RETRAIN` (R466): A lane is replaced by its spare and the port retrains. -/
  | laneRetrain (d port lane : Nat)
  /-- `LINK_UP` (R452): A Lamong port trains and comes up, reported in the post box. -/
  | linkUp (port : Nat)
  /-- `LINK_DOWN` (R452): A Lamong port goes down, reported in the post box. -/
  | linkDown (port : Nat)
  /-- `BAR4_WRITE` (R453): A host write through BAR 4 performs at the line's home. -/
  | bar4Write (port fn off : Nat) (bytes : List (BitVec 8)) (relaxed : Bool)
  /-- `BAR4_READ` (R453): A host read through BAR 4 returns backing memory. -/
  | bar4Read (port fn off n : Nat)
  /-- `CONFIG_REQUEST` (R496): A PCIe configuration request, answered with retry status until start-up ends. -/
  | configRequest (port fn : Nat)
  /-- `POST_RECORD` (R458): A die controller writes a post-box record and its MSI-X message when the ring has room. -/
  | postRecord (d : Nat)
  /-- `PBCTL_WRITE` (R458): A write to PBCTL; EN rising resets SEQ, PBWR and PBRD. -/
  | pbctlWrite (v : BitVec 64)
  /-- `PARTITION_WRITE` (R425): A partition record write, ignored and reported while the partition is live. -/
  | partitionWrite (d p : Nat) (v : BitVec 512)
  /-- `MK_SPLIT_WRITE` (R124): A write to mk_split resizes the cache portion, stalling for write-back when shrinking. -/
  | mkSplitWrite (v : BitVec 64)
  /-- `MK_SLICE_PACK` (R435): The hart sets PACK to acknowledge pre-emption. -/
  | mkSlicePack (v : BitVec 64)
  /-- `REGISTER_WRITE` (R7): A write to a register or CSR with no behaviour of its own. -/
  | registerWrite (r : RegTarget) (v : BitVec 256)
  /-- `HBM_CHANNEL_SPARE` (R466): The HBM controller finishes copying a channel to its spare. -/
  | hbmChannelSpare (d stack : Nat)
  /-- `RATE_WINDOW` (R468): The 2^24-cycle window after a rate FAILWARN expires. -/
  | rateWindow (d : Nat)
  /-- `POWER_MEASURE` (R489): Every 4,096 controller cycles the die measures power and temperature and caps matrix starts. -/
  | powerMeasure (d power temp : Nat)
  /-- `THERMAL_TRIP` (R491): A 110 °C junction or low coolant flow for 1 s holds every die in reset. -/
  | thermalTrip (coolant : Bool)
  /-- `SUPPLY_FAULT` (R488): Input voltage out of range for 1 ms holds every die in reset. -/
  | supplyFault
  /-- `MODULE_RESET` (R496): The module starts in order: Dilvoac, die controllers, PCIe, Lamong, harts. -/
  | moduleReset
  /-- `MCTP_TELEMETRY` (R495): A management request for telemetry. -/
  | mctpTelemetry (m : MctpMsg)
  /-- `MCTP_ATTESTATION` (R493): Dilvoac returns a signed attestation report. -/
  | mctpAttestation (m : MctpMsg)
  /-- `MCTP_IMAGE_STAGE` (R492): A new image is staged and verified, or discarded. -/
  | mctpImageStage (m : MctpMsg)
  /-- `MCTP_KEY_LOAD` (R494): Dilvoac loads a key slot for a domain. -/
  | mctpKeyLoad (m : MctpMsg)
  /-- `MCTP_KEY_CLEAR` (R494): Dilvoac clears a key slot. -/
  | mctpKeyClear (m : MctpMsg)
  /-- `MCTP_DEBUG_AUTH` (R494): Dilvoac grants debug authorisation on a signed request. -/
  | mctpDebugAuth (m : MctpMsg)
  /-- `MCTP_DEBUG_REVOKE` (R494): Dilvoac revokes debug authorisation. -/
  | mctpDebugRevoke (m : MctpMsg)
  /-- `MCTP_CONTROL` (R495): An MCTP control message is served or answered with an error completion. -/
  | mctpControl (m : MctpMsg)
  /-- `RESERVED_PACKET_TYPE` (R414): A launch packet of reserved TYPE is answered with BAD_PACKET and nothing else happens. -/
  | reservedPacketType (src : PktSrc) (w : BitVec 2048) (relaxed : Bool)
  /-- `CORE_FAILURE` (R468): A core fails in service, raising FAILWARN with CAUSE 3 and awaiting replacement at the next die reset. -/
  | coreFailure (d phys : Nat)
  /-- `DIE_RESET` (R466): A die is reset, bringing in core spares and updating mk_cap for banks that have shrunk. -/
  | dieReset (d : Nat)
  deriving DecidableEq, Repr, Inhabited

end Sys2Proof
end

