-- ==== Sys2Proof/Config.lean ====
section
/-! DEFINITION. What an implementation fixes, and the free values: constants without a body, so that nothing can be proved
of the value a model user might expect. Each is named in a log entry. -/

namespace Sys2Proof

/-- A protected word that an error strikes (R464): a granule of a core's active set, a 16-byte word of its accumulators or of its
weight buffer, the word of pasture or HBM at a fabric address, or the record of a stream or a group (R465). -/
inductive Flaw where
  | pad (d c g : Nat)
  | acc (d c i : Nat)
  | wbuf (d c i : Nat)
  | mem (fa : Nat)
  | stream (d i : Nat)
  | group (d i : Nat)
  deriving DecidableEq, Repr, Inhabited

/-- Whose turn comes next: an agent issues an instruction, a unit takes one of its steps, a core's arithmetic clock or a
die controller's clock advances by one cycle; the host writes or reads BAR 2 of a PCIe function (R411); or an error strikes a
protected word, one that the code corrects or one that it only detects (R464). -/
inductive Turn where
  | run (a : Agent)
  | event (i : Instr)
  | cc (d c : Nat)
  | dcc (d : Nat)
  | bar2Write (port fn off : Nat) (bytes : List (BitVec 8)) (relaxed : Bool)
  | bar2Read (port fn off n : Nat)
  | flaw (w : Flaw) (corrected : Bool)
  deriving DecidableEq, Repr, Inhabited

/-- Whose turn comes at step number `n` when no schedule is given (log entry 2). -/
opaque Config.freeTurn : Nat → Turn

/-- Revision of the dies (R119): as shipped, B1. -/
def Config.mimpid : Nat := 0x201

/-- Free 64-bit value number `n`: what a read returns where the manual states no value (log entry 3). -/
opaque Config.freeWord : Nat → BitVec 64

/-- Free choice number `n` among things that all serve (log entry 4). -/
opaque Config.freePick : Nat → Nat

/-- What an approximated function computes before its bound is checked: function, TY, the control bits of %fpc, operand bits
(log entry 7). -/
opaque Config.approx : Nat → Nat → Nat → Nat → Nat

/-- Cosine (false) and sine (true) that ROPE uses for a phase, as n · 2^-k, before the bound is checked (log entry 7). -/
opaque Config.ropeTrig : Nat → Bool → Int × Nat

/-- What LSE computes before its bound is checked: value type, the value bits in ascending order (log entry 7). -/
opaque Config.lse : Nat → List Nat → Nat

/-- The public key that signs images, a point of the curve held in Dilvoac's ROM (R492), and the debug key that its firmware names
(R494, log entry 9). -/
opaque Config.imageKey : Nat × Nat
opaque Config.debugKey : Nat × Nat

/-- The device identity key, and the number that each signature under it takes, by digest (R493, log entry 9). -/
opaque Config.identityKey : Nat
opaque Config.identityNonce : Nat → Nat

/-- SHA-384 of the images that the module runs when it is shipped: 0 Dilvoac, 1 die-controller firmware, 2 hart boot image (R493,
log entry 9). -/
opaque Config.imageDigest : Nat → BitVec 384

/-- Is an MCTP control command supported (R495, log entry 9)? -/
opaque Config.mctpSupports : BitVec 8 → Bool

/-- Which row of SRAM, or which HBM data channel, holds word number `n` of a unit (R466, log entry 29). -/
opaque Config.repairRow : Nat → Nat

/-- Which set of a 16-way directory or proxy a line falls into: line number (log entry 14). -/
opaque Config.cacheSet : Nat → Nat

/-- Which vl a hart takes for an AVL between VLMAX and twice VLMAX, before it is brought into the standard's bounds: AVL, VLMAX
(log entry 26). -/
opaque Config.vlBetween : Nat → Nat → Nat

end Sys2Proof
end

