-- ==== Sys2Proof/Machine/Flags.lean ====
section
/-! DEFINITION. Exact arithmetic, rounding and exception flags: chapter 02 (R18 to R36, R44).

A finite value is (-1)^neg · m · 2^e; an inexact intermediate (a quotient, a square root) adds `sticky`: its magnitude lies
strictly between m · 2^e and (m+1) · 2^e. -/

namespace Sys2Proof.Machine

/-! ## Formats (R18 to R20) -/

/-- A floating element format: container bits, exponent and fraction widths, bias, unused low container bits (F19), whether
it has infinities, and its NaN patterns: 0 none, 1 all-ones exponent with a fraction, 2 the one pattern of E4M3. -/
structure Fmt where
  w : Nat
  ew : Nat
  mw : Nat
  bias : Nat
  low : Nat
  inf : Bool
  nan : Nat
  deriving DecidableEq, Repr, Inhabited

/-- The format of a TY code (R18). -/
def fmtOf (ty : Nat) : Option Fmt :=
  match ty with
  | 0x08 => some ⟨64, 11, 52, 1023, 0, true, 1⟩
  | 0x09 => some ⟨32, 8, 23, 127, 0, true, 1⟩
  | 0x0A => some ⟨16, 5, 10, 15, 0, true, 1⟩
  | 0x0B => some ⟨16, 8, 7, 127, 0, true, 1⟩
  | 0x0C => some ⟨8, 5, 2, 15, 0, true, 1⟩
  | 0x0D => some ⟨8, 4, 3, 7, 0, false, 2⟩
  | 0x0E => some ⟨8, 3, 2, 3, 0, false, 0⟩
  | 0x0F => some ⟨8, 2, 3, 1, 0, false, 0⟩
  | 0x10 => some ⟨4, 2, 1, 1, 0, false, 0⟩
  | 0x13 => some ⟨32, 8, 10, 127, 13, true, 1⟩
  | _ => none

abbrev fmtF64 : Fmt := ⟨64, 11, 52, 1023, 0, true, 1⟩
abbrev fmtF32 : Fmt := ⟨32, 8, 23, 127, 0, true, 1⟩
abbrev fmtBF16 : Fmt := ⟨16, 8, 7, 127, 0, true, 1⟩

/-- TY code of a floating MF code 0 to 9 (R18). -/
def mfTy (mf : Nat) : Nat :=
  match mf with
  | 0 => 0x08 | 1 => 0x09 | 2 => 0x13 | 3 => 0x0B | 4 => 0x0A | 5 => 0x0C | 6 => 0x0D | 7 => 0x0E | 8 => 0x0F | _ => 0x10

/-- A decoded element. -/
inductive FVal where
  | nan (signalling : Bool)
  | inf (neg : Bool)
  | fin (neg : Bool) (m : Nat) (e : Int)
  deriving DecidableEq, Repr, Inhabited

/-- Decodes an element (R19 to R21). -/
def decodeF (f : Fmt) (bits : Nat) : FVal :=
  let x := bits >>> f.low
  let frac := x % 2 ^ f.mw
  let ex := (x >>> f.mw) % 2 ^ f.ew
  let neg := x.testBit (f.mw + f.ew)
  if f.nan = 1 ∧ ex = 2 ^ f.ew - 1 then
    if frac = 0 then .inf neg else .nan (!frac.testBit (f.mw - 1))
  else if f.nan = 2 ∧ ex = 2 ^ f.ew - 1 ∧ frac = 2 ^ f.mw - 1 then .nan false
  else if ex = 0 then .fin neg frac (1 - (f.bias : Int) - f.mw)
  else .fin neg (2 ^ f.mw + frac) ((ex : Int) - f.bias - f.mw)

/-- Bits of an element from its parts. -/
def packF (f : Fmt) (neg : Bool) (ex frac : Nat) : Nat :=
  (b2n neg * 2 ^ (f.mw + f.ew) + ex * 2 ^ f.mw + frac) <<< f.low

/-- The canonical NaN (R21); a format without NaN has +0 in its place. -/
def canonNan (f : Fmt) : Nat :=
  if f.nan = 1 then packF f false (2 ^ f.ew - 1) (2 ^ (f.mw - 1))
  else if f.nan = 2 then packF f false (2 ^ f.ew - 1) (2 ^ f.mw - 1) else 0

def infBits (f : Fmt) (neg : Bool) : Nat := packF f neg (2 ^ f.ew - 1) 0

/-- The largest finite value (R18). -/
def maxBits (f : Fmt) (neg : Bool) : Nat :=
  if f.nan = 1 then packF f neg (2 ^ f.ew - 2) (2 ^ f.mw - 1)
  else if f.nan = 2 then packF f neg (2 ^ f.ew - 1) (2 ^ f.mw - 2)
  else packF f neg (2 ^ f.ew - 1) (2 ^ f.mw - 1)

/-! ## Flags (R36) -/

abbrev flNV : Nat := 16
abbrev flDZ : Nat := 8
abbrev flOF : Nat := 4
abbrev flUF : Nat := 2
abbrev flNX : Nat := 1

/-! ## Rounding (R31, R32) -/

abbrev rne : Nat := 0
abbrev rtz : Nat := 1
abbrev rup : Nat := 2
abbrev rdn : Nat := 3
abbrev rna : Nat := 4
abbrev rsr : Nat := 5

/-- |x| as a multiple of 2^qe, truncated, and whether the magnitude is rounded up: `m · 2^e` (plus sticky) in mode `mode` with
random word `rnd`. Answers (multiple, inexact). -/
def quantize (mode : Nat) (neg : Bool) (m : Nat) (e : Int) (sticky : Bool) (rnd : Nat) (qe : Int) : Nat × Bool :=
  if qe ≤ e then (m <<< (e - qe).toNat, sticky)
  else
    let sh := (qe - e).toNat
    let q := m >>> sh
    let r := m % 2 ^ sh
    let half := 2 ^ (sh - 1)
    let inexact := decide (r ≠ 0) || sticky
    let above := decide (half < r) || (decide (r = half) && sticky)
    let tie := decide (r = half) && !sticky
    let up := match mode with
      | 0 => above || (tie && decide (q % 2 = 1))
      | 1 => false
      | 2 => inexact && !neg
      | 3 => inexact && neg
      | 4 => above || tie
      | _ => decide (2 ^ 32 ≤ (if 32 ≤ sh then r >>> (sh - 32) else r <<< (32 - sh)) + rnd)
    (if up then q + 1 else q, inexact)

/-- How a rounding step is set: mode, FZ applies, SATM, the random word, narrowing by R34. -/
structure FpEnv where
  mode : Nat := 0
  fz : Bool := false
  satm : Bool := false
  rnd : Nat := 0
  narrow : Bool := false
  deriving DecidableEq, Repr, Inhabited

/-- A finite overflow (R34; IEEE 754 where the instruction does not narrow). -/
def overflowBits (f : Fmt) (v : FpEnv) (neg : Bool) : Nat :=
  let keep := decide (v.mode = rtz) || (decide (v.mode = rdn) && !neg) || (decide (v.mode = rup) && neg)
  if v.narrow && !v.satm then maxBits f neg
  else if keep then maxBits f neg
  else if f.inf then infBits f neg
  else if f.nan = 2 then canonNan f
  else maxBits f neg

/-- The rounding quantum of a nonzero magnitude, without and with the format's least exponent. -/
def freeQuantum (f : Fmt) (m : Nat) (e : Int) : Int := (Nat.log2 m : Int) + e - f.mw
def minQuantum (f : Fmt) : Int := 1 - (f.bias : Int) - f.mw

/-- Is the result tiny after rounding with unbounded exponent range (R36)? -/
def tinyAfter (f : Fmt) (v : FpEnv) (neg : Bool) (m : Nat) (e : Int) (sticky : Bool) : Bool :=
  let qe := freeQuantum f m e
  let (q, _) := quantize v.mode neg m e sticky v.rnd qe
  decide ((Nat.log2 q : Int) + qe < 1 - (f.bias : Int))

/-- Rounds an exact magnitude into a format: bits and flags (R31 to R34, R36). -/
def roundF (f : Fmt) (v : FpEnv) (neg : Bool) (m : Nat) (e : Int) (sticky : Bool) : Nat × Nat :=
  if m = 0 ∧ ¬sticky then (packF f neg 0 0, 0)
  else
    let fq := if m = 0 then minQuantum f else freeQuantum f m e
    let qe := if fq < minQuantum f then minQuantum f else fq
    let (q, inexact) := quantize v.mode neg m e sticky v.rnd qe
    let (q, qe) := if q = 2 ^ (f.mw + 1) then (2 ^ f.mw, qe + 1) else (q, qe)
    let nx := if inexact then flNX else 0
    if q < 2 ^ f.mw then
      if v.fz then (packF f neg 0 0, if q = 0 ∧ ¬inexact then 0 else flUF + flNX)
      else (packF f neg 0 q, nx + (if inexact then flUF else 0))
    else
      let ex := (qe + f.mw + f.bias).toNat
      let frac := q - 2 ^ f.mw
      let past :=
        if f.nan = 1 then decide (2 ^ f.ew - 2 < ex)
        else if f.nan = 2 then decide (2 ^ f.ew - 1 < ex) || decide (ex = 2 ^ f.ew - 1 ∧ frac = 2 ^ f.mw - 1)
        else decide (2 ^ f.ew - 1 < ex)
      if past then (overflowBits f v neg, flOF + flNX)
      else (packF f neg ex frac, nx + (if inexact && m ≠ 0 && tinyAfter f v neg m e sticky then flUF else 0))

/-- An infinite result or input in a format (R34). -/
def infTo (f : Fmt) (v : FpEnv) (neg : Bool) : Nat × Nat :=
  if f.inf then (infBits f neg, 0)
  else if v.satm && f.nan = 2 then (canonNan f, flNV) else (maxBits f neg, flNV)

/-- A NaN result in a format (R21, R34). -/
def nanTo (f : Fmt) : Nat × Nat := if f.nan = 0 then (0, flNV) else (canonNan f, 0)

/-- Any value rounded into a format; a signalling NaN sets NV (R21). -/
def roundVal (f : Fmt) (v : FpEnv) : FVal → Nat × Nat
  | .nan s => let (b, fl) := nanTo f; (b, fl ||| (if s then flNV else 0))
  | .inf n => infTo f v n
  | .fin n m e => roundF f v n m e false

/-! ## Reading operands under FZ (R33) -/

/-- Is FZ in force for a type: F16, BF16, F19? -/
def fzTy (ty : Nat) : Bool := decide (ty = 0x0A ∨ ty = 0x0B ∨ ty = 0x13)

/-- An operand as an instruction with FZ reads it: a subnormal is a zero of its sign. -/
def readF (f : Fmt) (fz : Bool) (bits : Nat) : FVal :=
  match decodeF f bits with
  | .fin n m e => if fz && decide (m < 2 ^ f.mw) then .fin n 0 e else .fin n m e
  | v => v

def FVal.isSnan : FVal → Bool | .nan s => s | _ => false
def FVal.isNan : FVal → Bool | .nan _ => true | _ => false
def FVal.neg : FVal → FVal
  | .nan s => .nan s
  | .inf n => .inf (!n)
  | .fin n m e => .fin (!n) m e
def FVal.sign : FVal → Bool | .nan _ => false | .inf n => n | .fin n _ _ => n
def FVal.isZero : FVal → Bool | .fin _ m _ => decide (m = 0) | _ => false

/-- A signed mantissa at exponent `q ≤ e`. -/
def scaleTo (neg : Bool) (m : Nat) (e q : Int) : Int :=
  let v : Int := (m <<< (e - q).toNat : Nat)
  if neg then -v else v

/-- The exact sum of two values: an FVal, with NV when the operation is invalid. A zero sum takes the common sign of zero
operands, else -0 only under RDN. -/
def addF (mode : Nat) (a b : FVal) : FVal × Nat :=
  let s := if a.isSnan || b.isSnan then flNV else 0
  match a, b with
  | .nan _, _ => (.nan false, s)
  | _, .nan _ => (.nan false, s)
  | .inf x, .inf y => if x = y then (.inf x, s) else (.nan false, flNV)
  | .inf x, _ => (.inf x, s)
  | _, .inf y => (.inf y, s)
  | .fin n m e, .fin n' m' e' =>
    if m = 0 ∧ m' = 0 then (.fin (if n = n' then n else decide (mode = rdn)) 0 0, s)
    else
      let q := if e ≤ e' then e else e'
      let v := scaleTo n m e q + scaleTo n' m' e' q
      if v = 0 then (.fin (decide (mode = rdn)) 0 0, s) else (.fin (decide (v < 0)) v.natAbs q, s)

/-- The exact product. -/
def mulF (a b : FVal) : FVal × Nat :=
  let s := if a.isSnan || b.isSnan then flNV else 0
  match a, b with
  | .nan _, _ => (.nan false, s)
  | _, .nan _ => (.nan false, s)
  | .inf x, y => if y.isZero then (.nan false, flNV) else (.inf (x != y.sign), s)
  | x, .inf y => if x.isZero then (.nan false, flNV) else (.inf (x.sign != y), s)
  | .fin n m e, .fin n' m' e' => (.fin (n != n') (m * m') (e + e'), s)

/-- a · b + c, exact. -/
def fmaF (mode : Nat) (a b c : FVal) : FVal × Nat :=
  let (p, f) := mulF a b
  let (r, g) := addF mode p c
  (r, f ||| g)

/-- a / b rounded into a format. -/
def divF (f : Fmt) (v : FpEnv) (a b : FVal) : Nat × Nat :=
  let s := if a.isSnan || b.isSnan then flNV else 0
  match a, b with
  | .nan _, _ => (canonNan f, s)
  | _, .nan _ => (canonNan f, s)
  | .inf _, .inf _ => (canonNan f, flNV)
  | .inf x, y => (infBits f (x != y.sign), s)
  | x, .inf y => (packF f (x.sign != y) 0 0, s)
  | .fin n m e, .fin n' m' e' =>
    if m' = 0 then (if m = 0 then (canonNan f, flNV) else (infBits f (n != n'), flDZ))
    else if m = 0 then (packF f (n != n') 0 0, s)
    else
      let k := f.mw + 4 + Nat.log2 m' - Nat.log2 m
      let q := (m <<< k) / m'
      roundF f v (n != n') q (e - e' - k) (decide ((m <<< k) % m' ≠ 0))

/-- The integer square root, found bit by bit from bit `n`. -/
def isqrt (x : Nat) : Nat → Nat → Nat
  | 0, r => r
  | n + 1, r => let c := r + 2 ^ n; isqrt x n (if c * c ≤ x then c else r)

/-- The square root rounded into a format. -/
def sqrtF (f : Fmt) (v : FpEnv) (a : FVal) : Nat × Nat :=
  match a with
  | .nan s => (canonNan f, if s then flNV else 0)
  | .inf n => if n then (canonNan f, flNV) else (infBits f false, 0)
  | .fin n m e =>
    if m = 0 then (packF f n 0 0, 0)
    else if n then (canonNan f, flNV)
    else
      let k0 := 2 * (f.mw + 4)
      let k := if (e - k0) % 2 = 0 then k0 else k0 + 1
      let x := m <<< k
      let r := isqrt x (Nat.log2 x / 2 + 1) 0
      roundF f v false r ((e - k) / 2) (decide (r * r ≠ x))

/-! ## Comparing -/

/-- Order of two numbers: none when unordered. -/
def cmpF (a b : FVal) : Option Ordering :=
  match a, b with
  | .nan _, _ => none
  | _, .nan _ => none
  | .inf x, .inf y => some (if x = y then .eq else if x then .lt else .gt)
  | .inf x, _ => some (if x then .lt else .gt)
  | _, .inf y => some (if y then .gt else .lt)
  | .fin n m e, .fin n' m' e' =>
    let q := if e ≤ e' then e else e'
    some (compare (scaleTo n m e q) (scaleTo n' m' e' q))

/-! ## Integers (R35, R44) -/

/-- Rounds a value to an integer in a mode: the integer and whether it was inexact. -/
def roundInt (mode rnd : Nat) (neg : Bool) (m : Nat) (e : Int) : Int × Bool :=
  let (q, nx) := quantize mode neg m e false rnd 0
  (if neg then -(q : Int) else (q : Int), nx)

/-- Clamps an integer into a type of `w` bits: value and whether it was outside. -/
def clampInt (w : Nat) (signed : Bool) (x : Int) : Int × Bool :=
  let lo : Int := if signed then -(2 ^ (w - 1) : Nat) else 0
  let hi : Int := if signed then (2 ^ (w - 1) : Nat) - 1 else (2 ^ w : Nat) - 1
  if x < lo then (lo, true) else if hi < x then (hi, true) else (x, false)

/-- A floating value converted to an integer type (R35): bits and flags. -/
def toInt (w : Nat) (signed : Bool) (v : FpEnv) (x : FVal) : Nat × Nat :=
  match x with
  | .nan _ => (0, flNV)
  | .inf n => (wrap w (clampInt w signed (if n then -(2 ^ 80 : Nat) else (2 ^ 80 : Nat))).1, flNV)
  | .fin n m e =>
    let (i, nx) := roundInt v.mode v.rnd n m e
    let (c, out) := clampInt w signed i
    (wrap w c, if out then flNV else if nx then flNX else 0)

end Sys2Proof.Machine
end

