-- ==== Sys2Proof/Machine/CoreState.lean ====
section
/-! DEFINITION. The state of one core: contexts, slots, paddock, counters, engine ports, post queue, matrix slice, token
trees, shepherd hart. What `MK.SHSWAP` exchanges (R140) is one record, `SetState`; a core holds two of them. All of it is
plain data. -/

namespace Sys2Proof.Machine

/-- One paddock granule: 16 bytes and the generation tag of the allocation that last wrote it (R143, R144), and whether the check
over both finds an error that it cannot correct (R462, R464). -/
structure Gran where
  tag : BitVec 10 := 0
  data : W128 := 0
  bad : Bool := false
  deriving DecidableEq, Repr, Inhabited

/-- STATE of a context (R87, R90). -/
inductive CtxState where
  | free | held | ready | bound | blocked | parked | frozen
  deriving DecidableEq, Repr, Inhabited

/-- A scratch region entry of a context (R87): base and size in granules; size 0 means absent. -/
structure Region where
  base : BitVec 16 := 0
  size : BitVec 17 := 0
  gen : BitVec 10 := 0
  deriving DecidableEq, Repr, Inhabited

/-- What a waiting instruction waits for (R101): a counter, chunk-map bits, packets on bound registers, a gang, a barrier
phase, its own post-queue entries. -/
inductive Wait where
  | counter (k t : Nat) (eq : Bool)
  | chunk (cm : Nat) (m : BitVec 128) (any : Bool)
  | chan (regs : List Nat)
  | gang
  | bar (scope phase : Nat)
  | drain
  deriving DecidableEq, Repr, Inhabited

/-- One entry of a core's context table (R88) with the context descriptor it names (R87). `ip` keeps all 64 bits until the
target is fetched (R49). The fields after `herd` are what the thread engine needs besides the descriptor. -/
structure Ctx where
  wp : BitVec 20 := 0
  inc : BitVec 10 := 0
  ip : W64 := 0
  state : CtxState := .free
  prio : BitVec 3 := 0
  eprio : BitVec 3 := 0
  dom : BitVec 12 := 0
  strict : Bool := false
  ovfe : Bool := false
  pin : Bool := false
  slot : BitVec 5 := 0
  wsz : BitVec 11 := 0
  wgen : BitVec 10 := 0
  r1 : Region := {}
  r2 : Region := {}
  r3 : Region := {}
  fcode : BitVec 8 := 0
  faux : BitVec 7 := 0
  faddr : BitVec 57 := 0
  chan : BitVec 104 := 0
  fpc : BitVec 11 := 0
  why : BitVec 3 := 0
  wk : BitVec 8 := 0
  wt : BitVec 16 := 0
  stream : BitVec 32 := 0
  herd : Bool := false
  /-- the instruction pointer was reached by falling through, so padding lines are skipped (R47, R50) -/
  fell : Bool := false
  /-- the context left its slot inside a broadcast block (R98, R135) -/
  inBlock : Bool := false
  /-- state before a freeze (R90, R442) -/
  prior : CtxState := .free
  /-- frozen by R465: MK.THAW returns it PARKED -/
  frozenErr : Bool := false
  /-- cc spent READY since its last aging step (R99) -/
  age : Nat := 0
  /-- launch that created it (R223), launch coordinates (%lco, R112), message frame it occupies (R89) -/
  launch : Option Nat := none
  lco : BitVec 128 := 0
  frame : Option Nat := none
  /-- phases joined so far at each barrier scope (R223) -/
  phases : Sparse Nat := []
  /-- what it waits for, and whether that has once held (R101, R211) -/
  wait : Option Wait := none
  satisfied : Bool := false
  /-- the gang this blocked context waits in has formed: its MMA is complete (R310) -/
  gangDone : Bool := false
  /-- a gang fault that the waiting context takes at its next turn: its FCODE (R310) -/
  gangFault : Option (BitVec 8) := none
  /-- cc the context has waited in a gang (R310) -/
  gangWait : Nat := 0
  deriving DecidableEq, Repr, Inhabited

/-- Mode of a slot (R97). -/
inductive SlotMode where
  | empty | binding | stray | herded | block | parked
  deriving DecidableEq, Repr, Inhabited

/-- A token tree (R357); node n is listed in `nodes` as parent, depth, token. -/
structure Tree where
  base : BitVec 24 := 0
  cnt : Nat := 0
  bv : Bool := false
  strm : BitVec 32 := 0xFFFFFFFF
  nodes : Sparse (BitVec 8 × BitVec 8 × BitVec 32) := []
  deriving DecidableEq, Repr, Inhabited

/-- A multi-beat instruction in progress on a slot (R91, R178): turns still to take, and what it read at its first turn: granules of
its context's registers and predicates (none where stale; R85), the core's rotary table and its trees (R369). -/
structure Beat where
  left : Nat
  regs : List (Nat × Option W128) := []
  rotary : Sparse (BitVec 32) := []
  trees : Sparse Tree := []
  deriving DecidableEq, Repr, Inhabited

/-- A slot (R97): its mode, the index of its context, the mode it was parked from, and the line it executes as fetched and
overlaid (line address, 64 bytes; R52, R79). -/
structure Slot where
  mode : SlotMode := .empty
  ix : Nat := 0
  from_ : SlotMode := .stray
  line : Option (Nat × Line) := none
  /-- its last turn passed unused at a wait or a stall -/
  stalled : Bool := false
  /-- the beats of the instruction under way -/
  beat : Option Beat := none
  deriving DecidableEq, Repr, Inhabited

/-- What kind of global access an agent makes (R241, R242). -/
inductive AccOp where
  | load
  | store
  | atom (aop : BitVec 6)
  | cas
  | red (aop : BitVec 6)
  deriving DecidableEq, Repr, Inhabited

/-- One access of at most 16 bytes at a fabric address, with its operands. -/
structure Acc where
  op : AccOp
  fa : Nat
  size : Nat
  v : BitVec 128 := 0
  cmp : BitVec 128 := 0
  dom : BitVec 12 := 0
  /-- the virtual address that was translated -/
  va : Nat := 0
  deriving DecidableEq, Repr, Inhabited

/-- What a stalled agent is waiting for (its turns pass unused): the steps of R401, R404, R230 to R238, R243. -/
inductive Ask where
  | idle
  /-- a PLB refill for an address (R401) -/
  | plb (va : Nat)
  /-- a translation (R404) -/
  | walk (va : Nat)
  /-- a line of class 2 or 3: at the requester's die proxy, at its home, or arriving at the cache (R230 to R233) -/
  | line (va fa : Nat)
  | keep (va fa : Nat) (data : Line)
  | fill (va fa : Nat) (data : Line) (install : Bool)
  /-- the reply of a global load is on its way to the registers (R241) -/
  | reply
  /-- a line of the read-only fabric cache (R237) -/
  | fab (va fa : Nat)
  /-- an ATOM or CAS at its home (R235) -/
  | atomic (x : Acc)
  /-- a class 0 access at the remote agent (R238) -/
  | remote (x : Acc)
  /-- a class 4 access to the counter window (R213) -/
  | counter (x : Acc)
  /-- a class 6 AtomicOp (R243) -/
  | hostAtomic (x : Acc)
  /-- a FENCE waits for the buffer entries up to number `seq` (R244) -/
  | fence (seq : Nat)
  /-- a post forwarded to a join unit has not been answered (R345, R379) -/
  | post
  /-- a request held at a MIGRATING stream, by handle (R340) -/
  | migrating (h : BitVec 32)
  deriving DecidableEq, Repr, Inhabited

/-- How the step that an agent asked for ended, when not well. -/
inductive Answer where
  | none
  | noRange (va : Nat)
  | noPage (va : Nat)
  | remote (fa : Nat)
  | uncorrected (fa : Nat)
  /-- a port found the package unreachable after issue (R497) -/
  | lost
  deriving DecidableEq, Repr, Inhabited

/-- The pending access of an agent: what it asks, how that failed, the lines already fetched for it (by fabric line
address) and the values already returned (by fabric address). -/
structure Pend where
  ask : Ask := .idle
  ans : Answer := .none
  got : List (Nat × Line) := []
  val : List (Nat × BitVec 128) := []
  /-- the LDG or LDNC whose reply is outstanding: D, tail, through the fabric cache -/
  load : Option (BitVec 7 × TailM × Bool) := none
  /-- the join unit's answer to a post (R379) -/
  status : Option Nat := none
  /-- a held stream request has been forwarded to this handle (R340) -/
  fwd : Option (BitVec 32) := none
  /-- newest store-buffer entry when the ATOM, CAS or AMO issued (R235) -/
  seq : Option Nat := none
  /-- it is a draw, which counts as not issued until it completes (R202, R207) -/
  draw : Bool := false
  /-- an atomic access has performed: its effect has been made (R235) -/
  made : Bool := false
  deriving DecidableEq, Repr, Inhabited

/-- What an armed trigger holds (R218, R219), with VALUE at firing once pending (R220). -/
structure Trigger where
  hip : BitVec 57 := 0
  arg : BitVec 32 := 0
  eq : Bool := false
  prio : BitVec 3 := 0
  thr : BitVec 16 := 0
  dom : BitVec 12 := 0
  eprio0 : BitVec 3 := 0
  pending : Bool := false
  fired : BitVec 16 := 0
  /-- it holds a place in the arrival buffer -/
  placed : Bool := false
  deriving DecidableEq, Repr, Inhabited

/-- A completion counter (R208): VALUE, OVF and its trigger entry. -/
structure Counter where
  value : BitVec 16 := 0
  ovf : Bool := false
  trig : Option Trigger := none
  deriving DecidableEq, Repr, Inhabited

/-- A layout slot (R275): record and conflict counter. -/
structure Layout where
  bits : BitVec 512 := 0
  conf : BitVec 16 := 0
  deriving DecidableEq, Repr, Inhabited

/-- A walk over elements (R276), decoded from a record snapshot or a linear range: space 0 paddock, 1 accumulator, 2 weight
buffer, 3 global, 4 a stream's state by state offset (R324), where `pages` lists the valid pages; element width in bits; the translations made at issue (64 KiB page number to fabric address). -/
structure Walk where
  space : Nat := 0
  e : Nat := 8
  base : Nat := 0
  str : List Int := []
  ext : List Nat := []
  soff : Nat := 0
  key : Nat := 0
  norm : Bool := false
  fmt : Nat := 0
  fk : Bool := false
  slot : Option Nat := none
  pages : List (Nat × Nat) := []
  deriving DecidableEq, Repr, Inhabited

/-- Who issued an engine command: a context (handle, domain, priority) or a hart commit (R138). -/
structure Issuer where
  hart : Bool := false
  ix : Nat := 0
  inc : BitVec 10 := 0
  dom : BitVec 12 := 0
  prio : BitVec 3 := 0
  deriving DecidableEq, Repr, Inhabited

/-- What a post-queue command does. -/
inductive CmdOp where
  /-- GET, PUT, TCOPY (R284 to R287): element n of the source goes to element n of the destination -/
  | copy
  /-- TGATH and TSCAT with the index list read at issue (R288) -/
  | gather (list : List Nat)
  | scatter (list : List Nat)
  /-- CFILL with its value (R289) -/
  | fill (v : W128)
  /-- WBLD of half `h` (R304) -/
  | wbld (h : Nat)
  /-- ACCVT: tile, TR, SCL, TTY, SATM, the 64 scales (R315, R316) -/
  | accvt (tile : Nat) (tr : Bool) (scl tty : Nat) (satm : Bool) (scales : BitVec 2048)
  /-- SEND and SPAWN: header with DOM filled in, payload (R117) -/
  | send (spawn : Bool) (header : W128) (payload : BitVec 512)
  /-- SEND with LNCH: the launch record (R117) -/
  | launch (img : BitVec 2048)
  /-- SPGR and SPGW: stream handle and the pinned frames of its pages, by key (R348, R349); the pages are those of a walk of
  space 4 -/
  | spg (write : Bool) (h : BitVec 32) (frames : List Nat)
  /-- PSORT (R388): source, count, K, destination, key base -/
  | psort (src n k dst keyBase : Nat)
  /-- SMIG (R354): stream handle, target package and die, fabric address of the result -/
  | smig (h : BitVec 32) (pkg die : Nat) (dst va : Nat)
  deriving DecidableEq, Repr, Inhabited

/-- A post-queue entry (R267 to R274). -/
structure PostEntry where
  op : CmdOp := .copy
  src : Option Walk := none
  dst : Option Walk := none
  issuer : Issuer := {}
  wk : Nat := 0
  wt : Nat := 0
  sk : Nat := 0
  si : Int := 0
  /-- destination end: package, die, core; counter and increment; handler (R286, R290) -/
  endPkg : Nat := 0
  endDie : Nat := 0
  endCore : Nat := 0
  dk : Nat := 0
  di : Int := 0
  hip : BitVec 57 := 0
  cm : Option Nat := none
  /-- order of issue on the core (R309) -/
  seq : Nat := 0
  /-- order of arrival at its engine; whether it resumes after its stream was thawed (R440, R442) -/
  arr : Nat := 0
  resume : Bool := false
  /-- earlier store-buffer entries of the issuer still to perform (R263 step 1): the buffer sequence number -/
  after : Nat := 0
  captured : Bool := false
  /-- its wait has once been satisfied since its capture (R211) -/
  met : Bool := false
  /-- serving engine: die, engine, far queue; none until dispatched (R270, R271) -/
  engine : Option (Nat × Nat × Bool) := none
  /-- chunks landed -/
  landed : List Nat := []
  ended : Bool := false
  signalled : Bool := false
  handled : Bool := false
  /-- held at a CXL answer of not present: chunk and SEQ of the hold (R282) -/
  cxlHeld : Option (Nat × Nat) := none
  /-- the hold has been told to the hart: an upcall joined the queue (R131) -/
  cxlTold : Bool := false
  /-- source bytes read so far, by address in the source space (R263 step 3) -/
  got : Sparse Nat := []
  /-- failed CRC checks of a chunk (R462) -/
  retries : Sparse Nat := []
  failed : Option Nat := none
  deriving DecidableEq, Repr, Inhabited

/-- Who holds a range lock: a post-queue entry, a matrix command, or the replay of a weight half (R318). -/
inductive LockOwner where
  | post (e : Nat)
  | matrix (n : Nat)
  | replay (h : Nat)
  deriving DecidableEq, Repr, Inhabited

/-- A range-lock entry (R279): space, first and last byte, W or R, the owner, its issue order, and a chunk map whose set
bits lift a W lock (R280). -/
structure Lock where
  space : Nat
  lo : Nat
  hi : Nat
  w : Bool
  owner : LockOwner
  seq : Nat
  cm : Option Nat := none
  deriving DecidableEq, Repr, Inhabited

/-- One engine port (R138, R269): shadow and active sets of eight 64-bit words, each with the command it holds (post-queue
entry, or matrix command on port 1). -/
structure Port where
  shadow : Sparse W64 := []
  active : Sparse W64 := []
  shadowCmd : Option Nat := none
  activeCmd : Option Nat := none
  deriving DecidableEq, Repr, Inhabited

/-- A placed matrix command of port 1 (R308, R314). -/
inductive MOp where
  | mma (h tile : Nat) (z : Bool) (ctl : W128) (bmf kw : Nat) (a : Option Walk)
  | mmz (mask : BitVec 16)
  deriving DecidableEq, Repr, Inhabited

/-- A matrix command with its signal, wait, issuer, gang, progress in K-groups and the rows of the tree mask taken at its
start (R312). -/
structure MCmd where
  op : MOp
  issuer : Issuer
  wk : Nat
  wt : Nat
  sk : Nat
  si : Int
  seq : Nat
  after : Nat
  gang : Option Nat := none
  met : Bool := false
  started : Bool := false
  groups : Nat := 0
  mask : List (BitVec 256) := []
  /-- an operand of it was in error: it signals nothing (R465) -/
  bad : Bool := false
  /-- the tile's bytes before the start, and how far each element has been seen by PEEK, by context and element (R301) -/
  before : Mem := []
  peeked : Sparse Nat := []
  deriving DecidableEq, Repr, Inhabited

/-- The replay of a half under way (R318): the snapshot, size and domain that its descriptor had when it was registered, and the signals
owed. -/
structure HalfReplay where
  src : Option Walk := none
  size : Nat := 0
  dom : BitVec 12 := 0
  signals : List (Nat × Int) := []
  deriving DecidableEq, Repr, Inhabited

/-- A weight-half descriptor (R302). -/
structure WHalf where
  valid : Bool := false
  mf : Nat := 0
  kw : Nat := 0
  size : Nat := 0
  src : Option Walk := none
  /-- signal of the last WBLD while that has not completed, and that WBLD's issue number (R318) -/
  signal : Option (Nat × Int) := none
  last : Nat := 0
  replay : Option HalfReplay := none
  /-- domain of the WBLD that wrote the descriptor -/
  dom : BitVec 12 := 0
  deriving DecidableEq, Repr, Inhabited

/-- A line of a paddock cache portion (R233): virtual line address, 64 bytes, dirty. Keyed by fabric line address. -/
structure CacheLine where
  va : Nat
  data : Line
  dirty : Bool
  deriving DecidableEq, Repr, Inhabited

/-- A pending upcall (R130, R131). -/
structure Upcall where
  kind : BitVec 8
  slot : BitVec 8
  acc : BitVec 8
  handle : BitVec 32
  faddr : W64
  token : W64
  deriving DecidableEq, Repr, Inhabited

/-- What waits in the arrival buffer (R94): a message, a trigger that holds a place (R220), a copy's arrival handler
(R290), a drove (R337). -/
inductive Arrival where
  | msg (header : W128) (payload : BitVec 512) (coords : W64)
  | trigger (k : Nat)
  | handler (hip : BitVec 57) (w0 w1 : W128) (prio : BitVec 3) (dom : BitVec 12)
  | drove (hip : BitVec 57) (w0 : W128) (stream : BitVec 32) (prio : BitVec 3) (dom : BitVec 12)
  deriving DecidableEq, Repr, Inhabited

/-- Who sent a packet: die, logical core, context index, domain, a hart, and the post-queue entry to complete. -/
structure Sender where
  die : Nat := 0
  core : Nat := 0
  ix : Nat := 0
  inc : BitVec 10 := 0
  dom : BitVec 12 := 0
  hart : Bool := false
  entry : Option Nat := none
  /-- issue number of that entry (R309), which tells the two sets' entries apart -/
  eseq : Nat := 0
  deriving DecidableEq, Repr, Inhabited

/-- A candidate of a join group (R379, R383): its value, its key, the stream whose post it is, and for DESCEND the child
group whose mass it is. -/
structure Cand where
  v : FVal := .fin false 0 0
  key : W64 := 0
  stream : Option (BitVec 32) := none
  child : Option (BitVec 32) := none
  deriving DecidableEq, Repr, Inhabited

/-- What a packet carries. -/
inductive Payload where
  /-- a post to a join group, and the agent that waits for the answer (R379) -/
  | post (g : BitVec 32) (v key : W64) (stream : Option (BitVec 32)) (who : Agent)
  /-- a JGET on its way to another die: the group, CLOSE, and the agent that waits for the map (R373, R387) -/
  | get (g : BitVec 32) (close : Bool) (who : Agent)
  /-- a child group's result on its way to its parent (R383) -/
  | child (parent child : BitVec 32) (cands : List Cand)
  /-- the descent reaches a group: the target, or none when it passes the group by (R384) -/
  | descent (g : BitVec 32) (target : Option FVal)
  /-- a pruning group frees a stream (R385) -/
  | prune (h g : BitVec 32)
  | message (header : W128) (body : BitVec 512) (coords : W64)
  | channel (tag : BitVec 12) (data : W128) (route : W64)
  /-- a counter update: of CSIG.rmt, or of a join group (R381) -/
  | signal (k : BitVec 8) (inc : Int) (route : W64) (group : Option (BitVec 32))
  /-- a moved context (R429): its record, live registers and predicates p1 to p7, the paddock address reserved for it -/
  | context (x : Ctx) (regs : Sparse W128) (preds : Sparse W64) (wp : BitVec 20)
  /-- a freeze for a violation (R439): the offender, the target's domain, the address concerned -/
  | freeze (who : Sender) (tdom : BitVec 12) (addr : W64)
  deriving DecidableEq, Repr, Inhabited

/-- A packet in the fabric (R444 to R448): number in order of sending, class (0 urgent to 3 bulk), source, target package,
die and logical core, the die it has reached and the port it came in by (0: none), cc waited at an output, whether a full buffer has
discarded it (R446); for a message or channel packet of a context its issue number (R95). -/
structure Packet where
  id : Nat := 0
  iss : Nat := 0
  cls : Nat
  src : Sender
  pkg : Nat
  die : Nat
  core : Nat
  loc : Nat := 0
  via : Nat := 0
  waited : Nat := 0
  evicted : Bool := false
  body : Payload
  deriving DecidableEq, Repr, Inhabited

/-- A gang member that the hart has committed and waits for (R138, R310): the MK.ENGW's address, the command, cc waited, and how its wait
has ended: formed, or a gang fault. -/
structure HartGang where
  pc : W64
  n : Nat
  wait : Nat := 0
  done : Bool := false
  fault : Bool := false
  deriving DecidableEq, Repr, Inhabited

/-- Everything that MK.SHSWAP exchanges (R140, R203, R302, R317). -/
structure SetState where
  pad : Sparse Gran := []
  /-- CACHE of mk_split (R124) and the lines of the cache portion -/
  cache : BitVec 4 := 4
  lines : Sparse CacheLine := []
  acc : Mem := []
  /-- 16-byte words of the accumulator memory that hold an uncorrected error (R464) -/
  accBad : List Nat := []
  ctxs : Sparse Ctx := []
  runq : List Nat := []
  slots : Sparse Slot := []
  /-- message frames placed by system software: WP of each (R89) -/
  frames : Sparse (BitVec 20) := []
  /-- areas reserved at this set for contexts on their way: first byte, length (R429) -/
  resv : List (Nat × Nat) := []
  /-- context-table entries reserved for placed tasks that are not created yet (R15) -/
  owed : Nat := 0
  saveGen : BitVec 10 := 1023
  /-- power-gated banks (R151) -/
  gated : BitVec 16 := 0
  counters : Sparse Counter := []
  chunk : Sparse (BitVec 128) := []
  layouts : Sparse Layout := []
  locks : List Lock := []
  post : Sparse PostEntry := []
  postFrozen : Bool := false
  /-- channel packets that wait behind an earlier SEND of their context to their core (R95) -/
  behind : List Packet := []
  ports : Sparse Port := []
  mcmds : Sparse MCmd := []
  /-- tiles whose last product was of class wide: their elements are 8 bytes (R301) -/
  wide : BitVec 16 := 0
  hgang : Option HartGang := none
  halves : Sparse WHalf := []
  sel : Bool := false
  trees : Sparse Tree := []
  /-- channel queues, keyed by 8 × context index + binding (R96) -/
  chq : Sparse (List W128) := []
  mbox : Nat := 0
  /-- an MK.CWAIT of the hart under way, and whether its condition has held (R137, R211) -/
  hwait : Option (Nat × Nat) := none
  hsat : Bool := false
  upq : List Upcall := []
  upVec : BitVec 58 := 0
  upBusy : Bool := false
  upEn : Bool := false
  fmask : BitVec 32 := 0
  first : BitVec 5 := 0
  ffcode : BitVec 8 := 0
  rotary : Sparse (BitVec 32) := []
  /-- next issue number of the core's commands (R309) -/
  seq : Nat := 0
  /-- partition of the set (R425) -/
  part : Option Nat := none
  deriving DecidableEq, Repr, Inhabited

/-- An entry of the PLB (R139, R400). -/
structure PlbEntry where
  v : Bool := false
  dom : BitVec 12 := 0
  r : Bool := false
  w : Bool := false
  x : Bool := false
  e : Bool := false
  k : Bool := false
  psz : BitVec 2 := 0
  pcnt : BitVec 16 := 0
  base : W64 := 0
  deriving DecidableEq, Repr, Inhabited

/-- A store-buffer entry (R234): the storing agent (a context, or the hart), the pieces it writes (fabric address, bytes), the
lines they touch, the operation (store or RED), its order and scope, whether its home has put the lines in P, and whether a
port has discarded it (R497). -/
structure SbEntry where
  seq : Nat
  hart : Bool := false
  ix : Nat := 0
  inc : BitVec 10 := 0
  va : Nat
  pieces : List (Nat × List Byte)
  op : AccOp
  ord : BitVec 3 := 0
  scope : BitVec 3 := 0
  dom : BitVec 12
  atHome : Bool := false
  lost : Bool := false
  deriving DecidableEq, Repr, Inhabited

/-- A context's update or packet that waits until its earlier stores have performed (R95, R257). -/
inductive UpdOp where
  | signal (k : Nat) (inc : Int)
  | set (k v : Nat)
  | packet (p : Packet)
  deriving DecidableEq, Repr, Inhabited

structure Upd where
  after : Nat
  ix : Nat
  inc : BitVec 10
  op : UpdOp
  deriving DecidableEq, Repr, Inhabited

/-- Privilege mode of the hart (R119). -/
inductive Mode where
  | u | s | m
  deriving DecidableEq, Repr, Inhabited

/-- The shepherd hart (R119): x registers (x0 is never listed), f and v registers, pc, mode and CSRs. Standard CSRs that
have no behaviour of their own here are in `csrs`, by address. -/
structure Hart where
  x : Sparse W64 := []
  f : Sparse W64 := []
  v : Sparse (BitVec 512) := []
  pc : W64 := 0
  mode : Mode := .m
  mstatus : W64 := 0
  mie : W64 := 0
  mideleg : W64 := 0
  medeleg : W64 := 0
  mtvec : W64 := 0
  mepc : W64 := 0
  mcause : W64 := 0
  mtval : W64 := 0
  mscratch : W64 := 0
  stvec : W64 := 0
  sepc : W64 := 0
  scause : W64 := 0
  stval : W64 := 0
  sscratch : W64 := 0
  fcsr : W64 := 0
  csrs : Sparse W64 := []
  /-- waiting in WFI (R131) -/
  wfi : Bool := false
  /-- an instruction has begun and waits: this is no instruction boundary (R131) -/
  busy : Bool := false
  /-- LR reservation: fabric address, or 2^64 + the window address (R119, R120) -/
  resv : Option Nat := none
  deriving DecidableEq, Repr, Inhabited

/-- The shearer (R148): set under sweep, next granule of each bank, cc the oldest stalled Alloc has waited. -/
structure Shearer where
  setB : Bool := false
  pos : Sparse Nat := []
  /-- an Alloc is stalled now: of the slot of that number, of the hart (32) or of the core's own engines; and for how many cc -/
  waiting : Bool := false
  who : Nat := 64
  stalled : Nat := 0
  forced : Bool := false
  deriving DecidableEq, Repr, Inhabited

/-- Progress of an MK.SHSWAP (R140): none, draining since its check, or exchanged with the result not yet returned. -/
inductive Swap where
  | none | draining | done
  deriving DecidableEq, Repr, Inhabited

/-- One core: its two sets and what MK.SHSWAP does not exchange. -/
structure Core where
  act : SetState := {}
  shd : SetState := {}
  /-- the active set is B -/
  setB : Bool := false
  /-- NEXT generation counter (R147) -/
  next : BitVec 10 := 1
  shear : Shearer := {}
  /-- banks that a stalled creation waits for (R151) -/
  wake : BitVec 16 := 0
  hart : Hart := {}
  plb : Sparse PlbEntry := []
  /-- PLB entries 16 to 63 in the order of their last matches, newest first (R401) -/
  plbUse : List Nat := []
  /-- weight-buffer data, not shadowed (R302) -/
  wbuf : Mem := []
  /-- 16-byte words of the weight buffer that hold an uncorrected error (R464) -/
  wbufBad : List Nat := []
  sb : List SbEntry := []
  sbSeq : Nat := 1
  updates : List Upd := []
  arr : List Arrival := []
  /-- pending accesses of the slots (key s) and of the hart (key 32) -/
  pend : Sparse Pend := []
  cyc : W64 := 0
  /-- mk_load as last refreshed (R126) -/
  load : W64 := 0
  gangto : BitVec 32 := 0x10000
  pack : Bool := false
  preq : Bool := false
  remain : BitVec 48 := 0
  running : Bool := false
  capA : BitVec 17 := 0x10000
  capB : BitVec 17 := 0x10000
  hwm : BitVec 7 := 48
  member : BitVec 4 := 0
  frz : Bool := false
  dom : BitVec 12 := 0
  /-- flock stopped for pre-emption (R434) or by an MK.SHSWAP in progress (R140) -/
  stopped : Bool := false
  swap : Swap := .none
  /-- core event counters 0 to 3: SHEAR_WAIT, CHAN_DROP, ENG_FAIL, JOIN_REFUSED (R390) -/
  perf : Sparse (BitVec 48) := []
  /-- the core is in service (R468) -/
  failed : Bool := false
  /-- 4 KiB steps that bank b of set A (key b) and set B (key 16 + b) has lost (R153) -/
  lost : Sparse Nat := []
  /-- steps that banks give up at the next die reset, for want of a spare row (R153, R466), by the same number -/
  lostDue : Sparse Nat := []
  /-- the die controller has ordered the exchange (R435) -/
  ordered : Bool := false
  /-- cyc at the last balancing move (R429) -/
  moved : Option W64 := none
  /-- MK.HALTF progress (R133): the slots herded at its start, and those retired so far -/
  halting : Option (BitVec 32 × BitVec 32) := none
  deriving DecidableEq, Repr, Inhabited

end Sys2Proof.Machine
end

