-- ==== Sys2Proof/Machine/DieState.lean ====
section
/-! DEFINITION. The state of one die: coherence directories, proxy and fabric cache, translation agent, copy engines, gangs,
stream processor, join unit, launch unit, die controller. Plain data. -/

namespace Sys2Proof.Machine

/-- State of a directory entry (R230). -/
inductive DirSt where
  | i | s | o | p
  deriving DecidableEq, Repr, Inhabited

/-- A directory entry at its home (R230, R231): pointers, OVF, sharers the overflow keeper has recorded, and while a write is
pending (P) the copies still to acknowledge and the state before. -/
structure DirEntry where
  st : DirSt := .i
  ptrs : List Ptr := []
  ovf : Bool := false
  kept : List Ptr := []
  /-- the keeper has been told to invalidate, and its completion is outstanding -/
  keeperAck : Bool := false
  pendAck : List Ptr := []
  deriving DecidableEq, Repr, Inhabited

/-- A line of the die's coherence proxy (R232), keyed by fabric line address: owned, so that its data is newer than memory; the
data; the local sharers. -/
structure ProxyLine where
  own : Bool := false
  data : Line := 0
  sharers : BitVec 96 := 0
  deriving DecidableEq, Repr, Inhabited

/-- A leaf translation cached by the die's agent (R404), keyed by VA[56:16] of its first page. -/
structure TlbEntry where
  psz : BitVec 2
  fa : Nat
  deriving DecidableEq, Repr, Inhabited

/-- A gang (R310): quad, lead's pair or quad size, tag, members arrived (logical cores), formed or pending, and the control
word and B format of the first arrival. -/
structure Gang where
  quad : Nat
  gs : Nat
  tag : Nat
  members : List Nat
  formed : Bool
  ctl : W128
  z : Bool
  bmf : Nat
  deriving DecidableEq, Repr, Inhabited

/-- A record waiting for the post box (R458): kind and the 48 bytes of its body. -/
structure Report where
  kind : Nat
  body : BitVec 384
  deriving DecidableEq, Repr, Inhabited

/-- STATE of a stream descriptor (R323). -/
inductive StSt where
  | free | idle | ready | droved | waitPage | migrating | done
  deriving DecidableEq, Repr, Inhabited

/-- A stream descriptor (R322); `drove` is the list buffer of the drove it is a member of, `posting` says that a forwarded
post awaits its answer (R345), `wpins` counts the SPGW in flight on it (R327), `arr` is its place by arrival in its drover queue (R337),
`staged` its staged pages, frame key and buffer address, with the layer they are staged for (R335); `bad`: the descriptor's word holds an
uncorrected error (R464). -/
structure Stream where
  st : StSt := .free
  gen : BitVec 16 := 0
  parent : BitVec 32 := 0
  jg : BitVec 32 := 0
  croot : W64 := 0
  oroot : W64 := 0
  hor : BitVec 32 := 0
  cur : BitVec 16 := 0
  layers : BitVec 16 := 0
  wbase : BitVec 12 := 0
  aqb : W64 := 0
  aqn : BitVec 4 := 0
  aqh : BitVec 16 := 0
  aqt : BitVec 16 := 0
  key : W64 := 0
  ctr : W128 := 0
  cctr : W128 := 0
  pen : W64 := 0
  penc : W64 := 0
  tb : BitVec 10 := 0
  prio : BitVec 3 := 0
  dom : BitVec 12 := 0
  forks : BitVec 32 := 0
  spec : Bool := false
  stage : Bool := false
  pst : StSt := .free
  drove : Option Nat := none
  posting : Bool := false
  wpins : Nat := 0
  arr : Nat := 0
  staged : List (Nat × Nat) := []
  stagedFor : Nat := 0
  bad : Bool := false
  deriving DecidableEq, Repr, Inhabited

/-- A frame of the state pools (R324, R327): entries that point to it, read pins, write pins, and whether it is a freed node
whose children are still being released (R330). Keyed by TIER, NODE, FRAME as in an entry. -/
structure Frame where
  refs : Nat := 0
  rpins : Nat := 0
  wpins : Nat := 0
  going : Bool := false
  deriving DecidableEq, Repr, Inhabited

/-- A stream migration under way (R340): the stream's handle, its destination, result address (fabric), the post-queue entry
(die, core, entry, issue number), and the destination descriptor once pulled. -/
structure Migration where
  h : BitVec 32 := 0
  pkg : Nat := 0
  die : Nat := 0
  dst : Nat := 0
  ed : Nat := 0
  ec : Nat := 0
  ee : Nat := 0
  es : Nat := 0
  di : Option Nat := none
  /-- frozen: the source has set MIGRATING -/
  frozen : Bool := false
  deriving DecidableEq, Repr, Inhabited

/-- State of a join group (R374). -/
inductive GroupSt where
  | free | open | descent
  deriving DecidableEq, Repr, Inhabited

/-- A join group (R376 to R378, R381): specification, destination, random stream, arrivals and candidates in order of receipt,
closed by JGET.close, completing with `frees` prunes unanswered; `dst` holds the fabric address of each byte page of the
record, translated at JOPEN (64-byte pieces). -/
structure Group where
  st : GroupSt := .free
  inc : BitVec 16 := 0
  op : Nat := 0
  vt : Nat := 0
  prune : Bool := false
  parent : Option (BitVec 32) := none
  k : Nat := 0
  count : Nat := 0
  keyp : BitVec 32 := 0
  dom : BitVec 12 := 0
  /-- bits [127:64] of the destination word (R377) -/
  destw : W64 := 0
  dst : List Nat := []
  key : W64 := 0
  ctr : W64 := 0
  arr : Nat := 0
  cands : List Cand := []
  closed : Bool := false
  short : Bool := false
  completing : Bool := false
  frees : Nat := 0
  result : List Cand := []
  /-- its record holds an uncorrected error (R464) -/
  bad : Bool := false
  /-- it is ending (R381, R384): the record's lines still to be written, words still to be sent to its children and losers still to be
  freed -/
  ending : Bool := false
  out : List (Nat × List Byte) := []
  sends : List (BitVec 32 × Option FVal) := []
  lose : List (BitVec 32) := []
  /-- every step of its end but the return to FREE is done (R381 step 6) -/
  spent : Bool := false
  deriving DecidableEq, Repr, Inhabited

/-- A set copied out to HBM (R437): what its image holds in a form that only the die controller reads, and the counter updates
held for it (R213), and the generations its restore has drawn so far (R152). -/
structure Saved where
  set : SetState := {}
  held : List UpdOp := []
  drawn : List (BitVec 10) := []
  deriving DecidableEq, Repr, Inhabited

/-- A partition's slice on a die (R426): running, cycles left, PREQ raised, cycles since then, the cores already reported
late (R436). -/
structure Slice where
  running : Bool := false
  remain : BitVec 48 := 0
  preq : Bool := false
  since : Nat := 0
  late : BitVec 96 := 0
  /-- the controller's cycle in which REMAIN reached 0; the partition's last live task retired in it, so this slice raises no PREQ (R427) -/
  zeroAt : Option W64 := none
  quiet : Bool := false
  deriving DecidableEq, Repr, Inhabited

/-- One die. -/
structure Die where
  /-- fold (R321, R322): descriptors, indices never allocated so far, freed indices in order -/
  streams : Sparse Stream := []
  fresh : Nat := 0
  freed : List Nat := []
  /-- stream processor window registers by offset (R325), weight residency table (R336) -/
  spw : Sparse W64 := []
  resid : Sparse W128 := []
  frames : Sparse Frame := []
  /-- freed nodes whose children are being released, with the next entry (R330) -/
  cascade : List (Nat × Nat) := []
  /-- drover queues by entry: stream index and cc waited (R337); round-robin quad of an entry -/
  dq : Sparse (List (Nat × Nat)) := []
  rr : Sparse Nat := []
  groups : Sparse Group := []
  /-- die event counters (R390) -/
  perf : Sparse (BitVec 48) := []
  cores : Sparse Core := []
  /-- physical core of a logical core, where it is not the same number (R11) -/
  phys : Sparse Nat := []
  /-- physical cores taken out of service (R11, R468) -/
  dead : List Nat := []
  /-- lines of the read-only fabric cache, by virtual line address: fabric line address and data (R237) -/
  fab : Sparse (Nat × Line) := []
  dir : Sparse DirEntry := []
  proxy : Sparse ProxyLine := []
  tlb : Sparse TlbEntry := []
  root : W64 := 0
  ddir : W64 := 0
  malf : BitVec 32 := 0
  gangs : Sparse Gang := []
  gangSeq : Nat := 0
  /-- partition records (R425) -/
  parts : Sparse (BitVec 512) := []
  reports : List Report := []
  /-- registers of the die controller (fabric class 4, UNIT 106) that this record does not hold elsewhere, by offset -/
  ctl : Sparse W64 := []
  /-- overflow keepers by quad: the sharers its table can hold (R231) -/
  keepers : Sparse Nat := []
  /-- SHOOT, and the shootdown under way (R406) -/
  shoot : W64 := 0
  /-- key slots loaded: domain and the two AES-256 keys (R281, R494) -/
  keys : Sparse (BitVec 12 × BitVec 512) := []
  /-- frozen engine request streams: engine and domain (R439) -/
  engFrz : List (Nat × Nat) := []
  /-- requests that have arrived at the die's copy engines (R440) -/
  engSeq : Nat := 0
  /-- copied-out sets, by 128 · partition + core (R437) -/
  saved : Sparse Saved := []
  slices : Sparse Slice := []
  /-- the die controller's local cycle count (R428) -/
  dcyc : W64 := 0
  /-- launch records that device code has handed to the launch unit (R117): record, core and domain of the issuer -/
  lrecs : List (BitVec 2048 × Nat × BitVec 12) := []
  /-- launch queues, by 8 · partition + priority: launches whose share waits here (R419) -/
  lq : Sparse (List Nat) := []
  /-- parameter-copy areas by partition: virtual address, fabric address, bytes (R416) -/
  pcopy : Sparse (W64 × W64 × W64) := []
  /-- sequence number of the next held CXL request (R282) -/
  cxlSeq : Nat := 0
  /-- error counters by unit (R467) -/
  errs : Sparse W64 := []
  /-- the last 16 power measurements, newest first, in mW; the hottest junction, in 1/8 °C; CAPPED (R489, R490); the cycle of
  the last measurement -/
  power : List (BitVec 32) := []
  temp : BitVec 16 := 0
  capped : Bool := false
  measured : Option W64 := none
  /-- corrected errors of the last 2^24 controller cycles, by cycle, and the cycle of a FAILWARN of CAUSE 1 (R467, R468) -/
  errAt : List W64 := []
  failAt : Option W64 := none
  /-- failed replays of the flit in hand and corrected errors, by 256 · unit + lane (R463, R466); ports without a lane left -/
  replays : Sparse Nat := []
  laneErr : Sparse Nat := []
  /-- corrected errors of the rows of SRAM and the HBM channels since the last spare, by 2^40 · unit + row (R466) -/
  rowErr : Sparse Nat := []
  downPorts : List Nat := []
  deriving DecidableEq, Repr, Inhabited

end Sys2Proof.Machine
end

