-- ==== Sys2Proof/Machine/State.lean ====
section
/-! DEFINITION. The state of the module, the reasons a step can stop, and the state after reset. Plain data. -/

namespace Sys2Proof.Machine

/-- A registered image (R415): virtual address, domain, the 128 bytes of its header (R75), its patch entries (R77). -/
structure Image where
  va : Nat := 0
  dom : BitVec 12 := 0
  hdr : BitVec 1024 := 0
  patches : List W64 := []
  deriving DecidableEq, Repr, Inhabited

/-- A placed task that has not been created (R417, R418): core, launch coordinates, WP, first byte of scratch region 1, and the
generation already drawn for its workspace. -/
structure Task where
  core : Nat
  lco : BitVec 128
  wp : Nat
  base : Nat
  gen : Option (BitVec 10) := none
  deriving DecidableEq, Repr, Inhabited

/-- A die's share of a launch: the die, its ordinal, whether it is placed, the cores that hold its reservations, the tasks still
to create in order. -/
structure Share where
  die : Nat
  ord : Nat
  placed : Bool := false
  cores : List Nat := []
  todo : List Task := []
  deriving DecidableEq, Repr, Inhabited

/-- Who submitted a packet (R411, R423): a PCIe function; device code, with its die, core and domain and the counter to signal;
or a node of a running replay. -/
inductive PktFrom where
  | host (port fn : Nat)
  | device (d core : Nat) (dom : BitVec 12) (ck : Nat) (ci : Int)
  | node (g id n : Nat)
  deriving DecidableEq, Repr, Inhabited

/-- What the completion word of a packet needs (R414): its submitter, domain, COOKIE, CADDR, LRO. -/
structure Reply where
  src : PktFrom := .host 0 0
  dom : BitVec 12 := 0
  cookie : BitVec 32 := 0
  caddr : Nat := 0
  lro : Bool := false
  deriving DecidableEq, Repr, Inhabited

/-- A launch in progress (R416 to R420): virtual address and length of its code, its patch entries (line, head, parameter
offset, width code; R77), its parameter block as fixed at creation (R79), the image header, domain, priority, partition, the
six counts and PKGB of its shape, whether other packages hold shares, its place in the partition's parameter-copy area, its
shares and its reply. -/
structure Launch where
  code : Nat := 0
  codeLen : Nat := 0
  patches : List (Nat × Nat × Nat × Nat) := []
  params : List Byte := []
  hdr : BitVec 1024 := 0
  dom : BitVec 12 := 0
  prio : Nat := 0
  part : Nat := 0
  shape : List Nat := []
  pkgb : Nat := 0
  away : Bool := false
  slot : Nat := 0
  shares : List Share := []
  reply : Reply := {}
  deriving DecidableEq, Repr, Inhabited

/-- A node of a loaded graph (R421): its LAUNCH record, DEP, its successors. -/
structure Node where
  rcd : BitVec 2048 := 0
  dep : Nat := 0
  succ : List Nat := []
  deriving DecidableEq, Repr, Inhabited

/-- A running replay (R423): its number, reply, home die, the counters of its nodes, its snapshot of the parameter blocks (none: not
readable), nodes completed. -/
structure Replay where
  id : Nat := 0
  home : Nat := 0
  reply : Reply := {}
  left : Sparse Nat := []
  snap : List (Option (List Byte)) := []
  done : Nat := 0
  deriving DecidableEq, Repr, Inhabited

/-- A loaded graph (R421, R423): its area and domain, nodes, the replays queued (home die, reply) and the running one. -/
structure Graph where
  va : Nat := 0
  dom : BitVec 12 := 0
  nodes : List Node := []
  queue : List (Nat × Reply) := []
  running : Option Replay := none
  deriving DecidableEq, Repr, Inhabited

/-- The post box (R457, R458): the four registers by their fields, SEQ being PBWR, and the records dropped since the last. -/
structure PostBox where
  base : W64 := 0
  vec : BitVec 5 := 0
  size : BitVec 4 := 0
  en : Bool := false
  rd : BitVec 32 := 0
  seq : BitVec 32 := 0
  lost : Nat := 0
  deriving DecidableEq, Repr, Inhabited

/-- Why every die is held in reset (R488, R491). -/
inductive Trip where
  | junction | coolant | supply
  deriving DecidableEq, Repr, Inhabited

/-- What Dilvoac sends on a management path (R491, R493, R495). -/
inductive MctpOut where
  /-- TELEM of the dies asked about -/
  | telemetry (i3c : Bool) (l : List (Nat × W64))
  /-- the 288 bytes of an attestation report -/
  | report (i3c : Bool) (bytes : List Byte)
  /-- a request was served, or refused -/
  | done (i3c : Bool) (ok : Bool)
  /-- the completion of a control request of a supported command, or the error completion -/
  | control (i3c : Bool) (cmd : BitVec 8) (ok : Bool)
  | thermal (t : Trip)
  deriving DecidableEq, Repr, Inhabited

/-- The Dilvoac controller (R491 to R495): module resets since manufacture, digests of the running images and of the staged
ones, the cause of the last trip, what it has sent. -/
structure Dilvoac where
  boots : BitVec 64 := 1
  images : Sparse (BitVec 384) := []
  staged : Sparse (BitVec 384) := []
  trip : Option Trip := none
  out : List MctpOut := []
  deriving DecidableEq, Repr, Inhabited

/-- What the module answers to the host: a configuration request, a read, a request it does not support, a Completer Abort
(R412, R440, R453, R496). -/
inductive HostOut where
  | retry (port fn : Nat)
  /-- the answer of a function that has started, with the size in bytes that its configuration space gives BAR 4 -/
  | configured (port fn : Nat) (bar4 : Nat)
  | data (port fn : Nat) (bytes : List Byte)
  | unsupported (port fn : Nat)
  | abort (port fn : Nat)
  deriving DecidableEq, Repr, Inhabited

/-- The whole module. -/
structure State where
  cur : Agent := .hart 0 0
  sched : List Turn := []
  /-- number of steps taken: the argument of the free values of `Config` -/
  tick : Nat := 0
  pkg : BitVec 12 := 0
  dies : Sparse Die := []
  mem : Mem := []
  /-- protected words of pasture (16 bytes) and HBM (64 bytes) that hold an uncorrected error, by fabric address (R464) -/
  memBad : List Nat := []
  /-- host memory by bus address, CXL pool by pool address (R454) -/
  host : Mem := []
  pool : Mem := []
  /-- port 1 runs CXL (R456) -/
  cxlMode : Bool := false
  net : List Packet := []
  /-- Lamong ring sizes (R449) and ports that are up, in the order -X +X -Y +Y -Z +Z (R452) -/
  sx : Nat := 0
  sy : Nat := 0
  sz : Nat := 0
  up : BitVec 6 := 0
  nextPkt : Nat := 0
  /-- launches in progress, registered images by number (R415), graphs by 64 · partition + number (R421); the next numbers -/
  launches : Sparse Launch := []
  images : Sparse Image := []
  graphs : Sparse Graph := []
  nextLaunch : Nat := 0
  nextReplay : Nat := 0
  /-- packets submitted to aperture slots that are BUSY, by 128 · port + 16 · function + slot (R411): with relaxed ordering -/
  aper : Sparse (BitVec 2048 × Bool) := []
  /-- the cycle of the port's die controller in which each of them was submitted (R430) -/
  apAt : Sparse W64 := []
  /-- the 256 bytes of each aperture slot as last written (R411), by the same number -/
  slots : Sparse (BitVec 2048) := []
  /-- frozen PCIe functions, bit 8 · port + function (R442) -/
  fnFrz : BitVec 16 := 0
  migs : Sparse Migration := []
  postBox : PostBox := {}
  /-- MSI-X messages sent to the host so far: port, function, vector -/
  msix : List (Nat × Nat × Nat) := []
  nextMig : Nat := 0
  /-- freezes reported to Dilvoac (R441) -/
  notices : Nat := 0
  /-- Dilvoac's debug authorisation (R74, R494) -/
  debug : Bool := false
  dil : Dilvoac := {}
  /-- steps of R496 completed: 5 when the harts have started, 0 while every die is held in reset -/
  boot : Nat := 5
  /-- Lamong ports that came up during start-up and have not been reported (R496) -/
  unreported : BitVec 6 := 0
  /-- numbers of packets whose source still keeps them (R446) -/
  kept : List Nat := []
  hostOut : List HostOut := []
  deriving DecidableEq, Repr, Inhabited

/-- The reasons for which the machine stops. -/
inductive Fault where
  /-- kept for a die-unit register whose effect no rule would give: no meaning raises it, since R227, R228 and R398 turn every such
  access into the access fault of its kind (safe: the model stops) -/
  | deviceWindow (fa : Nat)
  deriving DecidableEq, Repr, Inhabited

/-- The reasons for which an instruction has no meaning here. -/
inductive Refusal where
  /-- an arm of `exec` that has no meaning yet (safe: the model stops) -/
  | notModelled (mnemonic : String)
  deriving DecidableEq, Repr, Inhabited

/-- The module right after reset. -/
def State.reset : State := {}

end Sys2Proof.Machine
end

