-- ==== Sys2Proof/Machine/Table.lean ====
section
/-! DEFINITION. Operations on `Sparse` tables: reading with a default, writing in canonical form, and byte memory over them.

`tset` keeps keys strictly rising and lists no entry equal to the default; `tins`/`tdel` serve tables whose entries are
optional. -/

namespace Sys2Proof.Machine

/-- The entry of key `i`, or none. -/
def tfind {α : Type} : Sparse α → Nat → Option α
  | [], _ => none
  | (k, v) :: t, i => if i = k then some v else tfind t i

/-- The value of key `i`, where an unlisted key reads as `d`. -/
def tget {α : Type} (d : α) (t : Sparse α) (i : Nat) : α := (tfind t i).getD d

/-- Key `k` now has entry `v`. -/
def tins {α : Type} : Sparse α → Nat → α → Sparse α
  | [], k, v => [(k, v)]
  | (j, w) :: t, k, v => if k < j then (k, v) :: (j, w) :: t else if k = j then (k, v) :: t else (j, w) :: tins t k v

/-- Key `k` is no longer listed. -/
def tdel {α : Type} : Sparse α → Nat → Sparse α
  | [], _ => []
  | (j, w) :: t, k => if k = j then tdel t k else (j, w) :: tdel t k

/-- Key `k` now reads as `v`: writing the default removes the entry. -/
def tset {α : Type} [DecidableEq α] (d : α) (t : Sparse α) (k : Nat) (v : α) : Sparse α :=
  if v = d then tdel t k else tins t k v

/-- The canonical form: keys strictly rising above `lo`, no entry equal to the default. -/
def twfFrom {α : Type} [DecidableEq α] (d : α) : Option Nat → Sparse α → Bool
  | _, [] => true
  | lo, (k, v) :: t => (match lo with | none => true | some l => decide (l < k)) && decide (v ≠ d) && twfFrom d (some k) t

/-- A table in canonical form. -/
def twf {α : Type} [DecidableEq α] (d : α) (t : Sparse α) : Bool := twfFrom d none t

/-- One byte of memory; what nothing has written reads as 0. -/
def memGet (m : Mem) (a : Nat) : Byte := tget 0 m a

/-- One byte of memory written. -/
def memSet (m : Mem) (a : Nat) (v : Byte) : Mem := tset 0 m a v

/-- `n` bytes from address `a`, little-endian (R5). -/
def memRead (m : Mem) (a : Nat) : Nat → Nat
  | 0 => 0
  | n + 1 => (memGet m a).toNat + 256 * memRead m (a + 1) n

/-- `n` bytes of `v` written at address `a`, little-endian. -/
def memWrite (m : Mem) (a : Nat) : Nat → Nat → Mem
  | 0, _ => m
  | n + 1, v => memWrite (memSet m a (BitVec.ofNat 8 v)) (a + 1) n (v / 256)

/-- A list of bytes written at address `a`. -/
def memPut (m : Mem) (a : Nat) : List Byte → Mem
  | [] => m
  | b :: bs => memPut (memSet m a b) (a + 1) bs

/-- The canonical form of a byte memory. -/
def memWf (m : Mem) : Bool := twf 0 m

/-- The bytes of a number, little-endian. -/
def bytesOf : Nat → Nat → List Byte
  | 0, _ => []
  | n + 1, v => BitVec.ofNat 8 v :: bytesOf n (v / 256)

/-- The number whose little-endian bytes are listed. -/
def ofBytes : List Byte → Nat
  | [] => 0
  | b :: bs => b.toNat + 256 * ofBytes bs

/-- The byte `i` of a number. -/
def byteAt (v i : Nat) : Nat := (v >>> (8 * i)) % 256

/-- `n` bytes: byte `i` from `v` where bit `i` of `m` is set, else from `old`. -/
def mergeBytes (n : Nat) (m old v : Nat) : Nat :=
  match n with
  | 0 => 0
  | k + 1 => (if m % 2 = 1 then v % 256 else old % 256) + 256 * mergeBytes k (m / 2) (old / 256) (v / 256)

end Sys2Proof.Machine
end

