-- ==== Sys2Proof/Machine/Ops.lean ====
section
/-! DEFINITION. Named operations over the state: access to dies, cores, contexts and slots; workspace registers, predicates
and paddock granules under the generation rules (R85, R144, R145); range locks; the run queue; creating and retiring
contexts; counter updates and what they wake; taking a context fault (R432); the wrapper that runs one Makel instruction. -/

namespace Sys2Proof.Machine

/-! ## Fault codes (R431) -/

abbrev illegalLineCode : Nat := 0x01
abbrev illegalOp : Nat := 0x02
abbrev wsbound : Nat := 0x03
abbrev localRange : Nat := 0x04
abbrev alignFault : Nat := 0x05
abbrev genTrap : Nat := 0x06
abbrev rlock : Nat := 0x07
abbrev prot : Nat := 0x08
abbrev pageFault : Nat := 0x09
abbrev gangMismatch : Nat := 0x0A
abbrev gangTimeoutCode : Nat := 0x0B
abbrev overlapFault : Nat := 0x0C
abbrev counterOvf : Nat := 0x0D
abbrev posrange : Nat := 0x0E
abbrev streamFault : Nat := 0x0F
abbrev linkFault : Nat := 0x10
abbrev remoteFault : Nat := 0x12
abbrev breakFault : Nat := 0x13
abbrev swtrap : Nat := 0x14
abbrev uncorrectedFault : Nat := 0x15

/-- A fault as an instruction raises it: code, FADDR (none: the instruction's own IP), FAUX, and for an upcall the access
kind and the token (R130). -/
structure FaultInfo where
  code : Nat
  faddr : Option Nat := none
  aux : Nat := 0
  acc : Nat := 0
  tok : Nat := 0
  /-- the error consumed was counted at the unit that holds the data (R464) -/
  counted : Bool := false
  deriving DecidableEq, Repr, Inhabited

/-- How an instruction ends when it does not complete: a fault (all its effects discarded), a fault over the state given
(R329), a stall in place (its turn
passes unused; the state given goes on), a wait of R101, or a refusal. -/
inductive Exit where
  | fault (f : FaultInfo)
  | faultIn (f : FaultInfo) (s : State)
  | stall (s : State)
  | wait (w : Wait) (s : State)
  | refuse (r : Refusal)
  deriving Repr

abbrev Res (α : Type) := Except Exit α

/-- Raise a fault whose FADDR is the instruction's IP. -/
def raise {α : Type} (code : Nat) : Res α := .error (.fault { code := code })

/-- Raise a fault with an address. -/
def raiseAt {α : Type} (code a : Nat) : Res α := .error (.fault { code := code, faddr := some a })

/-- Continue only when the condition holds; else fault. -/
def require (b : Bool) (code : Nat) : Res Unit := if b then .ok () else raise code

/-! ## Parts of the state -/

def State.die (s : State) (d : Nat) : Die := tget {} s.dies d
def State.setDie (s : State) (d : Nat) (v : Die) : State := { s with dies := tins s.dies d v }
def Die.core (v : Die) (c : Nat) : Core := tget {} v.cores c
def Die.setCore (v : Die) (c : Nat) (k : Core) : Die := { v with cores := tins v.cores c k }
def State.core (s : State) (d c : Nat) : Core := (s.die d).core c
def State.setCore (s : State) (d c : Nat) (k : Core) : State := s.setDie d ((s.die d).setCore c k)
def State.act (s : State) (d c : Nat) : SetState := (s.core d c).act
def State.setAct (s : State) (d c : Nat) (a : SetState) : State := s.setCore d c { s.core d c with act := a }
def SetState.ctx (a : SetState) (ix : Nat) : Ctx := tget {} a.ctxs ix
def SetState.setCtx (a : SetState) (ix : Nat) (x : Ctx) : SetState := { a with ctxs := tins a.ctxs ix x }
def SetState.slot (a : SetState) (i : Nat) : Slot := tget {} a.slots i
def SetState.setSlot (a : SetState) (i : Nat) (x : Slot) : SetState := { a with slots := tins a.slots i x }
def SetState.counter (a : SetState) (k : Nat) : Counter := tget {} a.counters k
def SetState.setCounter (a : SetState) (k : Nat) (v : Counter) : SetState := { a with counters := tset {} a.counters k v }
def Core.pendOf (c : Core) (i : Nat) : Pend := tget {} c.pend i
def Core.setPend (c : Core) (i : Nat) (p : Pend) : Core := { c with pend := tset {} c.pend i p }

/-! ## Records and error counters (R441, R458, R467) -/

/-- The ring's size in records. -/
def PostBox.ring (p : PostBox) : Nat := 2 ^ (p.size.toNat + 6)

/-- Is the ring full? -/
def PostBox.full (p : PostBox) : Bool := decide ((p.seq - p.rd).toNat = p.ring)

/-- Records held by the die controllers. -/
def State.held (s : State) : Nat := (s.dies.map (fun d => d.2.reports.length)).sum

/-- A die controller produces a record: held, or dropped and counted in LOST (R458). -/
def State.report (s : State) (d kind body : Nat) : State :=
  if !s.postBox.en || (s.postBox.full && decide (256 ≤ s.held)) then
    { s with postBox := { s.postBox with lost := Nat.min 255 (s.postBox.lost + 1) } }
  else
    let v := s.die d
    s.setDie d { v with reports := v.reports ++ [{ kind := kind, body := BitVec.ofNat 384 body }] }

/-- A freeze is reported: the post box, and Dilvoac. -/
def freezeReport (s : State) (d kind reason agent odom tdom addr : Nat) (noAgent : Bool) : State :=
  let s := s.report d 8 (kind * 2 ^ 192 + reason * 2 ^ 196 + tdom % 4096 * 2 ^ 200 + odom % 4096 * 2 ^ 212 +
    agent % 2 ^ 32 * 2 ^ 224 + addr % 2 ^ 64 * 2 ^ 256 + b2n noAgent * 2 ^ 321)
  { s with notices := s.notices + 1 }

/-- The die that carries a Lamong port, in the order -X +X -Y +Y -Z +Z (R10). -/
def lamongDie (i : Nat) : Nat := match i with | 0 => 4 | 1 => 7 | 2 => 1 | 3 => 9 | 4 => 2 | _ => 10

/-- Reset value of an error counter: SPLEFT is per repair (log entry 8), zero for a Lamong port that the die does not carry. -/
def errReset (d k : Nat) : W64 :=
  if k < 162 ∨ (k < 168 ∧ lamongDie (k - 162) = d) then 0x0001000000000000 else 0

/-- Error counter of unit `k` on die `d` (R467). -/
def Die.err (v : Die) (d k : Nat) : W64 := tget (errReset d k) v.errs k
def Die.setErr (v : Die) (d k : Nat) (x : W64) : Die := { v with errs := tset (errReset d k) v.errs k x }

/-- A KIND 9 record: EVENT, CAUSE, unit, address, CORR of the unit (R468). -/
def integrityReport (s : State) (d ev cause k addr : Nat) : State :=
  s.report d 9 (ev + cause * 2 ^ 8 + k % 65536 * 2 ^ 16 + addr % 2 ^ 64 * 2 ^ 64 + fld ((s.die d).err d k) 31 0 * 2 ^ 128)

/-- An uncorrected error of unit `k` of a die is detected (R464, R467). -/
def State.detect (s : State) (d k : Nat) : State :=
  let v := s.die d
  let n := Nat.min 255 (fld (v.err d k) 39 32 + 1)
  s.setDie d (v.setErr d k (BitVec.ofNat 64 (putFld (v.err d k).toNat 32 8 n)))

/-- Free value `i` of this step (log entry 3). -/
def State.free (s : State) (i : Nat) : W64 := Config.freeWord (s.tick * 65536 + i)

/-- Where an instruction runs: die, core, slot, context index, the slot's mode and the instruction's IP. -/
structure Env where
  d : Nat
  c : Nat
  sl : Nat
  ix : Nat
  mode : SlotMode
  ip : W64
  deriving DecidableEq, Repr, Inhabited

/-- The environment of the agent whose turn it is, when that is a slot with a context that executes. -/
def State.env? (s : State) : Option Env :=
  match s.cur with
  | .slot d c i =>
    let a := s.act d c
    let sl := a.slot i
    let x := a.ctx sl.ix
    if (sl.mode = .stray ∨ sl.mode = .block) ∧ x.state = .bound then
      some { d := d, c := c, sl := i, ix := sl.ix, mode := sl.mode, ip := x.ip }
    else none
  | .hart _ _ => none

def State.ctx (s : State) (e : Env) : Ctx := (s.act e.d e.c).ctx e.ix
def State.setCtx (s : State) (e : Env) (x : Ctx) : State := s.setAct e.d e.c ((s.act e.d e.c).setCtx e.ix x)
def State.slotOf (s : State) (e : Env) : Slot := (s.act e.d e.c).slot e.sl
def State.setSlotOf (s : State) (e : Env) (x : Slot) : State := s.setAct e.d e.c ((s.act e.d e.c).setSlot e.sl x)

/-- The handle of a context (R88). -/
def ctxHandle (d c ix : Nat) (inc : BitVec 10) : Nat := ix % 64 + inc.toNat * 64 + (c % 128) * 65536 + (d % 16) * 8388608

/-- The index a current handle names on a core, when it is current there: only another incarnation makes it stale (R88). -/
def handleIx (a : SetState) (d c h : Nat) : Option Nat :=
  let ix := h % 64
  let x := a.ctx ix
  if h / 8388608 % 16 = d ∧ h / 65536 % 128 = c ∧ h / 64 % 1024 = x.inc.toNat ∧ h / 134217728 = 0
  then some ix else none

/-! ## Paddock granules (R144, R145) -/

/-- A granule as an agent without STRICT reads it: stale reads zero. -/
def granRead (p : Sparse Gran) (g : Nat) (gen : BitVec 10) : W128 :=
  let r := tget {} p g
  if r.tag = gen ∧ gen ≠ 0 then r.data else 0

/-- A granule is live under a generation. -/
def granLive (p : Sparse Gran) (g : Nat) (gen : BitVec 10) : Bool := decide ((tget {} p g).tag = gen ∧ gen ≠ 0)

/-- Does a write under generation `gen` with byte mask `m` merge old bytes: partial, and to a live granule (R464)? -/
def merges (p : Sparse Gran) (g : Nat) (gen : BitVec 10) (m : Nat) : Bool :=
  granLive p g gen && decide (m % 65536 ≠ 65535)

/-- The write rule of R145: bytes of mask `m` written under generation `gen`; a stale granule is zeroed first. A write that keeps no
old bytes clears an error of the granule (R464). -/
def granWrite (p : Sparse Gran) (g : Nat) (gen : BitVec 10) (v m : Nat) : Sparse Gran :=
  tset {} p g { tag := gen, data := BitVec.ofNat 128 (mergeBytes 16 m (granRead p g gen).toNat v), bad := (tget {} p g).bad && merges p g gen m }

/-- The region a paddock range lies in, among those of a context: index, first byte, length in bytes, generation (R143). -/
def Ctx.region (x : Ctx) (r : Nat) : Nat × Nat × BitVec 10 :=
  match r with
  | 0 => (x.wp.toNat, 16 * x.wsz.toNat, x.wgen)
  | 1 => (16 * x.r1.base.toNat, 16 * x.r1.size.toNat, x.r1.gen)
  | 2 => (16 * x.r2.base.toNat, 16 * x.r2.size.toNat, x.r2.gen)
  | _ => (16 * x.r3.base.toNat, 16 * x.r3.size.toNat, x.r3.gen)

/-- Does region `r` hold all of [a, a+n-1]? -/
def Ctx.inRegion (x : Ctx) (r a n : Nat) : Bool :=
  let (lo, len, _) := x.region r
  decide (lo ≤ a ∧ a + n ≤ lo + len)

/-- The lowest region of the context that holds all `n` bytes at `a`. -/
def Ctx.regionOf (x : Ctx) (a n : Nat) : Option Nat :=
  if x.inRegion 0 a n then some 0 else if x.inRegion 1 a n then some 1
  else if x.inRegion 2 a n then some 2 else if x.inRegion 3 a n then some 3 else none

/-- `n` bytes at paddock address `a` under generation `gen` (stale granules read zero). -/
def padBytes (p : Sparse Gran) (gen : BitVec 10) (a : Nat) : Nat → Nat
  | 0 => 0
  | n + 1 => byteAt (granRead p (a / 16) gen).toNat (a % 16) + 256 * padBytes p gen (a + 1) n

/-- `n` bytes put at `a` under generation `gen`, one byte at a time. -/
def padRun (p : Sparse Gran) (gen : BitVec 10) (a : Nat) : Nat → Nat → Sparse Gran
  | 0, _ => p
  | n + 1, v => padRun (granWrite p (a / 16) gen ((v % 256) * 2 ^ (8 * (a % 16))) (2 ^ (a % 16))) gen (a + 1) n (v / 256)

/-- A granule written whole is good again (R464). -/
def mendGran (p : Sparse Gran) (g : Nat) : Sparse Gran :=
  if (tget {} p g).bad then tset {} p g { tget {} p g with bad := false } else p

/-- The granules that lie wholly in [a, a+n-1]. -/
def wholeGrans (a n : Nat) : List Nat := (List.range ((a + n) / 16 - (a + 15) / 16)).map (fun i => (a + 15) / 16 + i)

/-- `n` bytes written at `a` under generation `gen`. -/
def padPut (p : Sparse Gran) (gen : BitVec 10) (a n v : Nat) : Sparse Gran := (wholeGrans a n).foldl mendGran (padRun p gen a n v)

/-- The lowest stale granule that [a, a+n-1] touches, by its first byte. -/
def staleAt (p : Sparse Gran) (gen : BitVec 10) (a : Nat) : Nat → Option Nat
  | 0 => none
  | n + 1 => if granLive p (a / 16) gen then staleAt p gen (a + 1) n else some (a / 16 * 16)

/-- The generation of the live region of a set that holds all of [a, a+n-1]: a context's, or the save region (R143, R146). -/
def SetState.coverGen (a : SetState) (lo n : Nat) : Option (BitVec 10) :=
  if lo + n ≤ 0x2000 then some a.saveGen
  else a.ctxs.findSome? (fun p => if p.2.state = .free then none
    else (p.2.regionOf lo n).map (fun r => (p.2.region r).2.2))

/-! ## Range locks (R279, R280) -/

/-- The first of the granules that the `n` bytes at `a` touch whose data, live under `gen`, hold an uncorrected error (R464). -/
def padBad (p : Sparse Gran) (gen : BitVec 10) (a : Nat) : Nat → Option Nat
  | 0 => none
  | n + 1 => if granLive p (a / 16) gen && (tget {} p (a / 16)).bad then some (a / 16 * 16) else padBad p gen (a + 1) n

/-- The first of the 16-byte words that the `n` bytes at `a` touch which a list of words in error names. -/
def wordBad (l : List Nat) (a : Nat) : Nat → Option Nat
  | 0 => none
  | n + 1 => if l.contains (a / 16) then some (a / 16 * 16) else wordBad l (a + 1) n

/-- The words in error after `n` bytes at `a` are written: a word written whole is good again (R464). -/
def wordsWritten (l : List Nat) (a n : Nat) : List Nat := l.filter (fun w => !(decide (a ≤ 16 * w) && decide (16 * w + 16 ≤ a + n)))

/-- Does a lock cover byte `b` of a space, chunk-map bits apart? -/
def Lock.covers (l : Lock) (space b : Nat) : Bool := decide (l.space = space ∧ l.lo ≤ b ∧ b ≤ l.hi)

/-- A W lock no longer holds a byte whose chunk bit is set (R280). -/
def lockHolds (a : SetState) (l : Lock) (b : Nat) : Bool :=
  match l.cm with
  | some m => !(l.w && (tget 0 a.chunk m).getLsbD ((b - l.lo) / 512))
  | none => true

/-- The first byte of [b, b+n-1] under a lock that a read (W locks) or a write (any lock) meets. -/
def lockedByte (a : SetState) (space : Nat) (write : Bool) (b : Nat) : Nat → Option Nat
  | 0 => none
  | n + 1 =>
    if a.locks.any (fun l => l.covers space b && (write || l.w) && lockHolds a l b) then some b
    else lockedByte a space write (b + 1) n

/-! ## Workspace registers and predicates (R85, R86, R96) -/

/-- The tag bound to register w(120+i), if binding i is valid (R87). -/
def Ctx.binding (x : Ctx) (i : Nat) : Option Nat :=
  let v := fld x.chan (13 * i + 12) (13 * i)
  if v / 4096 = 1 then some (v % 4096) else none

/-- Binding i set or removed. -/
def Ctx.setBinding (x : Ctx) (i : Nat) (t : Option Nat) : Ctx :=
  { x with chan := BitVec.ofNat 104 (putFld x.chan.toNat (13 * i) 13 (match t with | some v => 4096 + v % 4096 | none => 0)) }

/-- Is register `i` a bound channel register of the context? -/
def Ctx.bound (x : Ctx) (i : Nat) : Bool := decide (120 ≤ i ∧ i ≤ 127) && (x.binding (i - 120)).isSome

/-- The queue of binding `b` of context `ix`. -/
def chQueue (a : SetState) (ix b : Nat) : List W128 := tget [] a.chq (8 * ix + b)

/-- The granule of register `i`. -/
def Ctx.gran (x : Ctx) (i : Nat) : Nat := x.wp.toNat / 16 + i

/-- Register `i` under the generation rule, without STRICT and without channels. -/
def regRaw (a : SetState) (x : Ctx) (i : Nat) : W128 := granRead a.pad (x.gran i) x.wgen

/-- What a multi-beat instruction of the context holds of granule `g` since its first turn (R178): its data, none where it was stale. -/
def held (a : SetState) (x : Ctx) (g : Nat) : Option (Option W128) :=
  match (a.slot x.slot.toNat).beat with
  | some b => b.regs.lookup g
  | none => none

/-- Granule `g` of the context's area as its own instruction reads it; none where it is stale. -/
def granSeen (a : SetState) (x : Ctx) (g : Nat) : Option W128 :=
  (held a x g).getD (if granLive a.pad g x.wgen then some (tget {} a.pad g).data else none)

/-- W(i) of R85: the register as a source of the context's own instruction. A bound register gives the head packet of its
queue; the packet is popped when the instruction completes (R96). -/
def regRead (a : SetState) (ix i : Nat) : Res W128 :=
  let x := a.ctx ix
  if x.wsz.toNat ≤ i then raise wsbound
  else if x.bound i then .ok ((chQueue a ix (i - 120)).headD 0)
  else if x.strict && (granSeen a x (x.gran i)).isNone then raiseAt genTrap (16 * x.gran i)
  else
    match padBad a.pad x.wgen (16 * x.gran i) 1, held a x (x.gran i) with
    | some b, none => raiseAt uncorrectedFault b
    | _, _ => .ok ((granSeen a x (x.gran i)).getD 0)

/-- WSet(i, v, m) of R85, `m` a 16-bit byte mask. -/
def regWrite (a : SetState) (ix i v m : Nat) : SetState :=
  let x := a.ctx ix
  { a with pad := granWrite a.pad (x.gran i) x.wgen v m }

/-- All ones: every byte of a register. -/
abbrev allBytes : Nat := 0xFFFF

/-- The 64-bit predicate register n; p0 reads all ones, a stale granule reads zero (R86). -/
def predRead (a : SetState) (x : Ctx) (n : Nat) : Nat :=
  if n = 0 then 2 ^ 64 - 1
  else ((granSeen a x ((x.wp.toNat - 128) / 16 + n / 2)).getD 0).toNat >>> (64 * (n % 2)) % 2 ^ 64

/-- The granule of predicate register n; p0 has none. -/
def predGran (x : Ctx) (n : Nat) : List Nat := if n = 0 then [] else [(x.wp.toNat - 128) / 16 + n / 2]

/-- Writes predicate register n; a write to p0 is ignored. -/
def predWrite (a : SetState) (ix n v : Nat) : SetState :=
  let x := a.ctx ix
  if n = 0 then a
  else { a with pad := granWrite a.pad ((x.wp.toNat - 128) / 16 + n / 2) x.wgen ((v % 2 ^ 64) * 2 ^ (64 * (n % 2)))
                        (0xFF * 2 ^ (8 * (n % 2))) }

/-- En(b) of R85 for predicate field P, PN. -/
def enabled (a : SetState) (x : Ctx) (p : BitVec 3) (pn : Bool) (b : Nat) : Bool :=
  (predRead a x p.toNat).testBit b != pn

/-! ## The run queue (R99) -/

/-- A context enters the tail of its EPRIO level. -/
def runqTail (a : SetState) (ix : Nat) : SetState :=
  let p := (a.ctx ix).eprio.toNat
  let before := a.runq.takeWhile (fun j => decide ((a.ctx j).eprio.toNat ≤ p))
  { a with runq := before ++ ix :: a.runq.drop before.length }

/-- A context enters ahead of every context of its EPRIO level (R434). -/
def runqHead (a : SetState) (ix : Nat) : SetState :=
  let p := (a.ctx ix).eprio.toNat
  let before := a.runq.takeWhile (fun j => decide ((a.ctx j).eprio.toNat < p))
  { a with runq := before ++ ix :: a.runq.drop before.length }

/-- A context leaves the run queue. -/
def runqDrop (a : SetState) (ix : Nat) : SetState := { a with runq := a.runq.filter (fun j => decide (j ≠ ix)) }

/-- A context becomes READY at the tail of its level; its aging starts again. -/
def makeReady (a : SetState) (ix : Nat) : SetState :=
  let x := a.ctx ix
  runqTail (a.setCtx ix { x with state := .ready, why := 0, age := 0 }) ix

/-! ## Waiting (R101) and waking -/

/-- Does what a context waits for hold now? Gangs, barriers and drains are settled where they end. -/
def waitHolds (a : SetState) (ix : Nat) : Wait → Bool
  | .counter k t eq => let v := (a.counter k).value.toNat; if eq then decide (v = t) else decide (t ≤ v)
  | .chunk cm m any => let v := tget 0 a.chunk cm &&& m; if any then decide (v ≠ 0 ∨ m = 0) else decide (v = m)
  | .chan regs => regs.all (fun i => !(chQueue a ix (i - 120)).isEmpty)
  | .gang => (a.ctx ix).gangDone || (a.ctx ix).gangFault.isSome
  | .bar _ _ => false
  | .drain => a.post.all (fun p => !(p.2.issuer.ix = ix && !p.2.issuer.hart && p.2.issuer.inc = (a.ctx ix).inc))

/-- Does a context still wait, its condition never having held? -/
def waitsStill (a : SetState) (ix : Nat) : Bool :=
  match (a.ctx ix).wait with
  | some w => !(a.ctx ix).satisfied && !waitHolds a ix w
  | none => false

/-- WHY of R87. -/
def Wait.why : Wait → Nat
  | .counter _ _ _ => 1
  | .chunk _ _ _ => 2
  | .chan _ => 3
  | .gang => 4
  | .bar _ _ => 4
  | .drain => 5

/-- One context: when its wait holds it is satisfied, and a BLOCKED one becomes READY (R99, R211). -/
def wakeOne (a : SetState) (ix : Nat) : SetState :=
  let x := a.ctx ix
  match x.wait with
  | none => a
  | some w =>
    if x.satisfied then a
    else if waitHolds a ix w then
      let a := a.setCtx ix { x with satisfied := true }
      if x.state = .blocked then makeReady a ix else a
    else a

/-- The hart's own counter wait, satisfied at the first moment its condition holds (R211). -/
def wakeHart (a : SetState) : SetState :=
  match a.hwait with
  | some (k, t) => if t ≤ (a.counter k).value.toNat then { a with hsat := true } else a
  | none => a

/-- Captured commands whose wait field holds now are satisfied (R211, R270, R309). -/
def wakeCommands (a : SetState) : SetState :=
  let now := fun (wk wt : Nat) => decide (wt ≤ (a.counter wk).value.toNat)
  { a with
    post := a.post.map (fun p => (p.1, { p.2 with met := p.2.met || (p.2.captured && now p.2.wk p.2.wt) }))
    mcmds := a.mcmds.map (fun p => (p.1, { p.2 with met := p.2.met || now p.2.wk p.2.wt })) }

/-- Every waiting context of a set whose condition holds wakes, in ascending index, then its commands and the hart. -/
def wakeAll (a : SetState) : SetState := wakeHart (wakeCommands ((a.ctxs.map (·.1)).foldl wakeOne a))

/-- A barrier phase has completed: the waiting context goes on (R224). -/
def wakeBar (a : SetState) (ix : Nat) : SetState :=
  let x := a.ctx ix
  let a := a.setCtx ix { x with satisfied := true }
  if x.state = .blocked then makeReady a ix else a

/-! ## Counter updates (R209, R212, R220) -/

/-- An armed trigger is evaluated after an update and becomes pending when its condition holds (R220). -/
def trigEval (c : Counter) : Counter :=
  match c.trig with
  | some t =>
    if !t.pending && (if t.eq then decide (c.value = t.thr) else decide (t.thr ≤ c.value)) then
      { c with trig := some { t with pending := true, fired := c.value } }
    else c
  | none => c

/-- Would Signal(k, inc) overflow? -/
def signalOverflows (c : Counter) (inc : Int) : Bool :=
  let v := (c.value.toNat : Int) + inc
  decide (v < 0 ∨ 65535 < v)

/-- Signal(k, inc) of R85 on one counter: saturating, with sticky OVF. -/
def signalCounter (c : Counter) (inc : Int) : Counter :=
  let v := (c.value.toNat : Int) + inc
  let v' := if v < 0 then 0 else if 65535 < v then 65535 else v
  trigEval { c with value := BitVec.ofNat 16 v'.toNat, ovf := c.ovf || signalOverflows c inc }

/-- Signal on a set: the update, its trigger, and the contexts it wakes. -/
def signalSet (a : SetState) (k : Nat) (inc : Int) : SetState :=
  wakeAll (a.setCounter k (signalCounter (a.counter k) inc))

/-- A set of a counter: VALUE and OVF := 0 (R217). -/
def setSet (a : SetState) (k v : Nat) : SetState :=
  let c := a.counter k
  wakeAll (a.setCounter k (trigEval { c with value := BitVec.ofNat 16 v, ovf := false }))

/-! ## Event counters (R390) -/

/-- An event counter after `n` events: it stops at 2^48 - 1. -/
def countUp (t : Sparse (BitVec 48)) (k n : Nat) : Sparse (BitVec 48) :=
  tset 0 t k (BitVec.ofNat 48 (Nat.min (2 ^ 48 - 1) ((tget 0 t k).toNat + n)))

/-- A core event counter counts `n` events. -/
def Core.count (c : Core) (k n : Nat) : Core := { c with perf := countUp c.perf k n }

/-- A die event counter counts one event. -/
def Die.count (v : Die) (k : Nat) : Die := { v with perf := countUp v.perf k 1 }

/-! ## Generations (R147, R149) -/

/-- Is a tag in the lead window of NEXT? -/
def inLead (next tag : BitVec 10) : Bool := decide (tag ≠ 0 ∧ (tag.toNat + 1023 - next.toNat) % 1023 < 256)

/-- Some granule of the set carries a tag of the lead window, leaving out granules of the generations listed. -/
def leadBusy (next : BitVec 10) (skip : List (BitVec 10)) (p : Sparse Gran) : Bool :=
  p.any (fun g => inLead next g.2.tag && !skip.contains g.2.tag)

/-- NEXT after a grant. -/
def nextGen (g : BitVec 10) : BitVec 10 := if g = 1023 then 1 else g + 1

/-- Alloc() would stall (R147). -/
def allocStalls (k : Core) : Bool := leadBusy k.next [] k.act.pad || leadBusy k.next [] k.shd.pad

/-- A stalled Alloc of a slot, of the hart (32) or of the core's engines: SHEAR_WAIT counts from now on, each cc (R147). -/
def Core.allocWait (k : Core) (who : Nat := 64) : Core :=
  if k.shear.waiting then k else { k with shear := { k.shear with waiting := true, who := who } }

/-- Does the Alloc that stalls still wait? One of an instruction that has been abandoned does not. -/
def Core.allocLive (k : Core) : Bool :=
  k.shear.waiting && (if k.shear.who < 32 then (k.act.slot k.shear.who).stalled else if k.shear.who = 32 then k.hart.busy else true)

/-- A granted Alloc: NEXT moves on and the stall is over; the generation granted was `k.next`. -/
def Core.allocDone (k : Core) : Core :=
  { k with next := nextGen k.next, shear := { k.shear with waiting := false, stalled := 0, forced := false } }

/-! ## Placing and freeing contexts (R86, R89, R92, R151) -/

/-- First byte and length of a context's area: predicates, descriptor and workspace. -/
def Ctx.area (x : Ctx) : Nat × Nat := (x.wp.toNat - 128, 128 + 16 * x.wsz.toNat)

/-- Do two byte ranges meet? -/
def meets (a n b m : Nat) : Bool := decide (0 < n ∧ 0 < m ∧ a < b + m ∧ b < a + n)

/-- The byte ranges a live context holds: its area and scratch regions. -/
def Ctx.ranges (x : Ctx) : List (Nat × Nat) :=
  [x.area, (16 * x.r1.base.toNat, 16 * x.r1.size.toNat), (16 * x.r2.base.toNat, 16 * x.r2.size.toNat),
   (16 * x.r3.base.toNat, 16 * x.r3.size.toNat)]

/-- The ranges of all live contexts of a set. -/
def SetState.liveRanges (a : SetState) : List (Nat × Nat) :=
  a.ctxs.flatMap (fun p => if p.2.state = .free then [] else p.2.ranges)

/-- Frame areas (R89): 640 bytes from WP - 128. -/
def SetState.frameRanges (a : SetState) : List (Nat × Nat) := a.frames.map (fun f => (f.2.toNat - 128, 640))

/-- Everything a new area must keep clear of (R122, R136): the save area, live areas, frames, areas reserved. -/
def SetState.taken (a : SetState) : List (Nat × Nat) :=
  (0, 0x2000) :: (a.liveRanges ++ a.frameRanges ++ a.resv)

/-- Bytes of scratch: the cache portion lies above (R124). -/
def SetState.scratch (a : SetState) : Nat := (16 - a.cache.toNat) * 65536

/-- The save area (R122). -/
abbrev saveRange : Nat × Nat := (0, 0x2000)

/-- Banks that a byte range touches. -/
def banksOf (a n : Nat) : BitVec 16 :=
  if n = 0 then 0
  else (List.range 16).foldl (fun b i => if meets a n (i * 65536) 65536 then b ||| (1#16 <<< i) else b) 0

def banksOfAll (rs : List (Nat × Nat)) : BitVec 16 := rs.foldl (fun b r => b ||| banksOf r.1 r.2) 0

/-- A granule with its tag voided; none when it then reads as one never written. -/
def voidGran (g : Nat × Gran) : Option (Nat × Gran) :=
  let x : Gran := { g.2 with tag := 0 }
  if x = {} then none else some (g.1, x)

/-- A released range set: banks left without a live region are gated and their tags voided (R151); a place that
is only reserved holds no region. -/
def gateBanks (a : SetState) (released : List (Nat × Nat)) : SetState :=
  let gone := banksOfAll released &&& ~~~(banksOfAll (saveRange :: a.liveRanges))
  { a with
    gated := a.gated ||| gone
    pad := if gone = 0 then a.pad
           else a.pad.filterMap (fun g =>
             if gone.getLsbD (g.1 / 4096) then voidGran g else some g) }

/-- The free indices of the context table, in order. -/
def freeIxs (a : SetState) : List Nat := (List.range 64).filter (fun i => decide ((a.ctx i).state = .free))

/-- The lowest free index of the context table (R89), beyond those reserved for placed tasks (R15). -/
def freeIx (a : SetState) : Option Nat := if a.owed < (freeIxs a).length then (freeIxs a).head? else none

/-- The lowest message frame that no context occupies (R89); that a creation takes the lowest one is the model's choice (log entry 28). -/
def freeFrame (a : SetState) : Option (Nat × BitVec 20) :=
  a.frames.find? (fun f => a.ctxs.all (fun p => decide (p.2.frame ≠ some f.1 ∨ p.2.state = .free)))

/-- A new context in table entry `ix`: the incarnation rises, other fields as `x` gives them (R88, R92). -/
def placeCtx (a : SetState) (ix : Nat) (x : Ctx) : SetState :=
  a.setCtx ix { x with inc := (a.ctx ix).inc + 1 }

/-- Binding `b` of a context removed: its packets are dropped and counted in CHAN_DROP (R96). -/
def dropBinding (k : Core) (ix b : Nat) : Core :=
  let a := k.act
  let x := a.ctx ix
  match x.binding b with
  | none => k
  | some _ =>
    let k := k.count 1 (chQueue a ix b).length
    { k with act := { a.setCtx ix (x.setBinding b none) with chq := tset [] a.chq (8 * ix + b) [] } }

/-- All bindings of a context removed. -/
def dropBindings (k : Core) (ix : Nat) : Core := (List.range 8).foldl (fun k b => dropBinding k ix b) k

/-- The context of index `ix` is freed: bindings removed, regions released (all, or all but scratch when retained), index
back on the free list (R102, R104). -/
def freeCtx (k : Core) (ix : Nat) (keepScratch : Bool) : Core :=
  let k := dropBindings k ix
  let a := k.act
  let x := a.ctx ix
  let rel := if keepScratch then [x.area] else x.ranges
  let a := runqDrop (a.setCtx ix { ({} : Ctx) with inc := x.inc, wp := x.wp }) ix
  { k with act := gateBanks a rel }

/-! ## Taking a fault (R128, R432) -/

/-- A fault not delivered as an upcall: FMASK, and FIRST and FCODE when FMASK was zero (R128). -/
def flockFault (a : SetState) (sl code : Nat) : SetState :=
  { a with
    first := if a.fmask = 0 then BitVec.ofNat 5 sl else a.first
    ffcode := if a.fmask = 0 then BitVec.ofNat 8 code else a.ffcode
    fmask := a.fmask ||| (1#32 <<< sl) }

/-- A context that consumed uncorrected data is frozen with its fault record kept, and reported with REASON 6 (R465, R441); an error of its
own core's memories counts at its physical core. -/
def freezeConsumer (s : State) (e : Env) (fa : Nat) (counted : Bool) : State :=
  let k := s.core e.d e.c
  let x := k.act.ctx e.ix
  let a := k.act.setCtx e.ix { x with prior := x.state, state := .frozen, frozenErr := true }
  let s := s.setCore e.d e.c { k with act := a, frz := true }
  let s := if counted then s else s.detect e.d (tget e.c (s.die e.d).phys e.c)
  freezeReport s e.d 0 6 (ctxHandle e.d e.c e.ix x.inc) x.dom.toNat 0xFFF fa false

/-- The fault of the context on slot `sl`: fault record, PARKED, and delivery by R128 and R131; FROZEN as well after UNCORRECTED
(R465). -/
def takeFault (s : State) (e : Env) (f : FaultInfo) : State :=
  let a := s.act e.d e.c
  let x := a.ctx e.ix
  let fa := f.faddr.getD x.ip.toNat
  let a := a.setCtx e.ix { x with
    state := .parked, fcode := BitVec.ofNat 8 f.code, faux := BitVec.ofNat 7 f.aux, faddr := BitVec.ofNat 57 fa,
    inBlock := decide (e.mode = .block), wait := none, satisfied := false, gangFault := none }
  let a := a.setSlot e.sl { a.slot e.sl with mode := .parked, from_ := e.mode, stalled := false, beat := none }
  let a :=
    if (f.code = pageFault ∨ f.code = streamFault) ∧ a.upEn = true ∧ a.upq.length < 48 then
      { a with upq := a.upq ++ [{
          kind := if f.code = pageFault then 1 else 2
          slot := BitVec.ofNat 8 e.sl
          acc := BitVec.ofNat 8 f.acc
          handle := BitVec.ofNat 32 (ctxHandle e.d e.c e.ix x.inc)
          faddr := BitVec.ofNat 64 fa
          token := BitVec.ofNat 64 f.tok }] }
    else flockFault a e.sl f.code
  let s := s.setAct e.d e.c a
  let s := s.setCore e.d e.c ((s.core e.d e.c).setPend e.sl {})
  if f.code = uncorrectedFault then freezeConsumer s e fa f.counted else s

/-! ## Leaving a slot, and waiting -/

/-- The slot becomes empty. -/
def emptySlot (a : SetState) (sl : Nat) : SetState := a.setSlot sl {}

/-- A wait of R101: a stray leaves its slot BLOCKED; a slot in block mode keeps its context and issues nothing. -/
def takeWait (s : State) (e : Env) (w : Wait) : State :=
  let a := s.act e.d e.c
  let x := a.ctx e.ix
  let x := { x with wait := some w, satisfied := false }
  if e.mode = .stray then
    let x := { x with
      state := .blocked, why := BitVec.ofNat 3 w.why, herd := false, inBlock := false,
      wk := match w with | .counter k _ _ => BitVec.ofNat 8 k | _ => x.wk,
      wt := match w with | .counter _ t _ => BitVec.ofNat 16 t | _ => x.wt }
    s.setAct e.d e.c (emptySlot (a.setCtx e.ix x) e.sl)
  else
    s.setAct e.d e.c ((a.setCtx e.ix x).setSlot e.sl { a.slot e.sl with stalled := true })

/-! ## Running one Makel instruction -/

/-- NH of a line (R45). -/
def lineNH (l : Line) : Nat := fld l 15 11
def lineBLK (l : Line) : Bool := bit l 10
def lineEND (l : Line) : Bool := bit l 9

/-- The line a slot executes, as a number; 0 when it holds none. -/
def Slot.lineBits (x : Slot) : Line := match x.line with | some (_, l) => l | none => 0

/-- IP of the following head, and whether it is in the same line (R107). -/
def nextIp (l : Line) (ip : W64) : W64 × Bool :=
  if fld ip 5 0 < lineNH l then (ip + 1, true)
  else (BitVec.ofNat 64 ((ip.toNat / 64 * 64 + 64) % 2 ^ 57 + 1), false)

/-- The context goes on to the next instruction; a slot past its last head ends its block, stops at an END line, or falls
through (R50, R98). -/
def advance (s : State) (e : Env) : State :=
  let a := s.act e.d e.c
  let sl := a.slot e.sl
  let l := sl.lineBits
  let (ip, same) := nextIp l e.ip
  let x := a.ctx e.ix
  let stop := !same && (decide (e.mode = .block) || lineEND l)
  let a := a.setCtx e.ix { x with ip := ip, fell := !same && !stop }
  let a := a.setSlot e.sl { sl with mode := if stop then .herded else e.mode, stalled := false, beat := none }
  s.setAct e.d e.c a

/-- What an instruction names: is it legal (R71 rank 3), the direct registers it uses as (first, count) (rank 4, R61), and
the source registers whose channel it pops (R96). -/
structure Use where
  legal : Bool
  regs : List (Nat × Nat) := []
  srcs : List Nat := []
  /-- source registers that depend on the state (a computed index, registers that a predicate enables) -/
  dyn : SetState → Nat → List Nat := fun _ _ => []
  /-- granules consumed beside the source registers: predicates read, and registers written in part (R464, R465) -/
  look : SetState → Ctx → List Nat := fun _ _ => []

/-- The bound source registers of an instruction, each once. -/
def boundSrcs (x : Ctx) (srcs : List Nat) : List Nat := (srcs.filter x.bound).eraseDups

/-- Pops one packet of each bound source register. -/
def popSrcs (a : SetState) (ix : Nat) : List Nat → SetState
  | [] => a
  | i :: t => popSrcs { a with chq := tset [] a.chq (8 * ix + (i - 120)) ((chQueue a ix (i - 120)).tail) } ix t

/-- The checks before an instruction's own effect: legality, register bounds, empty channels. -/
def ctxChecks (s : State) (e : Env) (u : Use) : Res (List Nat) :=
  let a := s.act e.d e.c
  let x := a.ctx e.ix
  if !u.legal then raise illegalOp
  else if u.regs.any (fun r => decide (0 < r.2 ∧ x.wsz.toNat < r.1 + r.2)) then raise wsbound
  else if let some g := (u.look a x).findSome? (fun g => padBad a.pad x.wgen (16 * g) 1) then raiseAt uncorrectedFault g
  else
    let b := boundSrcs x (u.srcs ++ u.dyn a e.ix)
    if b.any (fun i => (chQueue a e.ix (i - 120)).isEmpty) then .error (.wait (.chan b) s) else .ok b

/-- What the step makes of an instruction's end. -/
def finish (s : State) (e : Env) : Res State → Host.Outcome State Fault Refusal
  | .ok s' => .next s'
  | .error (.fault f) => .next (takeFault s e f)
  | .error (.faultIn f s') => .next (takeFault s' e f)
  | .error (.stall s') => .next (s'.setSlotOf e { s'.slotOf e with stalled := true })
  | .error (.wait w s') => .next (takeWait s' e w)
  | .error (.refuse r) => .refused r

/-- A completed instruction leaves no wait behind. -/
def endWait (s : State) (e : Env) : State :=
  let a := s.act e.d e.c
  s.setAct e.d e.c (a.setCtx e.ix { a.ctx e.ix with wait := none, satisfied := false })

/-- Runs one instruction of the context whose turn it is, whose body moves IP itself: the checks, the effect, and the pop of
its bound source registers. Without an executing context the turn passes unused (R91). -/
def ctxRunRaw (u : Use) (body : Env → State → Res State) (s : State) : Host.Outcome State Fault Refusal :=
  match s.env? with
  | none => .next s
  | some e =>
    finish s e (do
      let b ← ctxChecks s e u
      let s' ← body e s
      let s' := endWait s' e
      pure (if b.isEmpty then s' else s'.setAct e.d e.c (popSrcs (s'.act e.d e.c) e.ix b)))

/-- Runs one instruction that goes on to the next when it completes. -/
def ctxRun (u : Use) (body : Env → State → Res State) (s : State) : Host.Outcome State Fault Refusal :=
  ctxRunRaw u (fun e s => do
    let s' ← body e s
    pure (advance s' e)) s

/-! ## Several beats (R91, R178) -/

/-- The rotary table as the context's instruction reads it (R203). -/
def rotarySeen (a : SetState) (x : Ctx) : Sparse (BitVec 32) :=
  match (a.slot x.slot.toNat).beat with
  | some b => b.rotary
  | none => a.rotary

/-- Tree `n` as the context's instruction reads it: at its first turn (R369). -/
def treeSeen (a : SetState) (x : Ctx) (n : Nat) : Tree :=
  match (a.slot x.slot.toNat).beat with
  | some b => tget {} b.trees n
  | none => tget {} a.trees n

/-- Granules that an instruction's registers and its context's predicates lie in. -/
def beatGrans (u : Use) (a : SetState) (ix : Nat) : List Nat :=
  let x := a.ctx ix
  (u.regs.flatMap (fun r => (List.range r.2).map (fun i => x.gran (r.1 + i)))) ++ (u.dyn a ix).map x.gran ++
  (List.range 4).map (fun i => (x.wp.toNat - 128) / 16 + i)

/-- What an instruction of `n` beats reads at its first turn. -/
def firstBeat (n : Nat) (u : Use) (a : SetState) (ix : Nat) : Beat :=
  let x := a.ctx ix
  { left := n
    regs := (beatGrans u a ix).map (fun g => (g, if granLive a.pad g x.wgen then some (tget {} a.pad g).data else none))
    rotary := a.rotary
    trees := a.trees }

/-- The beat that a slot's instruction of `n` beats has reached: what it holds, or what it reads now. -/
def beatOf (n : Nat) (u : Use) (s : State) (e : Env) : Beat :=
  ((s.slotOf e).beat).getD (firstBeat n u (s.act e.d e.c) e.ix)

/-- The slot holds a beat. -/
def keepBeat (s : State) (e : Env) (b : Beat) : State := s.setSlotOf e { s.slotOf e with beat := some b, stalled := false }

/-- An instruction of `n` beats: sources read at its first turn, results written when its last beat completes; until then it has no
visible effect. A turn that stalls keeps what the first one read. -/
def beatRun (n : Nat) (u : Use) (body : Env → State → Res State) (s : State) : Host.Outcome State Fault Refusal :=
  match s.env? with
  | none => .next s
  | some e =>
    let b := beatOf n u s e
    if 1 < b.left ∧ b.left < n then .next (keepBeat s e { b with left := b.left - 1 })
    else
      match (do let c ← ctxChecks s e u; let r ← body e s; pure (c, r) : Res (List Nat × State)) with
      | .ok (c, r) =>
        if n ≤ 1 ∨ b.left ≤ 1 then
          let r := endWait (advance r e) e
          .next (if c.isEmpty then r else r.setAct e.d e.c (popSrcs (r.act e.d e.c) e.ix c))
        else .next (keepBeat s e { b with left := b.left - 1 })
      | .error (.stall r) => finish s e (.error (.stall (keepBeat r e b)))
      | .error x => finish s e (.error x)

/-- An instruction of `n` beats, which for one beat is an ordinary one. -/
def multiRun (n : Nat) (u : Use) (body : Env → State → Res State) (s : State) : Host.Outcome State Fault Refusal :=
  if n ≤ 1 then ctxRun u body s else beatRun n u body s

/-- One that acts on its core's active set alone. -/
def multiSet (n : Nat) (u : Use) (body : Env → SetState → Res SetState) (s : State) : Host.Outcome State Fault Refusal :=
  multiRun n u (fun e s => do
    let a ← body e (s.act e.d e.c)
    pure (s.setAct e.d e.c a)) s

/-- An instruction that acts on its core's active set alone. -/
def setRun (u : Use) (body : Env → SetState → Res SetState) (s : State) : Host.Outcome State Fault Refusal :=
  ctxRun u (fun e s => do
    let a ← body e (s.act e.d e.c)
    pure (s.setAct e.d e.c a)) s

/-- Goto(t) of R107: a herded or in-block slot becomes a stray. -/
def goto (a : SetState) (e : Env) (t : W64) : SetState :=
  let x := a.ctx e.ix
  let a := a.setCtx e.ix { x with ip := t, fell := false }
  a.setSlot e.sl { a.slot e.sl with mode := .stray, line := none }

end Sys2Proof.Machine
end

