-- ==== Sys2Proof/Machine/Create.lean ====
section
/-! DEFINITION. Creating contexts: places that are free (R89, R136, R153), banks to wake (R151), and the fields every kind of
creation sets (R92). -/

namespace Sys2Proof.Machine

/-- The 4 KiB steps a set has lost, as byte ranges (R153). -/
def holesOf (k : Core) (setB : Bool) : List (Nat × Nat) :=
  (List.range 16).map (fun b =>
    let n := tget 0 k.lost (if setB then 16 + b else b)
    (b * 65536 + 65536 - 4096 * n, 4096 * n))

/-- Is [a, a+n-1] in the scratch of the active set, free of every live area, frame, region and hole? -/
def placeFree (k : Core) (a n : Nat) : Bool :=
  decide (a + n ≤ k.act.scratch) && (k.act.taken ++ holesOf k k.setB).all (fun r => !meets a n r.1 r.2)

/-- The area of a context by its WP and WSZ, when there is one (R86). -/
def areaOf (wp wsz : Nat) : Option (Nat × Nat) := if wp < 128 then none else some (wp - 128, 128 + 16 * wsz)

/-- Gated banks that a set of ranges needs: the core waits for them, or none does (R151). -/
def wakeFor (k : Core) (rs : List (Nat × Nat)) : Option Core :=
  let need := banksOfAll rs &&& k.act.gated
  if need = 0 then none else some { k with wake := k.wake ||| need }

/-- What a creation of `rs` still waits for: gated banks, then Alloc (R92, R147). -/
def createWait (k : Core) (rs : List (Nat × Nat)) (who : Nat := 64) : Option Core :=
  match wakeFor k rs with
  | some k => some k
  | none => if allocStalls k then some (k.allocWait who) else none

/-- The fields that every kind of creation sets (R92). -/
def blankCtx : Ctx := { stream := 0xFFFFFFFF }

/-- A context created at index `ix` under a fresh generation, with registers written; READY ones join the run queue. -/
def createAt (k : Core) (ix : Nat) (x : Ctx) (regs : List (Nat × W128)) : Core :=
  let a := placeCtx k.act ix { x with wgen := k.next }
  let a := regs.foldl (fun a r => regWrite a ix r.1 r.2.toNat allBytes) a
  let a := if x.state = .ready then runqTail a ix else a
  ({ k with act := a }).allocDone

/-- A task in message frame `f` at `wp` (R89). -/
def frameTask (f : Nat) (wp : BitVec 20) (ip : W64) (prio : BitVec 3) (dom : BitVec 12) : Ctx :=
  { blankCtx with wp := wp, wsz := 32, ip := ip, prio := prio, eprio := prio, dom := dom, state := .ready, frame := some f }

/-- Places for a moved context (R429): line-aligned WPs whose area is free. -/
def movePlaces (k : Core) (wsz : Nat) : List Nat :=
  ((List.range 16384).map (fun i => 64 * i)).filter (fun wp =>
    match areaOf wp wsz with
    | some (a, n) => placeFree k a n
    | none => false)

/-- The place the target of a move reserves: one of those that fit, the manual does not say which (log entry 4). -/
def movePlace (k : Core) (wsz tick : Nat) : Option Nat :=
  let l := movePlaces k wsz
  if l.isEmpty then none else l[Config.freePick (tick * 65536) % l.length]?

end Sys2Proof.Machine
end

