-- ==== Sys2Proof/Machine/Control.lean ====
section
/-! DEFINITION. Control flow, predicates, special registers, links, channels and messages: chapter 04 (R102 to R117). -/

namespace Sys2Proof.Machine

/-! ## Helpers of the form V rows -/

/-- The tail fields of a form V instruction that its row does not name are zero (R60): flags say which of B, C, TY, SH and
P/PN it uses; F must lie under the mask `fm`. -/
def vOnly (t : TailV) (b c ty sh p : Bool) (fm : Nat) : Bool :=
  (b || t.b = 0) && (c || t.c = 0) && (ty || t.ty = 0) && (sh || t.sh = 0) && (p || (t.p = 0 && !t.pn)) &&
  decide (t.f.toNat &&& (127 - fm) = 0)

/-- cond of form B and JMPX (R107): bit 0 of the predicate, inverted when PN is 1. -/
def cond (a : SetState) (x : Ctx) (p : BitVec 3) (pn : Bool) : Bool := enabled a x p pn 0

/-- Target of a form B instruction (R57). -/
def targetB (ip : W64) (t : TailB) : W64 :=
  BitVec.ofNat 64 (wrap 51 ((fld ip 56 6 : Int) + sext 22 t.loff.toNat) * 64 + t.slot.toNat)

/-- The instruction completes and goes on, on its core's active set. -/
def goOn (s : State) (e : Env) (a : SetState) : State := advance (s.setAct e.d e.c a) e

/-- The instruction completes and goes to `t`. -/
def goTo (s : State) (e : Env) (a : SetState) (t : W64) : State := s.setAct e.d e.c (goto a e t)

/-- NextIP of the executing instruction (R107). -/
def nextOf (s : State) (e : Env) : W64 := (nextIp (s.slotOf e).lineBits e.ip).1

/-! ## NOP, branches, STOP, TRAP (R105 to R109) -/

def useNop (d : BitVec 7) : Use := { legal := d = 0 }

/-- NOP (R105). -/
def execNop (d : BitVec 7) (s : State) : Host.Outcome State Fault Refusal := ctxRun (useNop d) (fun _ s => .ok s) s

def useBra (d : BitVec 7) (t : TailB) : Use := { legal := d = 0, look := fun _ x => predGran x t.p.toNat }

/-- BRA (R107). -/
def execBra (d : BitVec 7) (t : TailB) (s : State) : Host.Outcome State Fault Refusal :=
  ctxRunRaw (useBra d t) (fun e s =>
    let a := s.act e.d e.c
    .ok (if cond a (s.ctx e) t.p t.pn then goTo s e a (targetB e.ip t) else goOn s e a)) s

def useCall (d : BitVec 7) (t : TailB) : Use :=
  { legal := true, regs := [(d.toNat, 1)], look := fun _ x => predGran x t.p.toNat }

/-- CALL (R107). -/
def execCall (d : BitVec 7) (t : TailB) (s : State) : Host.Outcome State Fault Refusal :=
  ctxRunRaw (useCall d t) (fun e s =>
    let a := s.act e.d e.c
    .ok (if cond a (s.ctx e) t.p t.pn then
           goTo s e (regWrite a e.ix d.toNat (nextOf s e).toNat allBytes) (targetB e.ip t)
         else goOn s e a)) s

def useJmpx (d : BitVec 7) (t : TailV) : Use :=
  { legal := vOnly t true false false false true 1 && (t.f = 1 || d = 0)
    regs := [(t.b.toNat, 1)] ++ (if t.f = 1 then [(d.toNat, 1)] else [])
    dyn := fun a ix => if cond a (a.ctx ix) t.p t.pn then [t.b.toNat] else []
    look := fun _ x => predGran x t.p.toNat }

/-- JMPX and its alias RET (R107): the target is read before any link is written. -/
def execJmpx (d : BitVec 7) (t : TailV) (s : State) : Host.Outcome State Fault Refusal :=
  ctxRunRaw (useJmpx d t) (fun e s =>
    let a := s.act e.d e.c
    if cond a (s.ctx e) t.p t.pn then do
      let v ← regRead a e.ix t.b.toNat
      let a := if t.f = 1 then regWrite a e.ix d.toNat (nextOf s e).toNat allBytes else a
      pure (goTo s e a (v.setWidth 64))
    else .ok (goOn s e a)) s

def useLoop (d : BitVec 7) (t : TailB) : Use :=
  { legal := true, regs := [(d.toNat, 1)]
    dyn := fun a ix => if cond a (a.ctx ix) t.p t.pn then [d.toNat] else []
    look := fun _ x => predGran x t.p.toNat }

/-- LOOP (R107): a count of 0 falls through and writes nothing. -/
def execLoop (d : BitVec 7) (t : TailB) (s : State) : Host.Outcome State Fault Refusal :=
  ctxRunRaw (useLoop d t) (fun e s =>
    let a := s.act e.d e.c
    if cond a (s.ctx e) t.p t.pn then do
      let v ← regRead a e.ix d.toNat
      let c := fld v 63 0
      if c = 0 then pure (goOn s e a)
      else
        let a := regWrite a e.ix d.toNat (c - 1) allBytes
        pure (if c - 1 = 0 then goOn s e a else goTo s e a (targetB e.ip t))
    else .ok (goOn s e a)) s

def useFetch (d : BitVec 7) (t : TailV) : Use :=
  { legal := d = 0 && vOnly t true false false false true 7, regs := [(t.b.toNat, 1)]
    dyn := fun a ix => if cond a (a.ctx ix) t.p t.pn then [t.b.toNat] else []
    look := fun _ x => predGran x t.p.toNat }

/-- FETCH (R107): the prefetch of following lines has no visible effect. -/
def execFetch (d : BitVec 7) (t : TailV) (s : State) : Host.Outcome State Fault Refusal :=
  ctxRunRaw (useFetch d t) (fun e s =>
    let a := s.act e.d e.c
    if cond a (s.ctx e) t.p t.pn then do
      let v ← regRead a e.ix t.b.toNat
      pure (goTo s e a (v.setWidth 64))
    else .ok (goOn s e a)) s

def useStop (d : BitVec 7) : Use := { legal := d = 0 }

/-- STOP (R108): the slot becomes herded, with IP at NextIP. -/
def execStop (d : BitVec 7) (s : State) : Host.Outcome State Fault Refusal :=
  ctxRunRaw (useStop d) (fun e s =>
    let s := advance s e
    let a := s.act e.d e.c
    let x := a.ctx e.ix
    let a := a.setCtx e.ix { x with fell := false }
    .ok (s.setAct e.d e.c (a.setSlot e.sl { a.slot e.sl with mode := .herded, line := none }))) s

def useTrap : Use := { legal := true }

/-- TRAP n (R109): BREAK for 127, else SWTRAP, with FAUX n and FADDR the IP. -/
def execTrap (d : BitVec 7) (s : State) : Host.Outcome State Fault Refusal :=
  ctxRun useTrap (fun _ _ =>
    .error (.fault { code := if d = 127 then breakFault else swtrap, aux := d.toNat })) s

/-! ## HALT and YIELD (R102 to R104, R110) -/

/-- Does every earlier command of the context's own in the post queue have completed? -/
def drained (a : SetState) (ix : Nat) : Bool := waitHolds a ix .drain

/-- All cores of the module that have state, as (die, core). -/
def State.coreList (s : State) : List (Nat × Nat) :=
  s.dies.flatMap (fun p => p.2.cores.map (fun q => (p.1, q.1)))

/-- The unit of a scope that a task was created in (R223): its launch coordinates (R112) from the core ordinal up for scope core,
from the quad ordinal up for quad, and so on. -/
def unitOf (scope : Nat) (lco : BitVec 128) : Nat := lco.toNat >>> (16 * scope)

/-- Is a context a live task of launch `l` created in unit `u`? -/
def taskOf (l scope u : Nat) (x : Ctx) : Bool :=
  decide (x.launch = some l ∧ x.state ≠ .free ∧ unitOf scope x.lco = u)

/-- The contexts of every set of the module, copied-out ones and those on their way included. -/
def State.allCtxs (s : State) : List Ctx :=
  s.dies.flatMap (fun p =>
    p.2.cores.flatMap (fun q => q.2.act.ctxs.map (·.2) ++ q.2.shd.ctxs.map (·.2)) ++
    p.2.saved.flatMap (fun q => q.2.set.ctxs.map (·.2))) ++
  s.net.filterMap (fun p => match p.body with
    | .context x _ _ _ => some x
    | _ => none)

/-- Every set of the module changed. -/
def State.mapSets (s : State) (f : SetState → SetState) : State :=
  { s with dies := s.dies.map (fun p => (p.1, { p.2 with
      cores := p.2.cores.map (fun q => (q.1, { q.2 with act := f q.2.act, shd := f q.2.shd }))
      saved := p.2.saved.map (fun q => (q.1, { q.2 with set := f q.2.set })) })) }

/-- Phase number `n` of a scope has been joined by a context. -/
def joined (x : Ctx) (scope n : Nat) : Bool := decide (n ≤ tget 0 x.phases scope)

/-- Are there tasks of launch `l` in unit `u` of this package that are not created yet? -/
def unstarted (s : State) (l scope u : Nat) : Bool :=
  let x := tget {} s.launches l
  x.shares.any (fun h =>
    if h.placed then h.todo.any (fun t => decide (unitOf scope t.lco = u))
    else
      let lco : Nat := h.ord * 2 ^ 48 + (s.pkg.toNat + 4096 - x.pkgb) % 4096 * 2 ^ 64
      decide (3 ≤ scope ∧ lco >>> (16 * scope) = u))

/-- Tasks of launch `l` in unit `u` that are not created yet, or that another package holds, count as not arrived. -/
def uncreated (s : State) (l scope u : Nat) : Bool :=
  ((tget {} s.launches l).away && decide (scope = 5)) || unstarted s l scope u

/-- Has every participant of unit `u` arrived at phase `n`? -/
def phaseFull (s : State) (l scope u n : Nat) : Bool :=
  !uncreated s l scope u && s.allCtxs.all (fun x => !taskOf l scope u x || joined x scope n)

/-- The contexts of a set that wait for phase `n` of a unit go on. -/
def wakeUnit (l scope u n : Nat) (a : SetState) : SetState :=
  a.ctxs.foldl (fun b p => if taskOf l scope u p.2 && decide (p.2.wait = some (.bar scope n)) then wakeBar b p.1 else b) a

/-- When every live participant has joined phase `n`, the contexts waiting for it go on (R224). -/
def completePhase (s : State) (l scope u n : Nat) : State :=
  if phaseFull s l scope u n then s.mapSets (wakeUnit l scope u n) else s

/-- After task `x` of a launch has retired, phases that only missed it complete (R223). -/
def barAfterHalt (s : State) (x : Ctx) : State :=
  match x.launch with
  | none => s
  | some l =>
    [1, 2, 3, 4, 5].foldl (fun s scope =>
      let u := unitOf scope x.lco
      (s.allCtxs.filterMap (fun y => match y.wait with
        | some (.bar sc n) => if sc = scope && taskOf l scope u y then some n else none
        | _ => none)).foldl (fun s n => completePhase s l scope u n) s) s

/-- Has a die a live task of a partition's launches: a context of one, or one that a share placed there still has to create? -/
def taskLeft (s : State) (d p : Nat) : Bool :=
  let ours := fun (l : Option Nat) => l.any (fun n => (tfind s.launches n).any (fun m => decide (m.part = p)))
  let v := s.die d
  v.cores.any (fun q => q.2.act.ctxs.any (fun c => decide (c.2.state ≠ .free) && ours c.2.launch) ||
    q.2.shd.ctxs.any (fun c => decide (c.2.state ≠ .free) && ours c.2.launch)) ||
  v.saved.any (fun q => q.2.set.ctxs.any (fun c => decide (c.2.state ≠ .free) && ours c.2.launch)) ||
  s.net.any (fun q => decide (q.die = d) && (match q.body with
    | .context x _ _ _ => ours x.launch
    | _ => false)) ||
  s.launches.any (fun l => decide (l.2.part = p) && l.2.shares.any (fun h => decide (h.die = d) && h.placed && !h.todo.isEmpty))

/-- The last live task of a partition's launches on a die has retired: in the controller's cycle in which the slice expires, that slice
raises no PREQ (R427). -/
def quietSlice (s : State) (d : Nat) (x : Ctx) : State :=
  match x.launch.bind (fun l => tfind s.launches l) with
  | none => s
  | some l =>
    let v := s.die d
    match tfind v.slices l.part with
    | some y =>
      if y.zeroAt = some v.dcyc ∧ !taskLeft s d l.part then
        s.setDie d { v with slices := tins v.slices l.part { y with quiet := true } }
      else s
    | none => s

/-- Task `x` of a launch has retired on a die (R102, R223, R427). -/
def taskGone (s : State) (d : Nat) (x : Ctx) : State := quietSlice (barAfterHalt s x) d x

/-- The context of a slot retires (R102): freed, and the slot left empty. -/
def retire (s : State) (d c sl ix : Nat) (keepScratch : Bool) : State :=
  let k := s.core d c
  let x := k.act.ctx ix
  let k := freeCtx k ix keepScratch
  let s := s.setCore d c { k with act := emptySlot k.act sl }
  taskGone s d x

/-- The successor check of R103. -/
def successorOk (a : SetState) (e : Env) (x y : Ctx) : Bool :=
  decide (y.state = .held ∧ y.dom = x.dom ∧ y.r1.size = 0 ∧ y.r2.size = 0 ∧ y.r3.size = 0) && decide (a.ctx e.ix = x)

/-- The sequence number of the newest store-buffer entry of a context, 0 when it has none; an update that already waits
counts as well (R257: applied in program order). -/
def lastStore (k : Core) (ix : Nat) (inc : BitVec 10) : Nat :=
  let a := k.sb.foldl (fun m e => if !e.hart && e.ix = ix && e.inc = inc then Nat.max m e.seq else m) 0
  k.updates.foldl (fun m u => if u.ix = ix && u.inc = inc then Nat.max m u.after else m) a

def useHalt (d : BitVec 7) : Use :=
  { legal := true, regs := if d = 0 then [] else [(d.toNat, 1)], srcs := if d = 0 then [] else [d.toNat] }

/-- The packet that a bound source register gave is popped before its binding goes: it was read, not dropped (R96). -/
def popRead (k : Core) (ix r : Nat) : Core := { k with act := popSrcs k.act ix (boundSrcs (k.act.ctx ix) [r]) }

/-- HALT (R102 to R104): drains, checks a successor, hands it the scratch regions, and retires the context. With a successor it is a
release (R257): it stalls until the context's stores have performed (log entry 28). -/
def execHalt (d : BitVec 7) (s : State) : Host.Outcome State Fault Refusal :=
  ctxRunRaw (useHalt d) (fun e s =>
    let a := s.act e.d e.c
    let x := a.ctx e.ix
    if !drained a e.ix then .error (.wait .drain s)
    else if d = 0 then .ok (retire s e.d e.c e.sl e.ix false)
    else if lastStore (s.core e.d e.c) e.ix x.inc ≠ 0 then .error (.stall s)
    else do
      let v ← regRead a e.ix d.toNat
      let h := fld v 31 0
      match handleIx a e.d e.c h with
      | none => raiseAt linkFault h
      | some j =>
        let y := a.ctx j
        if successorOk a e x y then
          let s := s.setAct e.d e.c (a.setCtx j { y with r1 := x.r1, r2 := x.r2, r3 := x.r3 })
          let s := s.setCore e.d e.c (popRead (s.core e.d e.c) e.ix d.toNat)
          let s := retire s e.d e.c e.sl e.ix true
          pure (s.setAct e.d e.c (makeReady (s.act e.d e.c) j))
        else raiseAt linkFault h) s

def useYield (d : BitVec 7) : Use := { legal := d = 0 }

/-- Does the run queue hold a READY context with EPRIO no higher in number than `p`? -/
def betterWaits (a : SetState) (p : BitVec 3) : Bool := a.runq.any (fun j => decide ((a.ctx j).eprio.toNat ≤ p.toNat))

/-- YIELD (R110). One that leaves its slot as the last head of an END line leaves it herded: HERD 1 (log entry 28). -/
def execYield (d : BitVec 7) (s : State) : Host.Outcome State Fault Refusal :=
  ctxRunRaw (useYield d) (fun e s =>
    let better := betterWaits (s.act e.d e.c) (s.ctx e).prio
    let s := advance s e
    if e.mode = .stray ∧ better then
      let a := s.act e.d e.c
      let x := a.ctx e.ix
      let a := a.setCtx e.ix { x with eprio := x.prio, herd := decide ((a.slot e.sl).mode = .herded), inBlock := false }
      .ok (s.setAct e.d e.c (emptySlot (makeReady a e.ix) e.sl))
    else .ok s) s

/-! ## Predicates and special registers (R111, R112) -/

/-- The logic operations of PLOG on 64-bit values. -/
def plogOp (op : Nat) (b c : BitVec 64) : BitVec 64 :=
  match op with
  | 0 => b &&& c
  | 1 => b ||| c
  | 2 => b ^^^ c
  | 3 => b &&& ~~~c
  | 4 => b ||| ~~~c
  | 5 => ~~~(b &&& c)
  | 6 => ~~~(b ||| c)
  | _ => ~~~(b ^^^ c)

def usePlog (d : BitVec 7) (t : TailV) : Use :=
  { legal := vOnly t true true false false false 7 && d.toNat < 8 && t.b.toNat < 8 && t.c.toNat < 8
    look := fun _ x => predGran x t.b.toNat ++ predGran x t.c.toNat ++ predGran x d.toNat }

/-- PLOG (R111). -/
def execPlog (d : BitVec 7) (t : TailV) (s : State) : Host.Outcome State Fault Refusal :=
  setRun (usePlog d t) (fun e a =>
    let x := a.ctx e.ix
    let b := BitVec.ofNat 64 (predRead a x t.b.toNat)
    let c := BitVec.ofNat 64 (predRead a x t.c.toNat)
    .ok (predWrite a e.ix d.toNat (plogOp (t.f.toNat % 8) b c).toNat)) s

def usePmov (d : BitVec 7) (t : TailV) : Use :=
  { legal := vOnly t true false false false false 1 && (if t.f = 0 then t.b.toNat < 8 else d.toNat < 8)
    regs := if t.f = 0 then [(d.toNat, 1)] else [(t.b.toNat, 1)]
    srcs := if t.f = 0 ∨ d = 0 then [] else [t.b.toNat]
    look := fun _ x => if t.f = 0 then predGran x t.b.toNat else predGran x d.toNat }

/-- PMOV (R111); to p0 it reads nothing. -/
def execPmov (d : BitVec 7) (t : TailV) (s : State) : Host.Outcome State Fault Refusal :=
  setRun (usePmov d t) (fun e a =>
    if t.f = 0 then .ok (regWrite a e.ix d.toNat (predRead a (a.ctx e.ix) t.b.toNat) allBytes)
    else if d = 0 then .ok a
    else do
      let v ← regRead a e.ix t.b.toNat
      pure (predWrite a e.ix d.toNat (fld v 63 0))) s

def useCyc (d : BitVec 7) : Use := { legal := true, regs := [(d.toNat, 1)] }

/-- CYC (R112). -/
def execCyc (d : BitVec 7) (s : State) : Host.Outcome State Fault Refusal :=
  ctxRun (useCyc d) (fun e s =>
    .ok (s.setAct e.d e.c (regWrite (s.act e.d e.c) e.ix d.toNat (s.core e.d e.c).cyc.toNat allBytes))) s

/-- The special registers of SYSR (R112). -/
def sysrValue (s : State) (e : Env) (n : Nat) : Nat :=
  let x := s.ctx e
  match n with
  | 0 => x.wp.toNat
  | 1 => x.wgen.toNat
  | 2 => x.dom.toNat
  | 3 => ctxHandle e.d e.c e.ix x.inc
  | 4 => e.sl
  | 5 => e.c
  | 6 => e.c / 4
  | 7 => e.d
  | 8 => s.pkg.toNat
  | 9 => x.lco.toNat
  | 10 => x.fpc.toNat
  | 11 => x.stream.toNat
  | _ => (s.core e.d e.c).cyc.toNat

def useSysr (d : BitVec 7) (t : TailV) : Use :=
  { legal := vOnly t false false false false false 15 && t.f.toNat ≤ 12, regs := [(d.toNat, 1)] }

/-- SYSR (R112). -/
def execSysr (d : BitVec 7) (t : TailV) (s : State) : Host.Outcome State Fault Refusal :=
  ctxRun (useSysr d t) (fun e s =>
    .ok (s.setAct e.d e.c (regWrite (s.act e.d e.c) e.ix d.toNat (sysrValue s e t.f.toNat) allBytes))) s

/-! ## Links (R113, R114) -/

/-- The context index bound on slot `i`, unless the slot is empty or binding. -/
def linkTarget (a : SetState) (i : Nat) : Option Nat :=
  let sl := a.slot i
  if sl.mode = .empty ∨ sl.mode = .binding then none else some sl.ix

def useLnkr (d : BitVec 7) (t : TailV) : Use :=
  { legal := vOnly t true true false false true 0, regs := [(d.toNat, 1), (t.b.toNat, 1)], srcs := [t.b.toNat]
    look := fun _ x => predGran x t.p.toNat }

/-- LNKR (R113): the target's register under its generation; stale reads zero and never traps. A predicate that disables it stops
the transfer alone, not its LINK and WSBOUND faults (log entry 28). -/
def execLnkr (d : BitVec 7) (t : TailV) (s : State) : Host.Outcome State Fault Refusal :=
  setRun (useLnkr d t) (fun e a => do
    let v ← regRead a e.ix t.b.toNat
    let i := fld v 4 0
    match linkTarget a i with
    | none => raiseAt linkFault i
    | some j =>
      let y := a.ctx j
      if y.wsz.toNat ≤ t.c.toNat then raise wsbound
      else if enabled a (a.ctx e.ix) t.p t.pn 0 then
        match padBad a.pad y.wgen (16 * y.gran t.c.toNat) 1 with
        | some g => raiseAt uncorrectedFault g
        | none => pure (regWrite a e.ix d.toNat (regRaw a y t.c.toNat).toNat allBytes)
      else pure a) s

def useLnkw (d : BitVec 7) (t : TailV) : Use :=
  { legal := vOnly t true true false false true 0, regs := [(d.toNat, 1), (t.b.toNat, 1)], srcs := [d.toNat, t.b.toNat]
    look := fun _ x => predGran x t.p.toNat }

/-- LNKW (R113): the value written under the target's generation; a predicate as in LNKR (log entry 28). -/
def execLnkw (d : BitVec 7) (t : TailV) (s : State) : Host.Outcome State Fault Refusal :=
  setRun (useLnkw d t) (fun e a => do
    let w ← regRead a e.ix d.toNat
    let v ← regRead a e.ix t.b.toNat
    let i := fld w 4 0
    match linkTarget a i with
    | none => raiseAt linkFault i
    | some j =>
      if (a.ctx j).wsz.toNat ≤ t.c.toNat then raise wsbound
      else if enabled a (a.ctx e.ix) t.p t.pn 0 then pure (regWrite a j t.c.toNat v.toNat allBytes)
      else pure a) s

/-! ## Channels (R96, R115, R116) -/

/-- Is a tag bound on the core by another context, or by this context to a binding other than `i`? -/
def tagTaken (a : SetState) (ix i tag : Nat) : Bool :=
  a.ctxs.any (fun p => decide (p.2.state ≠ .free) &&
    (List.range 8).any (fun b => decide (p.2.binding b = some tag ∧ ¬(p.1 = ix ∧ b = i))))

def useChbind (d : BitVec 7) (t : TailV) : Use :=
  { legal := vOnly t true false false false false 7
    regs := [(d.toNat, 1), (t.b.toNat, 1), (120 + t.f.toNat % 8, 1)], srcs := [t.b.toNat] }

/-- CHBIND (R115). -/
def execChbind (d : BitVec 7) (t : TailV) (s : State) : Host.Outcome State Fault Refusal :=
  ctxRun (useChbind d t) (fun e s => do
    let k := s.core e.d e.c
    let v ← regRead k.act e.ix t.b.toNat
    let i := t.f.toNat % 8
    let tag := fld v 11 0
    if tagTaken k.act e.ix i tag then
      pure (s.setAct e.d e.c (regWrite k.act e.ix d.toNat 1 allBytes))
    else
      let k := dropBinding (if t.b.toNat = 120 + i then popRead k e.ix t.b.toNat else k) e.ix i
      let a := k.act.setCtx e.ix ((k.act.ctx e.ix).setBinding i (some tag))
      pure (s.setCore e.d e.c { k with act := regWrite a e.ix d.toNat 0 allBytes })) s

def useChbindOff (d : BitVec 7) (t : TailV) : Use :=
  { legal := vOnly t false false false false false 15 && t.f.getLsbD 3
    regs := [(d.toNat, 1), (120 + t.f.toNat % 8, 1)] }

/-- CHBIND.off (R115). -/
def execChbindOff (d : BitVec 7) (t : TailV) (s : State) : Host.Outcome State Fault Refusal :=
  ctxRun (useChbindOff d t) (fun e s =>
    let k := dropBinding (s.core e.d e.c) e.ix (t.f.toNat % 8)
    .ok (s.setCore e.d e.c { k with act := regWrite k.act e.ix d.toNat 0 allBytes })) s

/-- A packet enters the fabric at its sender's die. -/
def sendPacket (s : State) (p : Packet) : State :=
  { s with net := s.net ++ [{ p with id := s.nextPkt, loc := p.src.die }], nextPkt := s.nextPkt + 1, kept := s.kept ++ [s.nextPkt] }

/-- The sequence number of the newest store of the hart. -/
def lastHartStore (k : Core) : Nat := k.sb.foldl (fun m e => if e.hart then Nat.max m e.seq else m) 0

/-- The core that a SEND or SPAWN of core (d, c) sends to: package, die, core. -/
def CmdOp.target? (pkg d c : Nat) : CmdOp → Option (Nat × Nat × Nat)
  | .send spawn h _ => some (if spawn then (pkg, d, c) else (fld h 127 116, fld h 115 112, fld h 111 105))
  | _ => none

/-- Does a message or channel packet of a context, issued before `p`, to the same core still wait at the sender (R95)? -/
def sendsAhead (s : State) (d c : Nat) (p : Packet) : Bool :=
  let a := s.act d c
  a.post.any (fun q => q.2.engine.isNone && !q.2.issuer.hart && decide (q.2.issuer.ix = p.src.ix ∧ q.2.issuer.inc = p.src.inc ∧
    q.2.seq < p.iss ∧ q.2.op.target? s.pkg.toNat d c = some (p.pkg, p.die, p.core))) ||
  a.behind.any (fun q => decide (q.src.ix = p.src.ix ∧ q.src.inc = p.src.inc ∧ q.iss ≤ p.iss ∧ q.pkg = p.pkg ∧ q.die = p.die ∧ q.core = p.core))

/-- An update's effect on a core. A packet behind an earlier SEND of its context to its core waits for that (R95). -/
def applyUpd (s : State) (d c : Nat) : UpdOp → State
  | .signal k inc => s.setAct d c (signalSet (s.act d c) k inc)
  | .set k v => s.setAct d c (setSet (s.act d c) k v)
  | .packet p =>
    if sendsAhead s d c p then let a := s.act d c; s.setAct d c { a with behind := a.behind ++ [p] }
    else sendPacket s p

/-- After a message has left, the packets that waited for it alone leave too. -/
def releaseBehind (s : State) (d c : Nat) : State :=
  let a := s.act d c
  a.behind.foldl (fun s p => applyUpd s d c (.packet p)) (s.setAct d c { a with behind := [] })

/-- A context's update, applied now or once its earlier stores have performed (R257). -/
def update (s : State) (e : Env) (op : UpdOp) : State :=
  let k := s.core e.d e.c
  let x := s.ctx e
  let n := lastStore k e.ix x.inc
  if n = 0 then applyUpd s e.d e.c op
  else s.setCore e.d e.c { k with updates := k.updates ++ [{ after := n, ix := e.ix, inc := x.inc, op := op }] }

/-- The sender record of the executing context. -/
def senderOf (s : State) (e : Env) : Sender :=
  { die := e.d, core := e.c, ix := e.ix, inc := (s.ctx e).inc, dom := (s.ctx e).dom }

/-- A sender's coordinates, laid out as w4 at creation (R93). -/
def coordsOf (pkg : BitVec 12) (x : Sender) : W64 :=
  BitVec.ofNat 64 (x.ix % 64 * 8 + x.core % 128 * 512 + x.die % 16 * 65536 + pkg.toNat * 2 ^ 20 + x.dom.toNat * 2 ^ 32)

/-- CORE above 95 or DIE above 11 in a route (R116). -/
def badRoute (core die : Nat) : Bool := decide (95 < core ∨ 11 < die)

def useChsend (d : BitVec 7) (t : TailV) : Use :=
  { legal := d = 0 && vOnly t true true false false false 0
    regs := [(t.b.toNat, 1), (t.c.toNat, 1)], srcs := [t.b.toNat, t.c.toNat] }

/-- CHSEND (R116): class control; a release, so the packet leaves after the context's earlier stores (R95). -/
def execChsend (d : BitVec 7) (t : TailV) (s : State) : Host.Outcome State Fault Refusal :=
  ctxRun (useChsend d t) (fun e s => do
    let a := s.act e.d e.c
    let r ← regRead a e.ix t.b.toNat
    let v ← regRead a e.ix t.c.toNat
    let core := fld r 18 12
    let die := fld r 22 19
    if badRoute core die then raiseAt remoteFault (fld r 63 0)
    else pure (update s e (.packet
      { iss := a.seq, cls := 1, src := senderOf s e, pkg := fld r 34 23, die := die, core := core,
        body := .channel (BitVec.ofNat 12 (fld r 11 0)) v (r.setWidth 64) }))) s

/-! ## SEND and SPAWN (R117) -/

/-- The lowest free post-queue entry (R267). -/
def freePost (a : SetState) : Option Nat :=
  if a.postFrozen then none else (List.range 16).find? (fun i => (tfind a.post i).isNone)

/-- The issuer record of the executing context. -/
def issuerOf (s : State) (e : Env) : Issuer :=
  let x := s.ctx e
  { ix := e.ix, inc := x.inc, dom := x.dom, prio := x.prio }

/-- A command enters a post-queue entry, numbered in issue order. -/
def putPost (a : SetState) (i : Nat) (p : PostEntry) : SetState :=
  { a with post := tins a.post i { p with seq := a.seq }, seq := a.seq + 1 }

/-- Payload registers C to C+LEN of a message, little-endian from wC (R117). -/
def payload (a : SetState) (ix c : Nat) : Nat → Res Nat
  | 0 => .ok 0
  | n + 1 => do
    let lo ← regRead a ix c
    let hi ← payload a ix (c + 1) n
    pure (lo.toNat + hi * 2 ^ 128)

/-- WSBOUND and ILLEGAL_OP of the payload registers (R106). -/
def payloadCheck (a : SetState) (ix c n : Nat) : Res Unit :=
  if 127 < c + n then raise illegalOp
  else if (a.ctx ix).wsz.toNat ≤ c + n then raise wsbound else .ok ()

/-- The signed SI field of form E (R58). -/
def siOf (t : TailE) : Int := sext 4 t.si.toNat

/-- The header with DOM inserted, and PRIO raised to the sender's when it is numerically below it (R93). -/
def headerOf (h : W128) (dom : BitVec 12) (prio : BitVec 3) : W128 :=
  let p := fld h 92 90
  let p := if p < prio.toNat then prio.toNat else p
  BitVec.ofNat 128 (putFld (putFld h.toNat 93 12 dom.toNat) 90 3 p)

/-- The form E fields a SEND does not use are zero. -/
def useSend (d : BitVec 7) (t : TailE) : Use :=
  { legal := d = 0 && t.l = 0 && t.f12 = 0, regs := [(t.b.toNat, 1)], srcs := [t.b.toNat] }

/-- Issue of SEND or SPAWN: registers read, the header checked, one entry taken (R117). The channel of a bound payload
register is popped with the others. -/
def issueSend (spawn : Bool) (t : TailE) (e : Env) (s : State) : Res State := do
  let a := s.act e.d e.c
  let h ← regRead a e.ix t.b.toNat
  let n := fld h 89 88
  payloadCheck a e.ix t.c.toNat n
  let regs := boundSrcs (a.ctx e.ix) ((List.range (n + 1)).map (fun i => t.c.toNat + i))
  let regs := regs.filter (fun i => decide (i ≠ t.b.toNat))
  if regs.any (fun i => (chQueue a e.ix (i - 120)).isEmpty) then .error (.wait (.chan regs) s)
  else do
    let v ← payload a e.ix t.c.toNat (n + 1)
    if !spawn && badRoute (fld h 111 105) (fld h 115 112) then raiseAt remoteFault (fld h 127 64)
    else
      match freePost a with
      | none => .error (.stall s)
      | some i =>
        let x := a.ctx e.ix
        let p : PostEntry :=
          { op := .send spawn (headerOf h x.dom x.prio) (BitVec.ofNat 512 v), issuer := issuerOf s e,
            wk := t.wk.toNat, wt := t.wt.toNat, sk := t.sk.toNat, si := siOf t,
            after := lastStore (s.core e.d e.c) e.ix x.inc, captured := true }
        pure (s.setAct e.d e.c (popSrcs (putPost a i p) e.ix regs))

/-- SEND (R117). -/
def execSend (d : BitVec 7) (t : TailE) (s : State) : Host.Outcome State Fault Refusal :=
  ctxRun (useSend d t) (fun e s => issueSend false t e s) s

def useSpawn (d : BitVec 7) (t : TailE) : Use :=
  { legal := d = 0 && t.l = 0 && t.f12 = 0, regs := [(t.b.toNat, 1)], srcs := [t.b.toNat] }

/-- SPAWN (R117). -/
def execSpawn (d : BitVec 7) (t : TailE) (s : State) : Host.Outcome State Fault Refusal :=
  ctxRun (useSpawn d t) (fun e s => issueSend true t e s) s

/-! ## What is no instruction -/

/-- RESERVED_OPCODE (R70): ILLEGAL_OP. -/
def execReservedOpcode (s : State) : Host.Outcome State Fault Refusal :=
  ctxRunRaw { legal := true } (fun _ _ => raise illegalOp) s

/-- ILLEGAL_LINE (R47, R49): the fault record holds the IP by which the line was entered. -/
def execIllegalLine (s : State) : Host.Outcome State Fault Refusal :=
  ctxRunRaw { legal := true } (fun _ _ => raise illegalLineCode) s

end Sys2Proof.Machine
end

