-- ==== Sys2Proof/Machine/Report.lean ====
section
/-! DEFINITION. Records for the host post box: R458, R459, R498. -/

namespace Sys2Proof.Machine

/-- A REMOTE record (R498). -/
def State.remoteReport (s : State) (d cause addr handle detail : Nat) : State :=
  s.report d 1 (addr % 2 ^ 64 + handle % 2 ^ 32 * 2 ^ 64 + cause * 2 ^ 96 + detail % 256 * 2 ^ 104)

/-- The handle of a packet's sender; a hart has none. -/
def Sender.handle (x : Sender) : Nat := if x.hart then 0xFFFFFFFF else ctxHandle x.die x.core x.ix x.inc

end Sys2Proof.Machine
end

