-- ==== Sys2Proof/Machine/Packets.lean ====
section
/-! DEFINITION. Packets in the fabric as their destinations see them: R447. -/

namespace Sys2Proof.Machine

/-- The destination unit of a packet within its die: a core's thread engine, the join unit, the stream processor. -/
def Payload.unit : Payload → Nat
  | .message _ _ _ => 0
  | .channel _ _ _ => 0
  | .signal _ _ _ _ => 0
  | .context _ _ _ _ => 0
  | .freeze _ _ _ => 0
  | .post _ _ _ _ _ => 1
  | .get _ _ _ => 1
  | .child _ _ _ => 1
  | .descent _ _ => 1
  | .prune _ _ => 2

/-- Join units and stream processors as senders. -/
abbrev joinUnit : Nat := 1000
abbrev streamUnit : Nat := 1001

/-- The packet of a number. -/
def State.pkt (s : State) (n : Nat) : Option Packet := s.net.find? (fun p => decide (p.id = n))

/-- The packet leaves the fabric. -/
def State.dropPkt (s : State) (n : Nat) : State := { s with net := s.net.filter (fun p => decide (p.id ≠ n)) }

/-- Same class, source agent and destination unit (R447). -/
def Packet.sameFlow (p q : Packet) : Bool :=
  decide (p.cls = q.cls ∧ p.src.die = q.src.die ∧ p.src.core = q.src.core ∧ p.src.ix = q.src.ix ∧ p.src.hart = q.src.hart ∧
    p.pkg = q.pkg ∧ p.die = q.die ∧ p.core = q.core ∧ p.body.unit = q.body.unit)

/-- The packet has reached its die, and nothing its source sent before it on the same flow is still on its way. -/
def State.arrived (s : State) (p : Packet) : Bool :=
  decide (p.pkg = s.pkg.toNat ∧ p.loc = p.die) && !p.evicted && s.net.all (fun q => !(decide (q.id < p.id) && p.sameFlow q))

/-- The packet of a number when it can be delivered now. -/
def State.ready (s : State) (n : Nat) : Option Packet :=
  match s.pkt n with
  | some p => if s.arrived p then some p else none
  | none => none

end Sys2Proof.Machine
end

