-- ==== Sys2Proof/Machine/Violation.lean ====
section
/-! DEFINITION. Partitions and the sets that belong to them (R213, R425); violations and freezing (R439 to R442). -/

namespace Sys2Proof.Machine

/-! ## Partitions (R425) -/

def Die.part (v : Die) (p : Nat) : BitVec 512 := tget 0 v.parts p
/-- Does a partition record name a logical core? -/
def partCore (r : BitVec 512) (c : Nat) : Bool := decide (c < 96) && bit r (416 + c)
def partNdom (r : BitVec 512) : Nat := fld r 319 316
def partDom (r : BitVec 512) (k : Nat) : Nat := fld r (12 * k + 331) (12 * k + 320)
def partSlen (r : BitVec 512) : Nat := fld r 315 268

/-- Does the partition of a set permit a domain? A set that belongs to none permits domain 0 alone. -/
def Die.permits (v : Die) (p : Option Nat) (dom : Nat) : Bool :=
  match p with
  | none => decide (dom = 0)
  | some p => (List.range (partNdom (v.part p))).any (fun k => decide (partDom (v.part p) k = dom))

/-- A set of a core: the shadow one, or the active one. -/
def Core.set (k : Core) (sh : Bool) : SetState := if sh then k.shd else k.act
def Core.putSet (k : Core) (sh : Bool) (a : SetState) : Core := if sh then { k with shd := a } else { k with act := a }

/-- Which set of a core serves a domain (R213): the active one, else the shadow one. -/
def State.setFor (s : State) (d c dom : Nat) : Option Bool :=
  let v := s.die d
  if v.permits (v.core c).act.part dom then some false
  else if v.permits (v.core c).shd.part dom then some true else none

/-- The copied-out set of a core that serves a domain. -/
def savedFor (v : Die) (c dom : Nat) : Option (Nat × Saved) :=
  v.saved.find? (fun p => decide (p.1 % 128 = c) && v.permits (some (p.1 / 128)) dom)

/-- A counter update on a set. -/
def setUpd (a : SetState) : UpdOp → SetState
  | .signal k inc => signalSet a k inc
  | .set k v => setSet a k v
  | .packet _ => a

/-- A remote counter update (R213): applied at the set that serves the domain, held for a copied-out set, or none: a
violation. -/
def remoteUpd (s : State) (d c dom : Nat) (u : UpdOp) : Option State :=
  match s.setFor d c dom with
  | some sh => let k := s.core d c
               some (s.setCore d c (k.putSet sh (setUpd (k.set sh) u)))
  | none =>
    let v := s.die d
    match savedFor v c dom with
    | some (i, x) => some (s.setDie d { v with saved := tins v.saved i { x with held := x.held ++ [u] } })
    | none => none

/-- TDOM of a freeze report: the first domain of the active set's partition, 0xFFF when there is none. -/
def targetDom (v : Die) (c : Nat) : Nat :=
  match (v.core c).act.part with
  | some p => if partNdom (v.part p) = 0 then 0xFFF else partDom (v.part p) 0
  | none => 0xFFF

/-! ## Freezing (R440, R441) -/

/-- The slot that holds a context. -/
def slotHolding (a : SetState) (ix : Nat) : Option Nat :=
  (List.range 32).find? (fun i => decide ((a.slot i).mode ≠ .empty ∧ (a.slot i).ix = ix))

/-- A context freezes: its slot parks, it leaves the run queue. -/
def freezeCtx (a : SetState) (ix : Nat) : SetState :=
  let x := a.ctx ix
  if x.state = .frozen then a
  else
    let a := runqDrop (a.setCtx ix { x with prior := x.state, state := .frozen }) ix
    match slotHolding a ix with
    | some i =>
      let sl := a.slot i
      a.setSlot i { sl with mode := .parked, from_ := if sl.mode = .parked then sl.from_ else sl.mode, stalled := false, beat := none }
    | none => a

/-- A frozen context returns to the state it held, PARKED after R465 (R90, R442). -/
def thawCtx (a : SetState) (ix : Nat) : SetState :=
  let x := a.ctx ix
  let st := if x.frozenErr then .parked else x.prior
  let a := a.setCtx ix { x with state := st, prior := .free, frozenErr := false }
  if st = .ready ∨ (st = .blocked ∧ x.satisfied) then makeReady a ix
  else
    match slotHolding a ix with
    | some i => if st = .parked then a else a.setSlot i { a.slot i with mode := (a.slot i).from_ }
    | none => a

/-- mk_fault.FRZ of a core (R441). -/
def setFrz (s : State) (d c : Nat) : State := s.setCore d c { s.core d c with frz := true }

/-- The set whose context `ix` is live under a domain: what a freeze of a sender finds (R439). -/
def senderSet (k : Core) (ix : Nat) (dom : BitVec 12) : Option Bool :=
  let ok := fun (a : SetState) => decide ((a.ctx ix).state ≠ .free ∧ (a.ctx ix).dom = dom)
  if ok k.act then some false else if ok k.shd then some true else none

/-- The sender of a violation of reason 1 freezes, at its own core (R439). -/
def freezeSender (s : State) (x : Sender) (tdom addr : Nat) : State :=
  if 96 ≤ x.core then freezeReport s x.die 0 1 0 x.dom.toNat tdom addr true
  else
    let k := s.core x.die x.core
    if x.hart then
      let s := setFrz (s.setCore x.die x.core { k with act := { k.act with postFrozen := true } }) x.die x.core
      freezeReport s x.die 1 1 x.core x.dom.toNat tdom addr false
    else
      match senderSet k x.ix x.dom with
      | none => freezeReport s x.die 0 1 x.handle x.dom.toNat tdom addr true
      | some sh =>
        let a := k.set sh
        let h := ctxHandle x.die x.core x.ix (a.ctx x.ix).inc
        let s := setFrz (s.setCore x.die x.core (k.putSet sh (freezeCtx a x.ix))) x.die x.core
        freezeReport s x.die 0 1 h x.dom.toNat tdom addr false

/-- A violation of reason 1 found at core `c` of die `d`: a sender on another die is frozen by an urgent packet. -/
def violation (s : State) (x : Sender) (d c addr : Nat) : State :=
  let tdom := targetDom (s.die d) c
  if x.die = d then freezeSender s x tdom addr
  else sendPacket s
    { cls := 0, src := { die := d, core := c, hart := true }, pkg := s.pkg.toNat, die := x.die, core := x.core,
      body := .freeze x (BitVec.ofNat 12 tdom) (BitVec.ofNat 64 addr) }

/-- FREEZE_PACKET (R439). -/
def execFreezePacket (n : Nat) (s : State) : Host.Outcome State Fault Refusal :=
  match s.ready n with
  | some p =>
    match p.body with
    | .freeze who tdom addr => .next (freezeSender (s.dropPkt n) who tdom.toNat addr.toNat)
    | _ => .next s
  | none => .next s

end Sys2Proof.Machine
end

