-- ==== Sys2Proof/Machine/Operands.lean ====
section
/-! DEFINITION. Operand forms shared by the instruction families: element types and shapes of form V (R18, R22, R62 to R64),
register groups with predicated write-back (R63), and the effective address of form M (R66). -/

namespace Sys2Proof.Machine

/-! ## Element types (R18, R22, R23, R64) -/

/-- Width in bits of a type's element as a workspace register holds it: 6-bit formats take a byte (R24), F19 a 32-bit
container (R20); 0 for a reserved code. -/
def tyBits (ty : Nat) : Nat :=
  match ty with
  | 0x00 | 0x01 => 8
  | 0x02 | 0x03 => 16
  | 0x04 | 0x05 => 32
  | 0x06 | 0x07 => 64
  | 0x08 => 64
  | 0x09 => 32
  | 0x0A | 0x0B => 16
  | 0x0C | 0x0D | 0x0E | 0x0F => 8
  | 0x10 | 0x11 | 0x12 => 4
  | 0x13 => 32
  | 0x14 => 8
  | 0x15 => 1
  | _ => 0

/-- The integer types of 8 to 64 bits. -/
def isInt (ty : Nat) : Bool := decide (ty ≤ 7)

/-- Signed types among the integers. -/
def tySigned (ty : Nat) : Bool := decide (ty % 2 = 0 ∧ ty ≤ 6) || decide (ty = 0x11)

/-! ## Shapes and groups (R62, R63) -/

/-- Registers of a group by SH. -/
def shRegs (sh : Nat) : Nat := if sh = 3 then 4 else if sh = 2 then 2 else 1

/-- Bytes a shape spans. -/
def shBytes (sh : Nat) : Nat := 16 * shRegs sh

/-- The group rule of R62 for a register index. -/
def grpOk (sh : BitVec 2) (r : BitVec 7) : Bool := decide (r.toNat % shRegs sh.toNat = 0)

/-- The registers of a group, as a use. -/
def grp (sh : BitVec 2) (r : BitVec 7) : Nat × Nat := (r.toNat, shRegs sh.toNat)

/-- The registers of a group, listed. -/
def grpList (sh : BitVec 2) (r : BitVec 7) : List Nat := (List.range (shRegs sh.toNat)).map (fun k => r.toNat + k)

/-- `n` registers from `i`, little-endian, each read as W does. -/
def regsRead (a : SetState) (ix i : Nat) : Nat → Res Nat
  | 0 => .ok 0
  | n + 1 => do
    let lo ← regRead a ix i
    let hi ← regsRead a ix (i + 1) n
    pure (lo.toNat + hi * 2 ^ 128)

/-- `n` registers from `i` as they stand, for the elements a predicate keeps (R63): stale registers read zero. -/
def regsOld (a : SetState) (x : Ctx) (i : Nat) : Nat → Nat
  | 0 => 0
  | n + 1 => (regRaw a x i).toNat + regsOld a x (i + 1) n * 2 ^ 128

/-- A group as a source. -/
def grpRead (a : SetState) (ix : Nat) (sh : BitVec 2) (r : BitVec 7) : Res Nat := regsRead a ix r.toNat (shRegs sh.toNat)

/-- Writes `n` registers from `i` with byte mask `m`; a register of which no byte is enabled is not written. -/
def regsWrite (a : SetState) (ix i : Nat) (v m : Nat) : Nat → SetState
  | 0 => a
  | n + 1 =>
    let a := if m % 65536 = 0 then a else regWrite a ix i (v % 2 ^ 128) (m % 65536)
    regsWrite a ix (i + 1) (v / 2 ^ 128) (m / 65536) n

/-- Element `i` of width `w` bits of a group. -/
def elem (v w i : Nat) : Nat := (v >>> (w * i)) % 2 ^ w

/-- The group whose elements of width `w` are f 0, f 1, …, f (n-1). -/
def elems (w : Nat) (f : Nat → Nat) : Nat → Nat
  | 0 => 0
  | n + 1 => elems w f n + (f n % 2 ^ w) * 2 ^ (w * n)

/-- Elements a shape computes: one for SH 0, else the whole span. -/
def shElems (sh w : Nat) : Nat := if sh = 0 then 1 else shBytes sh * 8 / w

/-- Bytes of an element for predication: at least one. -/
def elemBytes (w : Nat) : Nat := if w < 8 then 1 else w / 8

/-- The byte mask of the enabled elements among the first `n` bytes: byte `j` follows the bit of its element's lowest byte. -/
def enMask (pred : Nat) (pn : Bool) (es : Nat) : Nat → Nat
  | 0 => 0
  | n + 1 => enMask pred pn es n + (if pred.testBit (n / es * es) != pn then 2 ^ n else 0)

/-- The predicate an instruction names, as its 64 bits. -/
def predOf (a : SetState) (x : Ctx) (t : TailV) : Nat := predRead a x t.p.toNat

/-- Is element `i` of width `w` enabled? -/
def elemOn (pred : Nat) (pn : Bool) (w i : Nat) : Bool := pred.testBit (i * w / 8) != pn

/-- Writes the elements of a group under predication (R63). SH 0 writes element 0 and clears the rest of wD, or nothing. -/
def grpWrite (a : SetState) (ix : Nat) (sh : BitVec 2) (d : BitVec 7) (w pred : Nat) (pn : Bool) (v : Nat) : SetState :=
  if sh = 0 then
    if elemOn pred pn w 0 then regWrite a ix d.toNat (v % 2 ^ w) allBytes else a
  else regsWrite a ix d.toNat v (enMask pred pn (elemBytes w) (shBytes sh.toNat)) (shRegs sh.toNat)

/-- Some element of the group is enabled. -/
def anyOn (pred : Nat) (pn : Bool) (w n : Nat) : Bool := (List.range n).any (elemOn pred pn w)

/-- Granules that a packed instruction of group D consumes beside its sources: its predicate's, and the registers it writes in part
under element width `w` (R63, R464). -/
def vLook (d : BitVec 7) (t : TailV) (w : Nat) (a : SetState) (x : Ctx) : List Nat :=
  let m := enMask (predRead a x t.p.toNat) t.pn (elemBytes w) (shBytes t.sh.toNat)
  predGran x t.p.toNat ++
  (if t.sh = 0 then [] else
    ((List.range (shRegs t.sh.toNat)).filter (fun k =>
      decide (m / 2 ^ (16 * k) % 65536 ≠ 0 ∧ m / 2 ^ (16 * k) % 65536 ≠ 65535))).map (fun k => x.gran (d.toNat + k)))

/-! ## Form M (R66) -/

/-- Access size in bytes. -/
def szBytes (sz : BitVec 3) : Nat := 2 ^ sz.toNat

/-- Registers an access moves. -/
def szRegs (sz : BitVec 3) : Nat := if sz = 6 then 4 else if sz = 5 then 2 else 1

/-- The index scale. -/
def scaleOf (sc : BitVec 2) (n : Nat) : Nat := if sc = 0 then 1 else if sc = 1 then n else if sc = 2 then 16 else 64

/-- The effective address of R66 from the base and index values. -/
def eaOf (t : TailM) (b c : W128) : Nat :=
  let i : Int := if t.xi then sext 64 c.toNat * (scaleOf t.sc (szBytes t.sz) : Int) else 0
  wrap 64 ((fld b 63 0 : Int) + sext 24 t.off.toNat + i)

/-- The group rule of R66 for D at sizes 32 and 64. -/
def mAligned (sz : BitVec 3) (d : BitVec 7) : Bool := decide (d.toNat % szRegs sz = 0)

/-- En(16k) of a form M instruction, for k below `n`. -/
def mOn (a : SetState) (x : Ctx) (t : TailM) (k : Nat) : Bool := enabled a x t.p t.pn (16 * k)

/-- The registers of the group that are enabled. -/
def mEnabled (a : SetState) (x : Ctx) (t : TailM) : List Nat := (List.range (szRegs t.sz)).filter (mOn a x t)

/-- The address registers of form M: B, and C when XI is 1. -/
def mAddrRegs (t : TailM) : List Nat := t.b.toNat :: (if t.xi then [t.c.toNat] else [])

/-- Reads the address registers and forms ea. -/
def mEa (a : SetState) (ix : Nat) (t : TailM) : Res Nat := do
  let b ← regRead a ix t.b.toNat
  let c ← if t.xi then regRead a ix t.c.toNat else pure 0
  pure (eaOf t b c)

/-- Sign or zero extension of an `m`-byte value to a register (R66). -/
def extend (sx : Bool) (m v : Nat) : Nat := if sx && m < 16 then wrap 128 (sext (8 * m) v) else v % 2 ^ (8 * m)

end Sys2Proof.Machine
end

