-- ==== Sys2Proof/Machine/Counters.lean ====
section
/-! DEFINITION. Completion counters, triggers, chunk maps and barriers: chapter 09 (R208 to R225). -/

namespace Sys2Proof.Machine

/-! ## Waiting (R212, R215) -/

/-- The wait of CWAIT and CWAITR: COUNTER_OVF under OVFE, else satisfied now or earlier, else a wait (R211, R212). -/
def counterWait (s : State) (e : Env) (k t : Nat) (eq : Bool) : Res State :=
  let a := s.act e.d e.c
  let x := a.ctx e.ix
  if x.ovfe && (a.counter k).ovf then raiseAt counterOvf k
  else if (x.satisfied && decide (x.wait = some (.counter k t eq))) || waitHolds a e.ix (.counter k t eq) then .ok s
  else .error (.wait (.counter k t eq) s)

/-- The counter field IMM25[24:17] of form I. -/
def immK (t : TailI) : Nat := fld t.imm 24 17

def useCwait (d : BitVec 7) (t : TailI) : Use := { legal := d = 0 && t.b = 0 && !t.imm.getLsbD 16 }

/-- CWAIT (R215). -/
def execCwait (d : BitVec 7) (t : TailI) (s : State) : Host.Outcome State Fault Refusal :=
  ctxRun (useCwait d t) (fun e s => counterWait s e (immK t) (fld t.imm 15 0) false) s

def useCwaitr (d : BitVec 7) (t : TailV) : Use :=
  { legal := d = 0 && vOnly t true true false false false 1
    regs := [(t.b.toNat, 1), (t.c.toNat, 1)], srcs := [t.b.toNat, t.c.toNat] }

/-- CWAITR (R215). -/
def execCwaitr (d : BitVec 7) (t : TailV) (s : State) : Host.Outcome State Fault Refusal :=
  ctxRun (useCwaitr d t) (fun e s => do
    let a := s.act e.d e.c
    let k ← regRead a e.ix t.b.toNat
    let v ← regRead a e.ix t.c.toNat
    counterWait s e (fld k 7 0) (fld v 15 0) (t.f = 1)) s

/-! ## Signals and sets (R216, R217) -/

def useCsig (d : BitVec 7) (t : TailI) : Use := { legal := d = 0 && t.b = 0 && !t.imm.getLsbD 16 }

/-- CSIG with RMT 0 (R212, R216). -/
def execCsig (d : BitVec 7) (t : TailI) (s : State) : Host.Outcome State Fault Refusal :=
  ctxRun (useCsig d t) (fun e s =>
    let x := s.ctx e
    let k := immK t
    let inc := sext 16 (fld t.imm 15 0)
    if x.ovfe then
      if lastStore (s.core e.d e.c) e.ix x.inc ≠ 0 then .error (.stall s)
      else if signalOverflows ((s.act e.d e.c).counter k) inc then raiseAt counterOvf k
      else .ok (applyUpd s e.d e.c (.signal k inc))
    else .ok (update s e (.signal k inc))) s

def useCsigRmt (d : BitVec 7) (t : TailI) : Use :=
  { legal := d = 0 && t.imm.getLsbD 16, regs := [(t.b.toNat, 1)], srcs := [t.b.toNat] }

/-- CSIG.rmt (R216): an urgent packet to the core the route names. -/
def execCsigRmt (d : BitVec 7) (t : TailI) (s : State) : Host.Outcome State Fault Refusal :=
  ctxRun (useCsigRmt d t) (fun e s => do
    let r ← regRead (s.act e.d e.c) e.ix t.b.toNat
    let core := fld r 18 12
    let die := fld r 22 19
    if badRoute core die then raiseAt remoteFault (fld r 63 0)
    else pure (update s e (.packet
      { cls := 0, src := senderOf s e, pkg := fld r 34 23, die := die, core := core,
        body := .signal (BitVec.ofNat 8 (immK t)) (sext 16 (fld t.imm 15 0)) (r.setWidth 64) none }))) s

def useCset (d : BitVec 7) (t : TailI) : Use := { legal := d = 0 && t.b = 0 && !t.imm.getLsbD 16 }

/-- CSET (R217). -/
def execCset (d : BitVec 7) (t : TailI) (s : State) : Host.Outcome State Fault Refusal :=
  ctxRun (useCset d t) (fun e s => .ok (update s e (.set (immK t) (fld t.imm 15 0)))) s

/-- The counter map of R208. -/
def counterMap (c : Counter) : Nat := c.value.toNat + 65536 * b2n c.ovf

def useCget (d : BitVec 7) (t : TailI) : Use := { legal := t.b = 0 && fld t.imm 15 0 = 0, regs := [(d.toNat, 1)] }

/-- CGET (R217): with OCLR, OVF is cleared in the same step. -/
def execCget (d : BitVec 7) (t : TailI) (s : State) : Host.Outcome State Fault Refusal :=
  setRun (useCget d t) (fun e a =>
    let c := a.counter (immK t)
    let a := if t.imm.getLsbD 16 then wakeAll (a.setCounter (immK t) (trigEval { c with ovf := false })) else a
    .ok (regWrite a e.ix d.toNat (counterMap c) allBytes)) s

/-! ## Triggers (R218, R219) -/

def useCtrig (d : BitVec 7) (t : TailV) : Use :=
  { legal := vOnly t true true false false false 0
    regs := [(d.toNat, 1), (t.b.toNat, 1), (t.c.toNat, 1)], srcs := [t.b.toNat, t.c.toNat] }

/-- The trigger a specification and a handler IP give (R218, R219). -/
def triggerOf (spec hip : W128) (x : Ctx) : Trigger :=
  { hip := hip.setWidth 57, arg := BitVec.ofNat 32 (fld spec 63 32), eq := bit spec 27,
    prio := BitVec.ofNat 3 (fld spec 26 24), thr := BitVec.ofNat 16 (fld spec 15 0), dom := x.dom, eprio0 := x.prio }

/-- CTRIG, arming (R219). -/
def execCtrig (d : BitVec 7) (t : TailV) (s : State) : Host.Outcome State Fault Refusal :=
  setRun (useCtrig d t) (fun e a => do
    let h ← regRead a e.ix t.b.toNat
    let v ← regRead a e.ix t.c.toNat
    if fld v 31 28 ≠ 0 then raise illegalOp
    else
      let k := fld v 23 16
      let c := a.counter k
      match c.trig with
      | some _ => pure (regWrite a e.ix d.toNat 1 allBytes)
      | none =>
        let c := trigEval { c with trig := some (triggerOf v h (a.ctx e.ix)) }
        pure (regWrite (a.setCounter k c) e.ix d.toNat 0 allBytes)) s

def useCtrigOff (d : BitVec 7) (t : TailV) : Use :=
  { legal := vOnly t false true false false false 1 && t.f = 1
    regs := [(d.toNat, 1), (t.c.toNat, 1)], srcs := [t.c.toNat] }

/-- CTRIG.off (R219). -/
def execCtrigOff (d : BitVec 7) (t : TailV) (s : State) : Host.Outcome State Fault Refusal :=
  setRun (useCtrigOff d t) (fun e a => do
    let v ← regRead a e.ix t.c.toNat
    let k := fld v 23 16
    let c := a.counter k
    match c.trig with
    | none => pure (regWrite a e.ix d.toNat 3 allBytes)
    | some g =>
      if g.pending then pure (regWrite a e.ix d.toNat 1 allBytes)
      else if g.dom ≠ (a.ctx e.ix).dom then pure (regWrite a e.ix d.toNat 4 allBytes)
      else pure (regWrite (a.setCounter k { c with trig := none }) e.ix d.toNat 0 allBytes)) s

/-! ## Chunk maps (R222) -/

def useChkw (d : BitVec 7) (t : TailV) : Use :=
  { legal := vOnly t true true false false false 7 && t.c.toNat ≤ 15
    regs := [(d.toNat, 1), (t.b.toNat, 1)], srcs := [t.b.toNat] }

/-- CHKW (R222). -/
def execChkw (d : BitVec 7) (t : TailV) (s : State) : Host.Outcome State Fault Refusal :=
  ctxRun (useChkw d t) (fun e s => do
    let a := s.act e.d e.c
    let m ← regRead a e.ix t.b.toNat
    let n := t.c.toNat
    let cm := tget 0 a.chunk n
    let v := cm &&& m
    let sat := if t.f.getLsbD 0 then decide (v ≠ 0 ∨ m = 0) else decide (v = m)
    if !sat && !t.f.getLsbD 2 then .error (.wait (.chunk n m (t.f.getLsbD 0)) s)
    else
      let a := if sat && t.f.getLsbD 1 then { a with chunk := tset 0 a.chunk n (cm &&& ~~~v) } else a
      pure (s.setAct e.d e.c (regWrite a e.ix d.toNat v.toNat allBytes))) s

/-! ## Barriers (R223, R224) -/

def useBar (d : BitVec 7) (t : TailV) : Use :=
  { legal := d = 0 && vOnly t false false false false false 7 && decide (1 ≤ t.f.toNat ∧ t.f.toNat ≤ 5) }

/-- BAR (R224): a release, so the arrival waits for the context's earlier stores; then the phase is joined once. -/
def execBar (d : BitVec 7) (t : TailV) (s : State) : Host.Outcome State Fault Refusal :=
  ctxRun (useBar d t) (fun e s =>
    let x := s.ctx e
    let sc := t.f.toNat
    match x.launch with
    | none => raise illegalOp
    | some l =>
      match x.wait with
      | some (.bar sc' n) => if sc' = sc ∧ x.satisfied then .ok s else .error (.wait (.bar sc' n) s)
      | _ =>
        if lastStore (s.core e.d e.c) e.ix x.inc ≠ 0 then .error (.stall s)
        else
          let n := tget 0 x.phases sc + 1
          let s := s.setCtx e { x with phases := tset 0 x.phases sc n }
          let u := unitOf sc x.lco
          if phaseFull s l sc u n then .ok (completePhase s l sc u n)
          else .error (.wait (.bar sc n) s)) s

end Sys2Proof.Machine
end

