-- ==== Sys2Proof/Machine/Local.lean ====
section
/-! DEFINITION. The instructions that reach the paddock directly: chapter 06 (R155 to R161). -/

namespace Sys2Proof.Machine

/-! ## PadRd and PadWr (R85) -/

/-- The granule at which a write of `n` bytes at `a` merges old bytes that hold an uncorrected error (R464). -/
def partBad (p : Sparse Gran) (gen : BitVec 10) (a n : Nat) : Option Nat :=
  if n = 0 then none
  else [a, a + n - 1].findSome? (fun b => if decide (a ≤ b / 16 * 16 ∧ b / 16 * 16 + 16 ≤ a + n) then none else padBad p gen b 1)

/-- LOCAL_RANGE, RLOCK, GEN_TRAP and UNCORRECTED of one access of `n` bytes at `a` by a context, in that order; FADDR of LOCAL_RANGE is
`fa`. Answers the generation of the region. -/
def padCheck (s : SetState) (x : Ctx) (write : Bool) (fa a n : Nat) : Res (BitVec 10) :=
  match x.regionOf a n with
  | none => raiseAt localRange fa
  | some r =>
    let gen := (x.region r).2.2
    match lockedByte s 0 write a n with
    | some b => raiseAt rlock b
    | none =>
      match (if write then none else if x.strict then staleAt s.pad gen a n else none) with
      | some g => raiseAt genTrap g
      | none =>
        match (if write then partBad s.pad gen a n else padBad s.pad gen a n) with
        | some g => raiseAt uncorrectedFault g
        | none => .ok gen

/-- PadRd(a, n). -/
def padRd (s : SetState) (x : Ctx) (fa a n : Nat) : Res Nat := do
  let gen ← padCheck s x false fa a n
  pure (padBytes s.pad gen a n)

/-- PadWr(a, n, v). -/
def padWr (s : SetState) (x : Ctx) (fa a n v : Nat) : Res SetState := do
  let gen ← padCheck s x true fa a n
  pure { s with pad := padPut s.pad gen a n v }

/-! ## LD and ST (R156, R157) -/

/-- The fields of form M that every paddock access leaves zero. That a nonzero SC with XI 0 is accepted and has no effect is the model's
choice (R60, R66, log entry 28). -/
def mPlain (t : TailM) : Bool := t.ord = 0 && t.scope = 0 && t.aop = 0 && t.sz ≠ 7

def useLd (d : BitVec 7) (t : TailM) : Use :=
  { legal := mPlain t && mAligned t.sz d && (!t.sx || t.sz.toNat < 4)
    regs := (d.toNat, szRegs t.sz) :: (mAddrRegs t).map (fun r => (r, 1))
    dyn := fun a ix => if (mEnabled a (a.ctx ix) t).isEmpty then [] else mAddrRegs t
    look := fun _ x => predGran x t.p.toNat }

/-- The checks of an LD or ST over its enabled registers, kind by kind: LOCAL_RANGE for the whole access, then each
register's locks, stale granules and uncorrected errors (R156, R464). -/
def ldstCheck (s : SetState) (x : Ctx) (write : Bool) (ea m : Nat) (ks : List Nat) : Res (BitVec 10) :=
  match ks, ks.getLast? with
  | k0 :: _, some k1 =>
    if 2 ^ 20 ≤ ea then raiseAt localRange ea
    else
      match x.regionOf (ea + 16 * k0) (16 * (k1 - k0) + m) with
      | none => raiseAt localRange ea
      | some r =>
        let gen := (x.region r).2.2
        match ks.findSome? (fun k => lockedByte s 0 write (ea + 16 * k) m) with
        | some b => raiseAt rlock b
        | none =>
          match (if !write && x.strict then ks.findSome? (fun k => staleAt s.pad gen (ea + 16 * k) m) else none) with
          | some g => raiseAt genTrap g
          | none =>
            match ks.findSome? (fun k => if write then partBad s.pad gen (ea + 16 * k) m else padBad s.pad gen (ea + 16 * k) m) with
            | some g => raiseAt uncorrectedFault g
            | none => .ok gen
  | _, _ => .ok 0

/-- LD (R156). -/
def execLd (d : BitVec 7) (t : TailM) (s : State) : Host.Outcome State Fault Refusal :=
  multiSet (szRegs t.sz) (useLd d t) (fun e a => do
    let x := a.ctx e.ix
    let ks := mEnabled a x t
    if ks.isEmpty then pure a
    else
      let ea ← mEa a e.ix t
      let m := Nat.min (szBytes t.sz) 16
      if ea % m ≠ 0 then raiseAt alignFault ea
      else
        let gen ← ldstCheck a x false ea m ks
        pure (ks.foldl (fun a' k => regWrite a' e.ix (d.toNat + k)
          (extend t.sx m (padBytes a.pad gen (ea + 16 * k) m)) allBytes) a)) s

def useSt (d : BitVec 7) (t : TailM) : Use :=
  { legal := mPlain t && mAligned t.sz d && !t.sx
    regs := (d.toNat, szRegs t.sz) :: (mAddrRegs t).map (fun r => (r, 1))
    dyn := fun a ix => let ks := mEnabled a (a.ctx ix) t
      if ks.isEmpty then [] else mAddrRegs t ++ ks.map (fun k => d.toNat + k)
    look := fun _ x => predGran x t.p.toNat }

/-- Reads the data registers d + k for the enabled k. -/
def dataRegs (a : SetState) (ix d : Nat) : List Nat → Res (List (Nat × Nat))
  | [] => .ok []
  | k :: ks => do
    let v ← regRead a ix (d + k)
    let r ← dataRegs a ix d ks
    pure ((k, v.toNat) :: r)

/-- ST (R156). -/
def execSt (d : BitVec 7) (t : TailM) (s : State) : Host.Outcome State Fault Refusal :=
  multiSet (szRegs t.sz) (useSt d t) (fun e a => do
    let x := a.ctx e.ix
    let ks := mEnabled a x t
    if ks.isEmpty then pure a
    else
      let ea ← mEa a e.ix t
      let m := Nat.min (szBytes t.sz) 16
      if ea % m ≠ 0 then raiseAt alignFault ea
      else
        let gen ← ldstCheck a x true ea m ks
        let vs ← dataRegs a e.ix d.toNat ks
        pure { a with pad := vs.foldl (fun p kv => padPut p gen (ea + 16 * kv.1) m kv.2) a.pad }) s

/-! ## MOVX and MOVXS (R158) -/

/-- The computed index i := W(r)[15:0] + C, with the ALIGN and WSBOUND checks. -/
def movIndex (x : Ctx) (v : W128) (n cnt : Nat) : Res Nat :=
  let i := fld v 15 0 + n
  if i % cnt ≠ 0 then raiseAt alignFault i
  else if x.wsz.toNat < i + cnt then raiseAt wsbound i
  else .ok i

/-- The registers that an index register names, once it can be read and passes the checks. -/
def movGroup (a : SetState) (ix r n cnt : Nat) : List Nat :=
  if (a.ctx ix).bound r && (chQueue a ix (r - 120)).isEmpty then []
  else
    match (do let v ← regRead a ix r; movIndex (a.ctx ix) v n cnt : Res Nat) with
    | .ok i => (List.range cnt).map (fun k => i + k)
    | .error _ => []

def useMovx (d : BitVec 7) (t : TailV) : Use :=
  { legal := vOnly t true true false true true 0 && t.sh ≠ 0 && grpOk t.sh d
    regs := [grp t.sh d, (t.b.toNat, 1)], srcs := [t.b.toNat]
    dyn := fun a ix => movGroup a ix t.b.toNat t.c.toNat (shRegs t.sh.toNat)
    look := fun _ x => predGran x t.p.toNat }

/-- The byte mask of the registers enabled by En(16k). -/
def regMask (pred : Nat) (pn : Bool) (cnt : Nat) : Nat := enMask pred pn 16 (16 * cnt)

/-- MOVX (R158): all reads come first. -/
def execMovx (d : BitVec 7) (t : TailV) (s : State) : Host.Outcome State Fault Refusal :=
  multiSet (shRegs t.sh.toNat) (useMovx d t) (fun e a => do
    let x := a.ctx e.ix
    let cnt := shRegs t.sh.toNat
    let b ← regRead a e.ix t.b.toNat
    let i ← movIndex x b t.c.toNat cnt
    let v ← regsRead a e.ix i cnt
    pure (regsWrite a e.ix d.toNat v (regMask (predOf a x t) t.pn cnt) cnt)) s

def useMovxs (d : BitVec 7) (t : TailV) : Use :=
  { legal := vOnly t true true false true true 0 && t.sh ≠ 0 && grpOk t.sh t.b
    regs := [(d.toNat, 1), grp t.sh t.b], srcs := [d.toNat]
    dyn := fun a ix => if (movGroup a ix d.toNat t.c.toNat (shRegs t.sh.toNat)).isEmpty then [] else grpList t.sh t.b
    look := fun _ x => predGran x t.p.toNat }

/-- MOVXS (R158). -/
def execMovxs (d : BitVec 7) (t : TailV) (s : State) : Host.Outcome State Fault Refusal :=
  multiSet (shRegs t.sh.toNat) (useMovxs d t) (fun e a => do
    let x := a.ctx e.ix
    let cnt := shRegs t.sh.toNat
    let w ← regRead a e.ix d.toNat
    let i ← movIndex x w t.c.toNat cnt
    let v ← grpRead a e.ix t.sh t.b
    pure (regsWrite a e.ix i v (regMask (predOf a x t) t.pn cnt) cnt)) s

/-! ## GATH and SCAT (R159) -/

/-- Types GATH and SCAT accept: not E2M1, SI4, UI4, B1. -/
def gathTy (ty : Nat) : Bool := decide (ty ≤ 0x0F ∨ ty = 0x13 ∨ ty = 0x14)

/-- The elements of a GATH or SCAT that its predicate enables. -/
def gathOn (a : SetState) (x : Ctx) (t : TailV) : List Nat :=
  let w := tyBits t.ty.toNat
  (List.range (shElems t.sh.toNat w)).filter (elemOn (predOf a x t) t.pn w)

/-- The register of a group that holds element `i` of width `w`. -/
def elemReg (r : BitVec 7) (w i : Nat) : Nat := r.toNat + i * w / 128

def useGath (d : BitVec 7) (t : TailV) : Use :=
  { legal := vOnly t true true true true true 7 && gathTy t.ty.toNat && grpOk t.sh d && grpOk t.sh t.c
    regs := [grp t.sh d, (t.b.toNat, 1), grp t.sh t.c]
    dyn := fun a ix => (gathOn a (a.ctx ix) t).flatMap (fun i => [t.b.toNat, elemReg t.c (tyBits t.ty.toNat) i])
    look := vLook d t (tyBits t.ty.toNat) }

def useScat (d : BitVec 7) (t : TailV) : Use :=
  { legal := vOnly t true true true true true 7 && gathTy t.ty.toNat && grpOk t.sh d && grpOk t.sh t.c
    regs := [grp t.sh d, (t.b.toNat, 1), grp t.sh t.c]
    dyn := fun a ix => (gathOn a (a.ctx ix) t).flatMap (fun i =>
      [t.b.toNat, elemReg t.c (tyBits t.ty.toNat) i, elemReg d (tyBits t.ty.toNat) i])
    look := fun _ x => predGran x t.p.toNat }

/-- Element `i` of width `w` of the group at `r`, its register read as a source. -/
def elemRead (a : SetState) (ix : Nat) (r : BitVec 7) (w i : Nat) : Res Nat := do
  let v ← regRead a ix (elemReg r w i)
  pure (elem v.toNat w (i % (128 / w)))

/-- Address of element `i`, with its ALIGN and LOCAL_RANGE. -/
def gathAddr (a : SetState) (ix : Nat) (t : TailV) (i : Nat) : Res Nat := do
  let w := tyBits t.ty.toNat
  let b ← regRead a ix t.b.toNat
  let k ← elemRead a ix t.c w i
  let p := fld b 63 0 + k * 2 ^ (t.f.toNat % 8)
  if p % (w / 8) ≠ 0 then raiseAt alignFault p else if 2 ^ 20 ≤ p then raiseAt localRange p else .ok p

/-- Reads the enabled elements listed, in ascending order, each with its index. -/
def gathElems (a : SetState) (ix : Nat) (t : TailV) : List Nat → Res (List (Nat × Nat))
  | [] => .ok []
  | i :: is => do
    let p ← gathAddr a ix t i
    let v ← padRd a (a.ctx ix) p p (tyBits t.ty.toNat / 8)
    let r ← gathElems a ix t is
    pure ((i, if t.ty.toNat = 0x0E ∨ t.ty.toNat = 0x0F then v % 64 else v) :: r)

/-- The value of element `i` in a list of computed elements, 0 when it is not there. -/
def pick (l : List (Nat × Nat)) (i : Nat) : Nat := ((l.find? (fun p => decide (p.1 = i))).map (·.2)).getD 0

/-- GATH (R159). -/
def execGath (d : BitVec 7) (t : TailV) (s : State) : Host.Outcome State Fault Refusal :=
  multiSet (shRegs t.sh.toNat) (useGath d t) (fun e a => do
    let x := a.ctx e.ix
    let w := tyBits t.ty.toNat
    let vs ← gathElems a e.ix t (gathOn a x t)
    pure (grpWrite a e.ix t.sh d w (predOf a x t) t.pn (elems w (pick vs) (shElems t.sh.toNat w)))) s

/-- Writes the enabled elements listed, in ascending order; the registers are those of `a`. -/
def scatElems (a : SetState) (ix : Nat) (d : BitVec 7) (t : TailV) : List Nat → SetState → Res SetState
  | [], s => .ok s
  | i :: is, s => do
    let w := tyBits t.ty.toNat
    let p ← gathAddr a ix t i
    let gen ← padCheck s (a.ctx ix) true p p (w / 8)
    let v ← elemRead a ix d w i
    scatElems a ix d t is { s with pad := padPut s.pad gen p (w / 8) v }

/-- SCAT (R159). -/
def execScat (d : BitVec 7) (t : TailV) (s : State) : Host.Outcome State Fault Refusal :=
  multiSet (shRegs t.sh.toNat) (useScat d t) (fun e a => scatElems a e.ix d t (gathOn a (a.ctx e.ix) t) a) s

/-! ## GENNEW and GENQ (R160, R161) -/

/-- Generation of region `r` set in a descriptor. -/
def Ctx.setGen (x : Ctx) (r : Nat) (g : BitVec 10) : Ctx :=
  match r with
  | 0 => { x with wgen := g }
  | 1 => { x with r1 := { x.r1 with gen := g } }
  | 2 => { x with r2 := { x.r2 with gen := g } }
  | _ => { x with r3 := { x.r3 with gen := g } }

/-- Does some range lock of paddock space overlap a byte range? -/
def lockOverlaps (a : SetState) (space lo n : Nat) : Bool :=
  a.locks.any (fun l => l.space = space && meets l.lo (l.hi + 1 - l.lo) lo n)

/-- A renewed generation for region `r` of context `ix` of the active set, once no lock overlaps it and Alloc grants; none
while it stalls, with the core as the stall leaves it. -/
def gennewRegion (k : Core) (ix r who : Nat) : Except Core Core :=
  let x := k.act.ctx ix
  let (lo, n, _) := x.region r
  if lockOverlaps k.act 0 lo n then .error k
  else if allocStalls k then .error (k.allocWait who)
  else
    let a := k.act.setCtx ix (x.setGen r k.next)
    .ok ({ k with act := a }).allocDone

def useGennew (d : BitVec 7) (t : TailV) : Use :=
  { legal := vOnly t false false false false false 3, regs := [(d.toNat, 1)] }

/-- GENNEW (R160). -/
def execGennew (d : BitVec 7) (t : TailV) (s : State) : Host.Outcome State Fault Refusal :=
  ctxRun (useGennew d t) (fun e s =>
    let k := s.core e.d e.c
    let r := t.f.toNat % 4
    let x := k.act.ctx e.ix
    if r ≠ 0 ∧ (x.region r).2.1 = 0 then .ok (s.setAct e.d e.c (regWrite k.act e.ix d.toNat 0 allBytes))
    else
      match gennewRegion k e.ix r e.sl with
      | .error k' => .error (.stall (s.setCore e.d e.c k'))
      | .ok k' => .ok (s.setCore e.d e.c { k' with act := regWrite k'.act e.ix d.toNat k.next.toNat allBytes })) s

def useGenq (d : BitVec 7) (t : TailV) : Use :=
  { legal := vOnly t false false false false false 3, regs := [(d.toNat, 1)] }

/-- The value GENQ writes for region `r` (R161). -/
def genqValue (k : Core) (x : Ctx) (r : Nat) : Nat :=
  let (lo, n, gen) := x.region r
  let (lo, gen) := if n = 0 then (0, 0) else (lo, gen.toNat)
  lo % 2 ^ 20 + n * 2 ^ 64 + gen * 2 ^ 96 + k.next.toNat * 2 ^ 112 + b2n (!allocStalls k) * 2 ^ 122

/-- GENQ, region form (R161). -/
def execGenq (d : BitVec 7) (t : TailV) (s : State) : Host.Outcome State Fault Refusal :=
  ctxRun (useGenq d t) (fun e s =>
    let k := s.core e.d e.c
    .ok (s.setAct e.d e.c (regWrite k.act e.ix d.toNat (genqValue k (k.act.ctx e.ix) (t.f.toNat % 4)) allBytes))) s

def useGenqGran (d : BitVec 7) (t : TailV) : Use :=
  { legal := vOnly t true false false false false 4 && t.f = 4, regs := [(d.toNat, 1), (t.b.toNat, 1)], srcs := [t.b.toNat] }

/-- GENQ.gran (R161): LIVE and the region's index. -/
def execGenqGran (d : BitVec 7) (t : TailV) (s : State) : Host.Outcome State Fault Refusal :=
  setRun (useGenqGran d t) (fun e a => do
    let x := a.ctx e.ix
    let b ← regRead a e.ix t.b.toNat
    let p := fld b 63 0
    match (if 2 ^ 20 ≤ p then none else x.regionOf p 1) with
    | none => raiseAt localRange p
    | some r =>
      pure (regWrite a e.ix d.toNat (b2n (granLive a.pad (p / 16) (x.region r).2.2) + 2 * r) allBytes)) s

end Sys2Proof.Machine
end

