-- ==== Sys2Proof/Machine/Access.lean ====
section
/-! DEFINITION. Global accesses: rights (R400, R401), translation (R403, R404), fabric addresses and their classes (R227,
R228, R497), the memory behind the caches, the paddock cache, directories and the store buffer (R229 to R236). -/

namespace Sys2Proof

/-- Die and logical core of an agent. -/
def Agent.die : Agent → Nat | .slot d _ _ => d | .hart d _ => d
def Agent.core : Agent → Nat | .slot _ c _ => c | .hart _ c => c
/-- Key of an agent's pending access in its core. -/
def Agent.key : Agent → Nat | .slot _ _ i => i | .hart _ _ => 32

end Sys2Proof

namespace Sys2Proof.Machine

/-! ## Fabric addresses (R227) -/

def faPkg (fa : Nat) : Nat := fa >>> 52
def faDie (fa : Nat) : Nat := fa >>> 48 % 16
def faClass (fa : Nat) : Nat := fa >>> 45 % 8
def faUnit (fa : Nat) : Nat := fa >>> 38 % 128
def faOff (fa : Nat) : Nat := fa % 2 ^ 38

/-- Is the offset within its class's range, and DIE and UNIT within theirs (R227)? -/
def faOk (fa : Nat) : Bool :=
  decide (faDie fa < 12) &&
  match faClass fa with
  | 0 => decide (faUnit fa < 104 ∧ faOff fa < 2 ^ 20)
  | 1 => decide (faUnit fa < 104 ∧ faOff fa < 2 ^ 18)
  | 2 => decide (faUnit fa < 24 ∧ faOff fa < 2 ^ 24)
  | 3 => decide (faUnit fa < 2 ∧ faOff fa < 2 ^ 36)
  | 5 => decide (faUnit fa = 0)
  | 7 => false
  | _ => true

/-- Is the fabric address in this package? A home in another package is not in this state: what it answers is free. -/
def State.here (s : State) (fa : Nat) : Bool := decide (faPkg fa = s.pkg.toNat)

/-- Home slice of a line of class 2 or 3 (R229). -/
def homeSlice (fa : Nat) : Nat :=
  if faClass fa = 2 then faUnit fa else ((faOff fa >>> 6) + 12 * faUnit fa) % 24

/-- Physical core of a logical core, and back (R11). -/
def physOf (v : Die) (c : Nat) : Nat := tget c v.phys c
def logicalOf (v : Die) (p : Nat) : Option Nat := (List.range 96).find? (fun c => decide (physOf v c = p))

/-- Fabric address from its fields. -/
def mkFa (pkg die cls unit off : Nat) : Nat := pkg * 2 ^ 52 + die * 2 ^ 48 + cls * 2 ^ 45 + unit * 2 ^ 38 + off

/-! ## Packages (R449 to R452, R497) -/

/-- The port a route takes from coordinate `x` to `y` on a ring of `n`: none when they agree. -/
def ringPort (dim x y n : Nat) : Option Nat :=
  if x = y then none else if 2 * ((y + n - x) % n) ≤ n then some (2 * dim + 1) else some (2 * dim)

/-- The Lamong port a packet for package `p` leaves this package by. -/
def State.routePort (s : State) (p : Nat) : Option Nat :=
  let me := s.pkg.toNat
  (ringPort 0 (me % 16) (p % 16) s.sx).or ((ringPort 1 (me / 16 % 16) (p / 16 % 16) s.sy).or
    (ringPort 2 (me / 256) (p / 256) s.sz))

/-- Is a package unreachable by what this package knows (R452)? -/
def State.unreachable (s : State) (p : Nat) : Bool :=
  decide (p ≠ s.pkg.toNat) &&
  (decide (s.sx ≤ p % 16 ∨ s.sy ≤ p / 16 % 16 ∨ s.sz ≤ p / 256) ||
   match s.routePort p with
   | some i => !s.up.getLsbD i
   | none => false)

/-! ## Agents and what they ask -/

def State.pend (s : State) (a : Agent) : Pend := (s.core a.die a.core).pendOf a.key
def State.setPend (s : State) (a : Agent) (p : Pend) : State := s.setCore a.die a.core ((s.core a.die a.core).setPend a.key p)

/-- The agent now asks `q`; what it already asked of the same kind goes on. -/
def State.ask (s : State) (a : Agent) (q : Ask) : State := s.setPend a { s.pend a with ask := q }

/-- Domain of an agent's accesses. -/
def State.domOf (s : State) (a : Agent) : BitVec 12 :=
  match a with
  | .slot d c i => ((s.act d c).ctx ((s.act d c).slot i).ix).dom
  | .hart d c => (s.core d c).dom

/-! ## Rights (R400, R401) -/

/-- The rights an access needs. -/
structure Need where
  r : Bool := false
  w : Bool := false
  x : Bool := false
  e : Bool := false
  k : Bool := false
  deriving DecidableEq, Repr

/-- Page size of a PSZ code. -/
def pageBytes (psz : Nat) : Nat := match psz with | 0 => 2 ^ 16 | 1 => 2 ^ 21 | 2 => 2 ^ 26 | _ => 2 ^ 31

/-- Does a PLB entry match a domain and address (R400)? -/
def PlbEntry.hits (p : PlbEntry) (dom : BitVec 12) (va : Nat) : Bool :=
  p.v && decide (p.dom = dom) &&
  decide (p.base.toNat ≤ va ∧
    va < p.base.toNat + (if p.pcnt = 0 then 65536 else p.pcnt.toNat) * pageBytes p.psz.toNat)

/-- Does an entry grant what is needed? -/
def PlbEntry.grants (p : PlbEntry) (n : Need) : Bool :=
  (!n.r || p.r) && (!n.w || p.w) && (!n.x || p.x) && (!n.e || p.e) && (!n.k || p.k)

/-- The lowest matching PLB entry. -/
def plbFind (k : Core) (dom : BitVec 12) (va : Nat) : Option (Nat × PlbEntry) := k.plb.find? (fun p => p.2.hits dom va)

/-- How a check of one address ends. -/
inductive Look where
  | ok (fa : Nat)
  | prot
  | page
  | remote
  | ask (q : Ask)
  deriving DecidableEq, Repr

/-- The rights of one address for an agent: a match decides; with none the core asks its translation agent, whose answer of
no range fails the access. -/
def rightsAt (k : Core) (p : Pend) (dom : BitVec 12) (n : Need) (va : Nat) : Look :=
  if 2 ^ 57 ≤ va then .prot
  else
    match plbFind k dom va with
    | some (_, en) => if en.grants n then .ok 0 else .prot
    | none =>
      match p.ans with
      | .noRange v => if v / 65536 = va / 65536 then .prot else .ask (.plb va)
      | _ => .ask (.plb va)

/-! ## Shootdowns (R406) -/

def shootScope (v : W64) : Nat := fld v 62 61
def shootBase (v : W64) : Nat := fld v 40 0 * 65536
def shootBytes (v : W64) : Nat := pageBytes (fld v 47 46)

/-- Does a line or page of `n` bytes at `va` meet the range? -/
def inShoot (v : W64) (va n : Nat) : Bool := meets va n (shootBase v) (shootBytes v)

/-- Is a shootdown of the address under way on die `d`? -/
def shootOn (s : State) (d va : Nat) : Bool :=
  s.dies.any (fun p => bit p.2.shoot 63 && (decide (p.1 = d) || decide (shootScope p.2.shoot = 1)) && inShoot p.2.shoot va 64)

/-- The cached translation of an address at a die (R404). -/
def tlbAt (v : Die) (va : Nat) : Option Nat :=
  (v.tlb.find? (fun t => let n := pageBytes t.2.psz.toNat
    decide (t.1 * 65536 ≤ va ∧ va < t.1 * 65536 + n))).map (fun t => t.2.fa + (va - t.1 * 65536))

/-- The translation of one address: cached, missing, or to be walked. -/
def transAt (v : Die) (p : Pend) (va : Nat) : Look :=
  match tlbAt v va with
  | some fa => .ok fa
  | none =>
    match p.ans with
    | .noPage w => if w / 65536 = va / 65536 then .page else .ask (.walk va)
    | _ => .ask (.walk va)

/-- While a shootdown of the address is under way, only what the table then gives is installed under it (R406, R410). -/
def mayInstall (s : State) (d va fa : Nat) : Bool :=
  !shootOn s d va || (tlbAt (s.die d) va).any (fun f => decide (f / 64 = fa / 64))

/-- The 64 KiB pages of [va, va+n-1], by the first byte of the range in each. -/
def pagesOf (va n : Nat) : List Nat :=
  if n = 0 then []
  else (List.range ((va + n - 1) / 65536 - va / 65536 + 1)).map (fun i => if i = 0 then va else (va / 65536 + i) * 65536)

/-! ## Host and pool windows (R10, R454) -/

/-- The die that carries a PCIe port. -/
def portDie (port : Nat) : Nat := if port = 0 then 0 else 11

/-- Reset value of a die-controller register of UNIT 106: RTHR and RATE (R467) and CAPMW (R490) have values of their own. -/
def regReset (off : Nat) : W64 :=
  if off = 0x58000 then 0x0000100000000100
  else if off = 0x60008 then 0x927C0
  else 0

/-- A die-controller register of UNIT 106, 8 bytes at an offset. -/
def Die.reg (v : Die) (off : Nat) : W64 := tget (regReset off) v.ctl off

/-- The register written. -/
def Die.setReg (v : Die) (off : Nat) (x : W64) : Die := { v with ctl := tset (regReset off) v.ctl off x }

/-- The window record of the port that a die carries. -/
def windowRec (v : Die) : BitVec 256 := v.reg 0x71018 ++ v.reg 0x71010 ++ v.reg 0x71008 ++ v.reg 0x71000

/-- The bus address of a class 6 access, inside the window of its port. -/
def hostBus (s : State) (fa : Nat) : Option Nat :=
  let r := windowRec (s.die (portDie (faUnit fa % 2)))
  if faOff fa < fld r 191 154 then some (fld r 255 192 + faOff fa) else none

/-- The pool address of a class 5 access: port 1 in CXL mode. -/
def poolBus (s : State) (fa : Nat) : Option Nat :=
  let r := windowRec (s.die 11)
  if s.cxlMode && decide (faUnit fa = 0 ∧ faOff fa < fld r 63 26) then some (fld r 127 64 + faOff fa) else none

/-- The columns of R228: LDG and STG, RED, ATOM and CAS (with: is it a host AtomicOp of R243), LDNC and fetch. -/
inductive ClassUse where
  | plain
  | red
  | atomic (host : Bool)
  | cached
  deriving DecidableEq, Repr

/-- The table of R228: may the use reach the class at all? -/
def classMay (u : ClassUse) (fa : Nat) : Bool :=
  match faClass fa with
  | 0 => decide (u ≠ .cached)
  | 2 | 3 => true
  | 4 => decide ((u = .plain ∨ u = .red) ∧ faUnit fa < 104)
  | 6 => decide (u = .plain ∨ u = .atomic true)
  | _ => false

/-- PROT, then REMOTE, or the address (R228, R249). -/
def classLook (s : State) (fa : Nat) (u : ClassUse) : Look :=
  if !classMay u fa then .prot
  else if faClass fa = 4 then (if s.unreachable (faPkg fa) then .remote else .ok fa)
  else if !faOk fa || s.unreachable (faPkg fa) ||
       (decide (faClass fa = 6 ∧ faPkg fa = s.pkg.toNat) && (hostBus s fa).isNone) then .remote
  else .ok fa

/-! ## Memory behind the caches -/

/-- A line of backing memory (R229): classes 2 and 3, keyed by fabric address. -/
def memLine (s : State) (fa : Nat) : Line := BitVec.ofNat 512 (memRead s.mem (fa / 64 * 64) 64)

/-! ## Protected words in error (R462, R464) -/

/-- Bytes of the protected word at a fabric address: SRAM, or HBM. -/
def wordLen (fa : Nat) : Nat := if faClass fa = 3 then 64 else 16

/-- A word in error that the `n` bytes at `fa` touch. -/
def State.badWord (s : State) (fa n : Nat) : Option Nat :=
  s.memBad.find? (fun w => decide (w < fa + n ∧ fa < w + wordLen w))

/-- One that a write of those bytes would merge into: not written whole. -/
def State.badMerge (s : State) (fa n : Nat) : Option Nat :=
  s.memBad.find? (fun w => decide (w < fa + n ∧ fa < w + wordLen w) && !decide (fa ≤ w ∧ w + wordLen w ≤ fa + n))

/-- The words that a write of `n` bytes at `fa` leaves in error: one written whole is good again. -/
def State.mended (s : State) (fa n : Nat) : State :=
  { s with memBad := s.memBad.filter (fun w => !decide (fa ≤ w ∧ w + wordLen w ≤ fa + n)) }

/-- A word's error is detected: it counts at its pasture slice or HBM stack (R467). -/
def State.detectWord (s : State) (w : Nat) : State := s.detect (faDie w) (if faClass w = 3 then 128 + faUnit w else 104 + faUnit w)

/-- A line written back. -/
def setMemLine (s : State) (fa : Nat) (l : Line) : State :=
  ({ s with mem := memWrite s.mem (fa / 64 * 64) 64 l.toNat } : State).mended (fa / 64 * 64) 64

def Die.dirOf (v : Die) (fa : Nat) : DirEntry := tget {} v.dir (fa / 64 * 64)
def State.dirOf (s : State) (fa : Nat) : DirEntry := (s.die (faDie fa)).dirOf fa
def State.setDir (s : State) (fa : Nat) (x : DirEntry) : State :=
  let v := s.die (faDie fa)
  s.setDie (faDie fa) { v with dir := tset {} v.dir (fa / 64 * 64) x }

/-- The directory pointer of a core, as seen from a line's home (R230, R232). -/
def ptrOf (s : State) (fa d c : Nat) : Ptr := if faDie fa = d ∧ faPkg fa = s.pkg.toNat then .core c else .proxy d

/-- The line a core's set caches, active set first (R233). -/
def cachedLine (k : Core) (fa : Nat) : Option CacheLine :=
  (tfind k.act.lines (fa / 64 * 64)).or (tfind k.shd.lines (fa / 64 * 64))

/-- The hart's LR reservation of a line is lost. -/
def Core.unreserve (k : Core) (fa : Nat) : Core :=
  if k.hart.resv.any (fun r => decide (r / 64 = fa / 64)) then { k with hart := { k.hart with resv := none } } else k

/-- A core loses a line from both its sets (an invalidation), and a fill of it under way will not install. -/
def dropLine (k : Core) (fa : Nat) : Core :=
  let la := fa / 64 * 64
  let k := k.unreserve fa
  { k with
    act := { k.act with lines := tdel k.act.lines la }
    shd := { k.shd with lines := tdel k.shd.lines la }
    pend := k.pend.map (fun p => match p.2.ask with
      | .fill va f l _ => if f / 64 * 64 = la then (p.1, { p.2 with ask := .fill va f l false }) else p
      | _ => p) }

/-- A core's copy of a line, changed by `f`, in whichever set holds it. -/
def mapLine (k : Core) (fa : Nat) (f : CacheLine → CacheLine) : Core :=
  let la := fa / 64 * 64
  match tfind k.act.lines la with
  | some l => { k with act := { k.act with lines := tins k.act.lines la (f l) } }
  | none =>
    match tfind k.shd.lines la with
    | some l => { k with shd := { k.shd with lines := tins k.shd.lines la (f l) } }
    | none => k

/-- The current value of a line wherever its dirty copy is: the owner's copy, else memory. -/
def lineValue (s : State) (fa : Nat) : Line :=
  match (s.dirOf fa).ptrs with
  | [.core c] =>
    match cachedLine (s.core (faDie fa) c) fa with
    | some l => if l.dirty then l.data else memLine s fa
    | none => memLine s fa
  | [.proxy d] =>
    let x := tget {} (s.die d).proxy (fa / 64 * 64)
    if x.own then x.data else memLine s fa
  | _ => memLine s fa

/-- Is a copy of the line newer than memory? -/
def lineDirty (s : State) (fa : Nat) : Bool :=
  match (s.dirOf fa).ptrs with
  | [.core c] => (cachedLine (s.core (faDie fa) c) fa).any (fun l => l.dirty)
  | [.proxy d] => (tget {} (s.die d).proxy (fa / 64 * 64)).own
  | _ => false

/-- Writes every dirty copy of a line back; copies stay valid and clean (R246). -/
def cleanLine (s : State) (fa : Nat) : State :=
  let v := lineValue s fa
  let dirty := lineDirty s fa
  let s := match (s.dirOf fa).ptrs with
    | [.core c] => s.setCore (faDie fa) c (mapLine (s.core (faDie fa) c) fa (fun l => { l with dirty := false }))
    | [.proxy d] =>
      let w := s.die d
      match tfind w.proxy (fa / 64 * 64) with
      | some x => s.setDie d { w with proxy := tins w.proxy (fa / 64 * 64) { x with own := false } }
      | none => s
    | _ => s
  if dirty then setMemLine s fa v else s

/-- Removes one copy of a line, writing it back first when dirty (R232, R236). -/
def dropCopy (s : State) (fa : Nat) (p : Ptr) : State :=
  match p with
  | .core c =>
    let s := cleanLine s fa
    s.setCore (faDie fa) c (dropLine (s.core (faDie fa) c) fa)
  | .proxy d =>
    let s := cleanLine s fa
    let x := tget {} (s.die d).proxy (fa / 64 * 64)
    let s := (List.range 96).foldl (fun s c =>
      if x.sharers.getLsbD c then s.setCore d c (dropLine (s.core d c) fa) else s) s
    let v := s.die d
    s.setDie d { v with proxy := tdel v.proxy (fa / 64 * 64) }

/-- All copies a directory knows of. -/
def DirEntry.copies (x : DirEntry) : List Ptr := x.ptrs ++ x.kept

/-- Removes every copy of a line at once: an atomic, a host write or an eviction performs after all acknowledgements. -/
def dropAllCopies (s : State) (fa : Nat) : State :=
  let x := s.dirOf fa
  let s := x.copies.foldl (fun s p => dropCopy s fa p) s
  s.setDir fa { x with
    st := if x.st = .p then .p else .i, ptrs := [], ovf := false, kept := [], pendAck := [], keeperAck := false }

/-- Bytes put at their homes: line by line every copy is invalidated first. -/
def putHome (s : State) (fa : Nat) : List Byte → State
  | [] => s
  | b :: bs =>
    let s := if (s.dirOf fa).copies.isEmpty then s else dropAllCopies s fa
    putHome { s with mem := memSet s.mem fa b } (fa + 1) bs

/-- Bytes written at their homes at once, as stores that perform (R236); a protected word written whole is good again. -/
def storeBytes (s : State) (fa : Nat) (bs : List Byte) : State := (putHome s fa bs).mended fa bs.length

/-- May the home serve a request for the line now? Not while a write is pending (R236). -/
def homeFree (s : State) (fa : Nat) : Bool := decide ((s.dirOf fa).st ≠ .p)

/-! ## The store buffer (R234) -/

/-- Places an access takes: one per 64-byte line it touches. -/
def sbPlaces (ps : List (Nat × List Byte)) : Nat := ((ps.map (fun p => p.1 / 64)).eraseDups).length

/-- Free places of the 32. -/
def sbRoom (k : Core) : Nat := 32 - (k.sb.map (fun e => sbPlaces e.pieces)).sum

/-- One byte as the storing agent sees it: its own buffered stores, youngest first (R234). -/
def forwardByte (k : Core) (hart : Bool) (ix : Nat) (inc : BitVec 10) (fa : Nat) : Option Byte :=
  k.sb.foldl (fun r e =>
    if e.hart = hart && (hart || (decide (e.ix = ix) && decide (e.inc = inc))) && decide (e.op = .store) then
      match e.pieces.findSome? (fun p => if p.1 ≤ fa ∧ fa < p.1 + p.2.length then p.2[fa - p.1]? else none) with
      | some b => some b
      | none => r
    else r) none

/-- A buffered RED of the agent covers the byte: a load of it waits until the RED has performed. -/
def redPending (k : Core) (hart : Bool) (ix : Nat) (inc : BitVec 10) (fa : Nat) : Bool :=
  k.sb.any (fun e => e.hart = hart && (hart || (decide (e.ix = ix) && decide (e.inc = inc))) && decide (e.op ≠ .store) &&
    e.pieces.any (fun p => decide (p.1 ≤ fa ∧ fa < p.1 + p.2.length)))

/-- Who an agent is in the store buffer: hart, context index, incarnation. -/
def State.storer (s : State) (a : Agent) : Bool × Nat × BitVec 10 :=
  match a with
  | .slot d c i => let ix := ((s.act d c).slot i).ix; (false, ix, ((s.act d c).ctx ix).inc)
  | .hart _ _ => (true, 0, 0)

/-- Appends a store to its core's buffer. -/
def pushStore (s : State) (a : Agent) (va : Nat) (ps : List (Nat × List Byte)) (op : AccOp) (ord scope : BitVec 3) : State :=
  let k := s.core a.die a.core
  let (h, ix, inc) := s.storer a
  s.setCore a.die a.core { k with
    sb := k.sb ++ [{ seq := k.sbSeq, hart := h, ix := ix, inc := inc, va := va, pieces := ps, op := op, ord := ord,
                     scope := scope, dom := s.domOf a }]
    sbSeq := k.sbSeq + 1 }

/-! ## Looking up an access (R241, R403, R409) -/

/-- Raises what a look found; an ask stalls the agent with the request registered. `acc` is the access kind of an upcall. -/
def lookFail {α : Type} (s : State) (a : Agent) (va acc fa : Nat) : Look → Res α
  | .prot => .error (.fault { code := prot, faddr := some va, acc := acc })
  | .page => .error (.fault { code := pageFault, faddr := some va, acc := acc })
  | .remote => raiseAt remoteFault fa
  | .ask q => .error (.stall (s.ask a q))
  | .ok _ => .error (.stall s)

/-- Rights of every page of a range, lowest first. -/
def rightsRange (s : State) (a : Agent) (n : Need) (acc : Nat) : List Nat → Res Unit
  | [] => .ok ()
  | va :: vs =>
    match rightsAt (s.core a.die a.core) (s.pend a) (s.domOf a) n va with
    | .ok _ => rightsRange s a n acc vs
    | l => lookFail s a va acc 0 l

/-- The fabric address of one byte for an access that must be translated, after the class check. -/
def transClass (s : State) (a : Agent) (acc : Nat) (u : ClassUse) (ea va : Nat) : Res Nat :=
  match transAt (s.die a.die) (s.pend a) va with
  | .ok fa =>
    match classLook s fa u with
    | .ok fa => .ok fa
    | .prot => .error (.fault { code := prot, faddr := some va, acc := acc })
    | l => lookFail s a va acc (if s.unreachable (faPkg fa) then ea else fa) l
  | l => lookFail s a va acc 0 l

/-- The line of a core's active cache portion that holds a virtual address (R233). -/
def hitLine (k : Core) (va : Nat) : Option (Nat × CacheLine) := k.act.lines.find? (fun p => decide (p.2.va = va / 64 * 64))

/-- The members of a core's victim group other than itself (R125). -/
def victimGroup (v : Die) (c : Nat) : List Nat :=
  let m := (v.core c).member
  if m.getLsbD (c % 4) then
    ((List.range 4).map (fun i => c / 4 * 4 + i)).filter (fun j =>
      decide (j ≠ c) && m.getLsbD (j % 4) && decide ((v.core j).member = m))
  else []

/-- The fabric line that a virtual address hits: in the core's own portion, else in its victim group's (R233, R403). -/
def hitAny (v : Die) (c va : Nat) : Option Nat :=
  ((hitLine (v.core c) va).map (·.1)).or ((victimGroup v c).findSome? (fun j => (hitLine (v.core j) va).map (·.1)))

/-- The fabric address of an access's byte: by a cache hit without translation, else translated (R403). -/
def hitFa (s : State) (a : Agent) (acc : Nat) (u : ClassUse) (ea va : Nat) : Res Nat :=
  match hitAny (s.die a.die) a.core va with
  | some la => if s.unreachable (faPkg la) then raiseAt remoteFault ea else .ok (la + va % 64)
  | none => transClass s a acc u ea va

/-- That of a load. -/
def loadFa (s : State) (a : Agent) (acc ea va : Nat) : Res Nat := hitFa s a acc .plain ea va

/-- A miss under one virtual address on a line that the core holds under another retags the copy (R405). -/
def retagLine (s : State) (a : Agent) (va : Nat) : State :=
  let k := s.core a.die a.core
  match hitAny (s.die a.die) a.core va, tlbAt (s.die a.die) va with
  | none, some fa =>
    match tfind k.act.lines (fa / 64 * 64) with
    | some l => s.setCore a.die a.core { k with act := { k.act with lines := tins k.act.lines (fa / 64 * 64) { l with va := va / 64 * 64 } } }
    | none => s
  | _, _ => s

/-- The copy of a line an agent can read at once: its core's own portion, its victim group's, or a line just fetched. -/
def readableLine (s : State) (a : Agent) (fa : Nat) : Option Line :=
  let v := s.die a.die
  let la := fa / 64 * 64
  ((tfind (v.core a.core).act.lines la).map (·.data)).or
    (((victimGroup v a.core).findSome? (fun j => (tfind (v.core j).act.lines la).map (·.data))).or
      (((s.pend a).got.find? (fun p => decide (p.1 = la))).map (·.2)))

/-- `n` bytes at `fa` for an agent, forwarded bytes first, then the line given. -/
def mixBytes (s : State) (a : Agent) (line : Line) (fa : Nat) : Nat → Nat
  | 0 => 0
  | n + 1 =>
    let (h, ix, inc) := s.storer a
    let b := match forwardByte (s.core a.die a.core) h ix inc fa with
      | some v => v.toNat
      | none => byteAt line.toNat (fa % 64)
    b + 256 * mixBytes s a line (fa + 1) n

/-- Are all `n` bytes at `fa` forwarded? -/
def allForwarded (s : State) (a : Agent) (fa : Nat) : Nat → Bool
  | 0 => true
  | n + 1 =>
    let (h, ix, inc) := s.storer a
    (forwardByte (s.core a.die a.core) h ix inc fa).isSome && allForwarded s a (fa + 1) n

/-- Is a buffered RED of the agent pending on one of the `n` bytes? -/
def redBlocks (s : State) (a : Agent) (fa : Nat) : Nat → Bool
  | 0 => false
  | n + 1 =>
    let (h, ix, inc) := s.storer a
    redPending (s.core a.die a.core) h ix inc fa || redBlocks s a (fa + 1) n

/-- Some of the `n` bytes at `fa` are written by the agent's own buffered stores. -/
def ownStores (s : State) (a : Agent) (fa n : Nat) : Bool :=
  let (h, ix, inc) := s.storer a
  (s.core a.die a.core).sb.any (fun e => e.hart = h && (h || (decide (e.ix = ix) && decide (e.inc = inc))) &&
    e.pieces.any (fun p => decide (p.1 < fa + n ∧ fa < p.1 + p.2.length)))

/-- A value that another agent has already returned for this access. -/
def gotVal (p : Pend) (fa : Nat) : Option (BitVec 128) := (p.val.find? (fun q => decide (q.1 = fa))).map (·.2)

/-- The agent waits for a line: what it already asked of the same line goes on. -/
def askLine (s : State) (a : Agent) (va fa : Nat) : State :=
  match (s.pend a).ask with
  | .line _ f => if f / 64 = fa / 64 then s else s.ask a (.line va fa)
  | .keep _ f _ => if f / 64 = fa / 64 then s else s.ask a (.line va fa)
  | .fill _ f _ _ => if f / 64 = fa / 64 then s else s.ask a (.line va fa)
  | _ => s.ask a (.line va fa)

/-- The agent waits for an access at a remote agent, a counter window, a home or the host. -/
def askOther (s : State) (a : Agent) (q : Ask) : State := if (s.pend a).ask = q then s else s.ask a q

/-- What an answer other than a value makes of an access to `ea`. -/
def answerFail (p : Pend) (ea : Nat) : Res Unit :=
  match p.ans with
  | .remote f => raiseAt remoteFault f
  | .uncorrected f => .error (.fault { code := uncorrectedFault, faddr := some f, counted := true })
  | .lost => raiseAt remoteFault ea
  | _ => .ok ()

/-- A load that its target answers (R260). It follows the agent's own earlier stores to the bytes: class 0 may be forwarded (R234). -/
def answeredPiece (s : State) (a : Agent) (fa m : Nat) (q : Ask) : Res Nat :=
  match gotVal (s.pend a) fa with
  | some v => .ok v.toNat
  | none =>
    if ownStores s a fa m then
      if faClass fa = 0 ∧ !redBlocks s a fa m ∧ allForwarded s a fa m then .ok (mixBytes s a 0 fa m) else .error (.stall s)
    else .error (.stall (askOther s a q))

/-- One piece of a load: `m` bytes at `va`, at most 16 and within one line. -/
def loadPiece (s : State) (a : Agent) (acc ea va m : Nat) : Res Nat := do
  let fa ← loadFa s a acc ea va
  answerFail (s.pend a) ea
  let x : Acc := { op := .load, fa := fa, size := m, dom := s.domOf a, va := va }
  match faClass fa with
  | 0 => answeredPiece s a fa m (.remote x)
  | 4 => answeredPiece s a fa m (.counter x)
  | 6 => answeredPiece s a fa m (.remote x)
  | _ =>
    if redBlocks s a fa m then .error (.stall s)
    else if allForwarded s a fa m then .ok (mixBytes s a 0 fa m)
    else
      match readableLine s a fa with
      | some l => .ok (mixBytes s a l fa m)
      | none => .error (.stall (askLine s a va fa))

end Sys2Proof.Machine
end

