-- ==== Sys2Proof/Machine/Global.lean ====
section
/-! DEFINITION. Global memory instructions: chapter 10 (R239 to R249, R497), and SEND with LNCH (R117). -/

namespace Sys2Proof.Machine

/-- The agent of an executing context. -/
def agentOf (e : Env) : Agent := .slot e.d e.c e.sl

/-- The instruction's access is over: nothing pending is left. -/
def endAccess (s : State) (a : Agent) : State := s.setPend a {}

/-! ## Class 4 and 6 targets (R213, R243) -/

/-- The counter an offset of the counter window names (R213). -/
def windowCounter (fa : Nat) : Option Nat :=
  let o := faOff fa
  if 0x100000 ≤ o ∧ o < 0x100000 + 2048 ∧ o % 8 = 0 then some ((o - 0x100000) / 8) else none

/-- An access of class 4 has the size and offset that R213 allows. -/
def windowOk (fa n : Nat) : Bool := n = 8 && (windowCounter fa).isSome

/-- REMOTE for a class 4 access of another size or offset. -/
def windowCheck (fa n : Nat) : Res Unit := if faClass fa = 4 && !windowOk fa n then raiseAt remoteFault fa else .ok ()

/-- REMOTE for a class 0 store that no live region of the set it goes to covers (R146, R249). -/
def paddockCheck (s : State) (dom : BitVec 12) (fa n : Nat) : Res Unit :=
  if faClass fa = 0 && decide (faPkg fa = s.pkg.toNat) then
    match logicalOf (s.die (faDie fa)) (faUnit fa) with
    | none => raiseAt remoteFault fa
    | some c =>
      match s.setFor (faDie fa) c dom.toNat with
      | some sh => if (((s.core (faDie fa) c).set sh).coverGen (faOff fa) n).isNone then raiseAt remoteFault fa else .ok ()
      | none => .ok ()
  else .ok ()

/-! ## LDG and LDNC (R241) -/

/-- The allowed ORD and SCOPE of an instruction (R239). -/
def ordOk (t : TailM) (l : List Nat) : Bool :=
  l.contains t.ord.toNat && decide (t.scope.toNat ≤ 6) && (t.ord ≠ 0 || t.scope = 0)

def useLdg (d : BitVec 7) (t : TailM) : Use :=
  { legal := ordOk t [0, 1, 4] && t.aop = 0 && t.sz ≠ 7 && mAligned t.sz d && (!t.sx || t.sz.toNat < 4)
    regs := (d.toNat, szRegs t.sz) :: (mAddrRegs t).map (fun r => (r, 1))
    dyn := fun a ix => if (mEnabled a (a.ctx ix) t).isEmpty then [] else mAddrRegs t
    look := fun _ x => predGran x t.p.toNat }

/-- Rights and translation of every enabled register of a load, lowest byte first. -/
def loadChecks (s : State) (a : Agent) (ea m : Nat) : List Nat → Res Unit
  | [] => .ok ()
  | k :: ks => do
    let va := ea + 16 * k
    match rightsAt (s.core a.die a.core) (s.pend a) (s.domOf a) { r := true } va with
    | .ok _ => do
      let fa ← loadFa s a 1 ea va
      windowCheck fa m
      loadChecks s a ea m ks
    | l => lookFail s a va 1 0 l

/-- The values of the enabled registers of a load. -/
def loadPieces (s : State) (a : Agent) (ea m : Nat) : List Nat → Res (List (Nat × Nat))
  | [] => .ok []
  | k :: ks => do
    let v ← loadPiece s a 1 ea (ea + 16 * k) m
    let r ← loadPieces s a ea m ks
    pure ((k, v) :: r)

/-- The loaded values written to the registers of the group. -/
def writeLoaded (s : State) (e : Env) (sx : Bool) (d m : Nat) (vs : List (Nat × Nat)) : State :=
  s.setAct e.d e.c (vs.foldl (fun a kv => regWrite a e.ix (d + kv.1) (extend sx m kv.2) allBytes) (s.act e.d e.c))

/-- A stalled load is remembered, so that its reply can complete it (R241). -/
def noteLoad {α : Type} (a : Agent) (l : BitVec 7 × TailM × Bool) : Res α → Res α
  | .error (.stall s) => .error (.stall (s.setPend a { s.pend a with load := some l }))
  | r => r

/-- An LDG with ORD 4 takes its place in the total order after its context's earlier ORD 4 stores at that scope: it waits until they have
performed (R259). -/
def scWaits (s : State) (e : Env) (t : TailM) : Bool :=
  t.ord = 4 && (s.core e.d e.c).sb.any (fun x => !x.hart && decide (x.ix = e.ix ∧ x.inc = (s.ctx e).inc ∧ x.ord = 4 ∧ x.scope = t.scope))

/-- LDG (R241). -/
def ldgBody (d : BitVec 7) (t : TailM) (e : Env) (s : State) : Res State := do
  let a := s.act e.d e.c
  let ks := mEnabled a (s.ctx e) t
  if ks.isEmpty then pure s
  else
    let ea ← mEa a e.ix t
    let m := Nat.min (szBytes t.sz) 16
    if ea % m ≠ 0 then raiseAt alignFault ea
    else
      noteLoad (agentOf e) (d, t, false) (do
        loadChecks s (agentOf e) ea m ks
        if scWaits s e t then .error (.stall s)
        let s := ks.foldl (fun s k => retagLine s (agentOf e) (ea + 16 * k)) s
        let vs ← loadPieces s (agentOf e) ea m ks
        pure (endAccess (writeLoaded s e t.sx d.toNat m vs) (agentOf e)))

def execLdg (d : BitVec 7) (t : TailM) (s : State) : Host.Outcome State Fault Refusal :=
  ctxRun (useLdg d t) (ldgBody d t) s

def useLdnc (d : BitVec 7) (t : TailM) : Use :=
  { legal := t.ord = 0 && t.scope = 0 && t.aop = 0 && t.sz ≠ 7 && mAligned t.sz d && (!t.sx || t.sz.toNat < 4)
    regs := (d.toNat, szRegs t.sz) :: (mAddrRegs t).map (fun r => (r, 1))
    dyn := fun a ix => if (mEnabled a (a.ctx ix) t).isEmpty then [] else mAddrRegs t
    look := fun _ x => predGran x t.p.toNat }

/-- The fabric address an access through the fabric cache needs on a miss: classes 2 and 3 only (R228). -/
def fabTrans (s : State) (a : Agent) (acc ea va : Nat) : Res Nat := transClass s a acc .cached ea va

/-- `m` bytes through the die's read-only fabric cache (R237). -/
def fabPiece (s : State) (a : Agent) (acc ea va m : Nat) : Res Nat := do
  match tfind (s.die a.die).fab (va / 64 * 64) with
  | some (la, l) =>
    if s.unreachable (faPkg la) then raiseAt remoteFault ea else .ok ((l.toNat >>> (8 * (va % 64))) % 2 ^ (8 * m))
  | none =>
    let fa ← fabTrans s a acc ea va
    answerFail (s.pend a) ea
    .error (.stall (askOther s a (.fab (va / 64 * 64) (fa / 64 * 64))))

/-- Rights and translation of an LDNC, then its values. -/
def ldncChecks (s : State) (a : Agent) (ea : Nat) : List Nat → Res Unit
  | [] => .ok ()
  | k :: ks => do
    let va := ea + 16 * k
    match rightsAt (s.core a.die a.core) (s.pend a) (s.domOf a) { r := true } va with
    | .ok _ => do
      if (tfind (s.die a.die).fab (va / 64 * 64)).isSome then ldncChecks s a ea ks
      else do
        let _ ← fabTrans s a 1 ea va
        ldncChecks s a ea ks
    | l => lookFail s a va 1 0 l

def ldncPieces (s : State) (a : Agent) (ea m : Nat) : List Nat → Res (List (Nat × Nat))
  | [] => .ok []
  | k :: ks => do
    let v ← fabPiece s a 1 ea (ea + 16 * k) m
    let r ← ldncPieces s a ea m ks
    pure ((k, v) :: r)

/-- LDNC (R241). -/
def ldncBody (d : BitVec 7) (t : TailM) (e : Env) (s : State) : Res State := do
  let a := s.act e.d e.c
  let ks := mEnabled a (s.ctx e) t
  if ks.isEmpty then pure s
  else
    let ea ← mEa a e.ix t
    let m := Nat.min (szBytes t.sz) 16
    if ea % m ≠ 0 then raiseAt alignFault ea
    else
      noteLoad (agentOf e) (d, t, true) (do
        ldncChecks s (agentOf e) ea ks
        let vs ← ldncPieces s (agentOf e) ea m ks
        pure (endAccess (writeLoaded s e t.sx d.toNat m vs) (agentOf e)))

def execLdnc (d : BitVec 7) (t : TailM) (s : State) : Host.Outcome State Fault Refusal :=
  ctxRun (useLdnc d t) (ldncBody d t) s

/-! ## STG and RED (R234, R241, R242) -/

def useStg (d : BitVec 7) (t : TailM) : Use :=
  { legal := ordOk t [0, 2, 4] && t.aop = 0 && t.sz ≠ 7 && mAligned t.sz d && !t.sx
    regs := (d.toNat, szRegs t.sz) :: (mAddrRegs t).map (fun r => (r, 1))
    dyn := fun a ix => let ks := mEnabled a (a.ctx ix) t
      if ks.isEmpty then [] else mAddrRegs t ++ ks.map (fun k => d.toNat + k)
    look := fun _ x => predGran x t.p.toNat }

/-- Checks of a store's pieces of `m` bytes at `ea + 16k`: rights W, then translation and class, lowest first; answers their fabric
addresses. -/
def storeAddrs (s : State) (a : Agent) (red : Bool) (ea m : Nat) : List Nat → Res (List (Nat × Nat))
  | [] => .ok []
  | k :: ks => do
    let va := ea + 16 * k
    match rightsAt (s.core a.die a.core) (s.pend a) (s.domOf a) { w := true } va with
    | .ok _ => do
      let fa ← hitFa s a 2 (if red then .red else .plain) ea va
      windowCheck fa m
      paddockCheck s (s.domOf a) fa m
      let r ← storeAddrs s a red ea m ks
      pure ((k, fa) :: r)
    | l => lookFail s a va 2 0 l

/-- The pieces a store appends: at each checked address its register's bytes. -/
def piecesOf (m : Nat) (fs vs : List (Nat × Nat)) : List (Nat × List Byte) :=
  (fs.zip vs).map (fun p => (p.1.2, bytesOf m p.2.2))

/-- Checks of a store whose values are given, and its pieces. -/
def storePieces (s : State) (a : Agent) (red : Bool) (ea m : Nat) (vs : List (Nat × Nat)) : Res (List (Nat × List Byte)) := do
  let fs ← storeAddrs s a red ea m (vs.map (·.1))
  pure (piecesOf m fs vs)

/-- STG (R241): its checks, its data registers, then its place in the buffer. -/
def execStg (d : BitVec 7) (t : TailM) (s : State) : Host.Outcome State Fault Refusal :=
  ctxRun (useStg d t) (fun e s => do
    let a := s.act e.d e.c
    let ks := mEnabled a (s.ctx e) t
    if ks.isEmpty then pure s
    else
      let ea ← mEa a e.ix t
      let m := Nat.min (szBytes t.sz) 16
      if ea % m ≠ 0 then raiseAt alignFault ea
      else
        let fs ← storeAddrs s (agentOf e) false ea m ks
        let vs ← dataRegs a e.ix d.toNat ks
        let ps := piecesOf m fs vs
        if sbRoom (s.core e.d e.c) < sbPlaces ps then .error (.stall s)
        else
          let s := ks.foldl (fun s k => retagLine s (agentOf e) (ea + 16 * k)) s
          pure (endAccess (pushStore s (agentOf e) ea ps .store t.ord t.scope) (agentOf e))) s

/-- The sizes an AOP allows (R240): log2 of the size in bytes. -/
def aopOk (aop sz : Nat) : Bool :=
  if aop = 1 then decide (sz ≤ 4)
  else if 2 ≤ aop ∧ aop ≤ 9 then decide (sz ≤ 3)
  else if aop = 0x0A ∨ aop = 0x0D ∨ aop = 0x0E then decide (sz = 2)
  else if aop = 0x0B then decide (sz = 3)
  else if aop = 0x0C then decide (sz = 1)
  else false

/-- maximumNumber and minimumNumber of two elements (R183, R240): a NaN gives way to a number, +0 counts above -0. -/
def numMax (f : Fmt) (max : Bool) (a b : Nat) : Nat :=
  let x := decodeF f a
  let y := decodeF f b
  match x, y with
  | .nan _, .nan _ => canonNan f
  | .nan _, _ => b
  | _, .nan _ => a
  | _, _ =>
    match cmpF x y with
    | some .lt => if max then b else a
    | some .gt => if max then a else b
    | _ => if max then (if x.sign then b else a) else (if x.sign then a else b)

/-- The floating sum of an atomic: RNE, subnormals kept, no flag (R240). -/
def aopFadd (f : Fmt) (a b : Nat) : Nat := (roundVal f {} (addF 0 (decodeF f a) (decodeF f b)).1).1

/-- The value an atomic writes: old memory m, operand v, of n bytes (R240). -/
def aopVal (aop n m v : Nat) : Nat :=
  let w := 8 * n
  match aop with
  | 1 => v % 2 ^ w
  | 2 => (m + v) % 2 ^ w
  | 3 => m &&& v
  | 4 => m ||| v
  | 5 => m ^^^ v
  | 6 => if sext w m ≤ sext w v then m else v
  | 7 => if sext w m ≤ sext w v then v else m
  | 8 => Nat.min m v
  | 9 => Nat.max m v
  | 0x0A => aopFadd fmtF32 m v
  | 0x0B => aopFadd fmtF64 m v
  | 0x0C => aopFadd fmtBF16 m v
  | 0x0D => numMax fmtF32 true m v
  | 0x0E => numMax fmtF32 false m v
  | _ => m

def useRed (d : BitVec 7) (t : TailM) : Use :=
  { legal := ordOk t [0, 2, 4] && aopOk t.aop.toNat t.sz.toNat && t.sz.toNat ≤ 4 && !t.sx
    regs := (d.toNat, 1) :: (mAddrRegs t).map (fun r => (r, 1))
    dyn := fun a ix => if mOn a (a.ctx ix) t 0 then d.toNat :: mAddrRegs t else []
    look := fun _ x => predGran x t.p.toNat }

/-- RED (R242): a store of the buffer, performed at the home; class 6 faults PROT (R243), class 4 takes add of 8 bytes. -/
def execRed (d : BitVec 7) (t : TailM) (s : State) : Host.Outcome State Fault Refusal :=
  ctxRun (useRed d t) (fun e s => do
    let a := s.act e.d e.c
    if !mOn a (s.ctx e) t 0 then pure s
    else
      let ea ← mEa a e.ix t
      let v ← regRead a e.ix d.toNat
      let n := szBytes t.sz
      if ea % n ≠ 0 then raiseAt alignFault ea
      else
        let ps ← storePieces s (agentOf e) true ea n [(0, v.toNat)]
        let fa := (ps.headD (0, [])).1
        if faClass fa = 4 ∧ t.aop ≠ 2 then raiseAt remoteFault fa
        else if sbRoom (s.core e.d e.c) < sbPlaces ps then .error (.stall s)
        else pure (endAccess (pushStore (retagLine s (agentOf e) ea) (agentOf e) ea ps (.red t.aop) t.ord t.scope) (agentOf e))) s

/-! ## ATOM and CAS (R235, R242, R243) -/

def useAtom (d : BitVec 7) (t : TailM) : Use :=
  { legal := ordOk t [0, 1, 2, 3, 4] && aopOk t.aop.toNat t.sz.toNat && t.sz.toNat ≤ 4 && (!t.sx || t.sz.toNat < 4)
    regs := (d.toNat, 1) :: (mAddrRegs t).map (fun r => (r, 1))
    dyn := fun a ix => if mOn a (a.ctx ix) t 0 then d.toNat :: mAddrRegs t else []
    look := fun _ x => predGran x t.p.toNat }

def useCas (d : BitVec 7) (t : TailM) : Use :=
  { legal := ordOk t [0, 1, 2, 3, 4] && t.aop = 0 && decide (2 ≤ t.sz.toNat ∧ t.sz.toNat ≤ 4) && d.toNat % 2 = 0 &&
             (!t.sx || t.sz.toNat < 4)
    regs := (d.toNat, 2) :: (mAddrRegs t).map (fun r => (r, 1))
    dyn := fun a ix => if mOn a (a.ctx ix) t 0 then d.toNat :: (d.toNat + 1) :: mAddrRegs t else []
    look := fun _ x => predGran x t.p.toNat }

/-- The host AtomicOps: ATOM add and swap, CAS, of 4 or 8 bytes (R243). -/
def hostAtomicOk (op : AccOp) (n : Nat) : Bool :=
  (n = 4 || n = 8) && (match op with | .atom aop => aop = 1 || aop = 2 | .cas => true | _ => false)

/-- Have the buffer entries older than the agent's atomic performed (R235)? -/
def olderDone (k : Core) (p : Pend) : Bool := k.sb.all (fun x => decide (p.seq.getD k.sbSeq < x.seq))

/-- An atomic that stalls remembers the newest entry older than it. -/
def noteSeq {α : Type} (s0 : State) (a : Agent) : Res α → Res α
  | .error (.stall s) =>
    let p := s.pend a
    .error (.stall (s.setPend a { p with seq := some (p.seq.getD ((s0.core a.die a.core).sbSeq - 1)) }))
  | r => r

/-- The old value that an atomic which has performed answers with. -/
def madeVal (p : Pend) : Option Nat := if p.made then p.val.head?.map (fun q => q.2.toNat) else none

/-- An atomic: after the checks and the drain of the buffer, the old value comes back from the home, the remote agent or the
host; answers it once it is there. -/
def atomicValue (s : State) (a : Agent) (ea n : Nat) (op : AccOp) (v c : W128) : Res Nat :=
  match madeVal (s.pend a) with
  | some m => .ok m
  | none => noteSeq s a (do
    match rightsAt (s.core a.die a.core) (s.pend a) (s.domOf a) { r := true, w := true } ea with
    | .ok _ =>
      let fa ← hitFa s a 3 (.atomic (hostAtomicOk op n)) ea ea
      answerFail (s.pend a) ea
      match gotVal (s.pend a) fa with
      | some m => .ok m.toNat
      | none =>
        if !olderDone (s.core a.die a.core) (s.pend a) then .error (.stall s)
        else
          let x : Acc := { op := op, fa := fa, size := n, v := v, cmp := c, dom := s.domOf a, va := ea }
          match faClass fa with
          | 0 => .error (.stall (askOther s a (.remote x)))
          | 6 => .error (.stall (askOther s a (.hostAtomic x)))
          | _ => .error (.stall (askOther s a (.atomic x)))
    | l => lookFail s a ea 3 0 l)

/-- ATOM (R242). -/
def execAtom (d : BitVec 7) (t : TailM) (s : State) : Host.Outcome State Fault Refusal :=
  ctxRun (useAtom d t) (fun e s => do
    let a := s.act e.d e.c
    if !mOn a (s.ctx e) t 0 then pure s
    else
      let ea ← mEa a e.ix t
      let v ← regRead a e.ix d.toNat
      let n := szBytes t.sz
      if ea % n ≠ 0 then raiseAt alignFault ea
      else
        let m ← atomicValue s (agentOf e) ea n (.atom t.aop) (BitVec.ofNat 128 (v.toNat % 2 ^ (8 * n))) 0
        pure (endAccess (writeLoaded s e t.sx d.toNat n [(0, m)]) (agentOf e))) s

/-- CAS (R242). -/
def execCas (d : BitVec 7) (t : TailM) (s : State) : Host.Outcome State Fault Refusal :=
  ctxRun (useCas d t) (fun e s => do
    let a := s.act e.d e.c
    if !mOn a (s.ctx e) t 0 then pure s
    else
      let ea ← mEa a e.ix t
      let c ← regRead a e.ix d.toNat
      let v ← regRead a e.ix (d.toNat + 1)
      let n := szBytes t.sz
      if ea % n ≠ 0 then raiseAt alignFault ea
      else
        let m ← atomicValue s (agentOf e) ea n .cas (BitVec.ofNat 128 (v.toNat % 2 ^ (8 * n)))
          (BitVec.ofNat 128 (c.toNat % 2 ^ (8 * n)))
        pure (endAccess (writeLoaded s e t.sx d.toNat n [(0, m)]) (agentOf e))) s

/-! ## FENCE, PREF, FLUSHL, INVL, FABINV (R244 to R248) -/

def useFence (d : BitVec 7) (t : TailV) : Use :=
  { legal := d = 0 && vOnly t false false false false false 31 && decide (t.f.toNat % 8 ≠ 7) }

/-- FENCE (R244): at scope ctx to die, and for a kind with release at a wider scope, it stalls until the buffer entries older
than it have performed; a wider acquire alone waits for nothing more, since every earlier load has returned. -/
def execFence (d : BitVec 7) (t : TailV) (s : State) : Host.Outcome State Fault Refusal :=
  ctxRun (useFence d t) (fun e s =>
    let drain := decide (t.f.toNat % 8 ≤ 3) || decide (t.f.toNat / 8 ≠ 1)
    let k := s.core e.d e.c
    if !drain then .ok s
    else
      match (s.pend (agentOf e)).ask with
      | .fence n =>
        if k.sb.all (fun x => decide (n < x.seq)) then .ok (endAccess s (agentOf e)) else .error (.stall s)
      | _ => if k.sb.isEmpty then .ok s else .error (.stall (s.ask (agentOf e) (.fence (k.sbSeq - 1))))) s

/-- The fields of PREF, FLUSHL and INVL. -/
def lineLegal (d : BitVec 7) (t : TailM) (six : Bool) : Bool :=
  d = 0 && t.ord = 0 && t.scope = 0 && t.aop = 0 && !t.sx && (if six then t.sz = 6 else t.sz ≠ 7)

def usePref (d : BitVec 7) (t : TailM) : Use :=
  { legal := lineLegal d t false, regs := (mAddrRegs t).map (fun r => (r, 1))
    dyn := fun a ix => if mOn a (a.ctx ix) t 0 then mAddrRegs t else []
    look := fun _ x => predGran x t.p.toNat }

/-- PREF (R245): no visible effect; only enabled does it read its address registers (R249). -/
def execPref (d : BitVec 7) (t : TailM) (s : State) : Host.Outcome State Fault Refusal :=
  ctxRun (usePref d t) (fun _ s => .ok s) s

def useFlushl (d : BitVec 7) (t : TailM) : Use :=
  { legal := lineLegal d t true, regs := (mAddrRegs t).map (fun r => (r, 1))
    dyn := fun a ix => if mOn a (a.ctx ix) t 0 then mAddrRegs t else []
    look := fun _ x => predGran x t.p.toNat }

/-- The line address of FLUSHL and INVL after its checks: none for a class the instruction has no effect on (R228). -/
def lineTarget (s : State) (a : Agent) (ea : Nat) : Res (Option Nat) := do
  if ea % 64 ≠ 0 then raiseAt alignFault ea
  else
    match rightsAt (s.core a.die a.core) (s.pend a) (s.domOf a) { r := true } ea with
    | .ok _ =>
      match transAt (s.die a.die) (s.pend a) ea with
      | .ok fa =>
        if faClass fa = 2 ∨ faClass fa = 3 then
          (if faOk fa then .ok (some fa) else raiseAt remoteFault fa)
        else .ok none
      | l => lookFail s a ea 1 0 l
    | l => lookFail s a ea 1 0 l

/-- FLUSHL (R246): it stalls while a write to the line is pending at its home. -/
def execFlushl (d : BitVec 7) (t : TailM) (s : State) : Host.Outcome State Fault Refusal :=
  ctxRun (useFlushl d t) (fun e s => do
    let a := s.act e.d e.c
    if !mOn a (s.ctx e) t 0 then pure s
    else
      let ea ← mEa a e.ix t
      match ← lineTarget s (agentOf e) ea with
      | none => pure (endAccess s (agentOf e))
      | some fa =>
        if homeFree s fa then pure (endAccess (cleanLine s fa) (agentOf e)) else .error (.stall s)) s

def useInvl (d : BitVec 7) (t : TailM) : Use :=
  { legal := lineLegal d t true, regs := (mAddrRegs t).map (fun r => (r, 1))
    dyn := fun a ix => if mOn a (a.ctx ix) t 0 then mAddrRegs t else []
    look := fun _ x => predGran x t.p.toNat }

/-- INVL (R247): every copy of the line leaves the issuing die's fabric cache. -/
def execInvl (d : BitVec 7) (t : TailM) (s : State) : Host.Outcome State Fault Refusal :=
  ctxRun (useInvl d t) (fun e s => do
    let a := s.act e.d e.c
    if !mOn a (s.ctx e) t 0 then pure s
    else
      let ea ← mEa a e.ix t
      match ← lineTarget s (agentOf e) ea with
      | none => pure (endAccess s (agentOf e))
      | some fa =>
        let v := s.die e.d
        let s := s.setDie e.d { v with fab := v.fab.filter (fun p => decide (p.2.1 ≠ fa / 64 * 64)) }
        pure (endAccess s (agentOf e))) s

/-- The prefetched code lines of a set are dropped; a block keeps the line it was delivered (R248). -/
def dropCode (a : SetState) : SetState :=
  { a with slots := a.slots.map (fun q =>
      (q.1, if q.2.mode = .block ∨ (q.2.mode = .parked ∧ q.2.from_ = .block) then q.2 else { q.2 with line := none })) }

/-- The fabric cache of a die and the prefetched code lines of its slots, in both sets of each core, are emptied (R248). -/
def fabEmpty (s : State) (d : Nat) : State :=
  let v := s.die d
  s.setDie d { v with
    fab := []
    cores := v.cores.map (fun p => (p.1, { p.2 with act := dropCode p.2.act, shd := dropCode p.2.shd })) }

/-- Dies of this package that a FABINV at a scope empties: 3 die, 4 and wider every die. -/
def fabDies (scope d : Nat) : List Nat := if scope = 3 then [d] else List.range 12

def useFabinv (d : BitVec 7) (t : TailV) : Use :=
  { legal := d = 0 && vOnly t false false false false false 7 && decide (3 ≤ t.f.toNat ∧ t.f.toNat ≤ 6) }

/-- FABINV (R248): the issuer goes on once every die in scope has reported. The line it executes stays in its slot, so that
it goes on from there. -/
def execFabinv (d : BitVec 7) (t : TailV) (s : State) : Host.Outcome State Fault Refusal :=
  ctxRun (useFabinv d t) (fun e s =>
    let l := (s.slotOf e).line
    let s := (fabDies t.f.toNat e.d).foldl fabEmpty s
    .ok (s.setSlotOf e { s.slotOf e with line := l })) s

/-! ## SEND with LNCH (R117) -/

def useSendLaunch (d : BitVec 7) (t : TailE) : Use :=
  { legal := d = 0 && t.l = 0 && t.f12 = 1 && t.c = 0, regs := [(t.b.toNat, 1)], srcs := [t.b.toNat] }

/-- The 16-byte pieces of a record, from its first aligned address. -/
def recordPieces (s : State) (a : Agent) (va : Nat) : List Nat → Res (List (Nat × Nat))
  | [] => .ok []
  | k :: ks => do
    let v := va + 16 * k
    match rightsAt (s.core a.die a.core) (s.pend a) (s.domOf a) { r := true } v with
    | .ok _ => do
      let w ← loadPiece s a 1 va v 16
      let r ← recordPieces s a va ks
      pure ((k, w) :: r)
    | l => lookFail s a v 1 0 l

/-- SEND with LNCH 1 (R117): the record is read with the issuer's R right, in 16-byte pieces, and taken into the entry. -/
def execSendLaunch (d : BitVec 7) (t : TailE) (s : State) : Host.Outcome State Fault Refusal :=
  ctxRun (useSendLaunch d t) (fun e s => do
    let a := s.act e.d e.c
    let b ← regRead a e.ix t.b.toNat
    let va := fld b 56 0
    let ps ← recordPieces s (agentOf e) (va / 16 * 16) (List.range (if va % 16 = 0 then 16 else 17))
    match freePost a with
    | none => .error (.stall s)
    | some i =>
      let v := ps.foldl (fun n kv => n + kv.2 * 2 ^ (128 * kv.1)) 0
      let x := a.ctx e.ix
      let p : PostEntry :=
        { op := .launch (BitVec.ofNat 2048 (v >>> (8 * (va % 16)))), issuer := issuerOf s e, wk := t.wk.toNat,
          wt := t.wt.toNat, sk := t.sk.toNat, si := siOf t, after := lastStore (s.core e.d e.c) e.ix x.inc,
          captured := true }
      pure (endAccess (s.setAct e.d e.c (putPost a i p)) (agentOf e))) s

end Sys2Proof.Machine
end

