-- ==== Sys2Proof/Machine/Hart.lean ====
section
/-! DEFINITION. The shepherd hart: registers, taking a trap (the RISC-V privileged standard that R74, R119, R120 and R127
refer to), local interrupts, upcalls, the save area (chapter 05), and the wrapper that runs one Xmakel instruction. -/

namespace Sys2Proof.Machine

/-! ## Registers -/

def State.hart (s : State) (d c : Nat) : Hart := (s.core d c).hart
def State.setHart (s : State) (d c : Nat) (h : Hart) : State := s.setCore d c { s.core d c with hart := h }

/-- x register; x0 reads zero. -/
def Hart.xr (h : Hart) (r : Nat) : W64 := if r = 0 then 0 else tget 0 h.x r

/-- x register written; x0 ignores writes. -/
def Hart.setX (h : Hart) (r : Nat) (v : W64) : Hart := if r = 0 then h else { h with x := tset 0 h.x r v }

/-- The privilege order. -/
def Mode.rank : Mode → Nat | .u => 0 | .s => 1 | .m => 3

/-! ## Taking a trap (R119, R127; log entry 5: mstatus, cause and vector layouts are the standard's) -/

/-- Target of a trap: tvec base, plus 4 · cause for an interrupt in vectored mode. -/
def trapVector (tvec : W64) (interrupt : Bool) (cause : Nat) : W64 :=
  let base := BitVec.ofNat 64 (tvec.toNat / 4 * 4)
  if interrupt && tvec.toNat % 4 = 1 then base + BitVec.ofNat 64 (4 * cause) else base

/-- Does a trap go to S mode: taken below M, and delegated? -/
def Hart.toS (h : Hart) (interrupt : Bool) (cause : Nat) : Bool :=
  decide (h.mode ≠ .m) && (if interrupt then h.mideleg.getLsbD cause else h.medeleg.getLsbD cause)

/-- Trap entry: xepc, xcause, xtval and the status stack written, the mode raised, pc at the vector. -/
def Hart.trap (h : Hart) (interrupt : Bool) (cause : Nat) (tval : W64) : Hart :=
  let cv := BitVec.ofNat 64 (cause + (if interrupt then 2 ^ 63 else 0))
  let st := h.mstatus.toNat
  if h.toS interrupt cause then
    { h with
      sepc := h.pc, scause := cv, stval := tval
      mstatus := BitVec.ofNat 64 (putFld (putFld (putFld st 5 1 (fld h.mstatus 1 1)) 1 1 0) 8 1 (if h.mode = .s then 1 else 0))
      mode := .s, pc := trapVector h.stvec interrupt cause, wfi := false, busy := false }
  else
    { h with
      mepc := h.pc, mcause := cv, mtval := tval
      mstatus := BitVec.ofNat 64 (putFld (putFld (putFld st 7 1 (fld h.mstatus 3 3)) 3 1 0) 11 2 h.mode.rank)
      mode := .m, pc := trapVector h.mtvec interrupt cause, wfi := false, busy := false }

/-- An instruction of the hart that is waiting is abandoned; it restarts whole (R127). -/
def Core.abandon (k : Core) : Core :=
  { k with
    act := { k.act with hwait := none, hsat := false }
    halting := none
    hart := { k.hart with resv := none }
    swap := if k.swap = .draining then .none else k.swap
    pend := tset {} k.pend 32 {} }

/-- The hart of a core takes a trap. -/
def State.hartTrap (s : State) (d c : Nat) (interrupt : Bool) (cause : Nat) (tval : W64) : State :=
  let k := (s.core d c).abandon
  s.setCore d c { k with hart := k.hart.trap interrupt cause tval }

/-! ## The save area (R120, R122) -/

/-- `n` bytes of the save area: stale reads zero. -/
def saveRead (a : SetState) (off n : Nat) : Nat := padBytes a.pad a.saveGen off n

/-- `n` bytes written to the save area under the save generation. -/
def saveWrite (a : SetState) (off n v : Nat) : SetState := { a with pad := padPut a.pad a.saveGen off n v }

/-- Mailbox entry i: its VALID and KIND bytes (R129). -/
def mailValid (a : SetState) (i : Nat) : Nat := saveRead a (0x800 + 128 * i + 0x7F) 1
def mailKind (a : SetState) (i : Nat) : Nat := saveRead a (0x800 + 128 * i + 0x58) 1

/-- Some valid mailbox entry has the KIND given. -/
def mailHas (a : SetState) (kind : Nat) : Bool :=
  (List.range 8).any (fun i => decide (mailValid a i ≠ 0 ∧ mailKind a i = kind))

/-! ## Local interrupts (R127) -/

/-- Is a cause pending? A standard one by the bit of mip that software has written. -/
def causePending (k : Core) (cause : Nat) : Bool :=
  match cause with
  | 21 => k.frz
  | 19 => k.preq && !k.pack
  | 20 => k.running && k.remain = 0
  | 16 => k.act.fmask ≠ 0
  | 18 => mailHas k.act 2
  | 17 => mailHas k.act 1
  | c => decide (c < 16) && (tget 0 k.hart.csrs 0x344).getLsbD c

/-- The local causes, highest priority first. -/
def localCauses : List Nat := [21, 19, 20, 16, 18, 17]

/-- mideleg as R127 lets it be: bits 19 and 21 read zero. -/
def Hart.delegated (h : Hart) (cause : Nat) : Bool := decide (cause ≠ 19 ∧ cause ≠ 21) && h.mideleg.getLsbD cause

/-- Would a pending cause be taken: enabled in mie, and by mode and status of its target level? -/
def Hart.takes (h : Hart) (cause : Nat) : Bool :=
  h.mie.getLsbD cause &&
  (if h.delegated cause then decide (h.mode = .u) || (decide (h.mode = .s) && h.mstatus.getLsbD 1)
   else decide (h.mode ≠ .m) || h.mstatus.getLsbD 3)

/-- The standard causes below them, in the standard's order (R127). -/
def standardCauses : List Nat := [11, 3, 7, 9, 1, 5]

/-- The interrupt the hart takes now. -/
def nextInterrupt (k : Core) : Option Nat :=
  (localCauses ++ standardCauses).find? (fun c => causePending k c && k.hart.takes c)

/-- Slots of a stopped core that count as standing at a block boundary or stopped (R434). -/
def slotStopped (a : SetState) (i : Nat) : Bool :=
  let sl := a.slot i
  match sl.mode with
  | .empty | .herded | .parked => true
  | .block => sl.stalled
  | _ => false

/-- A stray leaves its slot for the stop (R434): READY ahead of its level, HERD 0. -/
def leaveStray (a : SetState) (i : Nat) : SetState :=
  let sl := a.slot i
  let x := a.ctx sl.ix
  let a := a.setCtx sl.ix { x with state := .ready, herd := false, inBlock := false, why := 0, age := 0, slot := BitVec.ofNat 5 i }
  emptySlot (runqHead a sl.ix) i

/-- Is the flock stopped: for pre-emption (R434), or by an MK.SHSWAP under way (R140)? -/
def Core.halted (k : Core) : Bool := k.stopped || decide (k.swap ≠ .none)

/-- The effect of the slot's instruction has been made, or is being made elsewhere, so that a stop waits for it: a request to a stream
processor or join unit, draws apart (R207, R333, R345), and an ATOM or CAS that has performed. -/
def Core.posting (k : Core) (i : Nat) : Bool :=
  let p := k.pendOf i
  p.made || decide (p.ask = .post) ||
  (!p.draw && (p.fwd.isSome || (match p.ask with
    | .migrating _ => true
    | _ => false)))

/-- The slot is between two beats of an instruction, which completes before a stop (R434). -/
def Slot.onBeats (x : Slot) : Bool := x.beat.isSome && !x.stalled

/-- Does a stray leave its slot at its turn, because the flock is stopped? -/
def turnLeaves (s : State) (e : Env) : Bool :=
  let k := s.core e.d e.c
  k.halted && decide (e.mode = .stray) && !k.posting e.sl && !(s.slotOf e).onBeats

/-- Does a turn of a slot in block mode pass unused: its wait does not hold yet (R100, R101), or it waits or is stalled while the flock
is stopped (R434)? -/
def turnUnused (s : State) (e : Env) : Bool :=
  let k := s.core e.d e.c
  decide (e.mode = .block) &&
  ((k.halted && ((s.slotOf e).stalled || (s.ctx e).wait.isSome) && !k.posting e.sl) || waitsStill k.act e.ix)

/-- All strays of a core leave their slots, in ascending slot order; what they waited for globally is dropped. -/
def stopStrays (k : Core) : Core :=
  (List.range 32).foldl (fun k i =>
    if (k.act.slot i).mode = .stray && !k.posting i && !(k.act.slot i).onBeats then { k with act := leaveStray k.act i, pend := tset {} k.pend i {} } else k) k

/-- LOCAL_INTERRUPT (R127): the hart takes the first pending enabled cause; cause 19 stops the flock (R434). A hart whose
MK.SHSWAP has exchanged the sets finishes it first. -/
def execLocalInterrupt (d c : Nat) (s : State) : Host.Outcome State Fault Refusal :=
  let k := s.core d c
  match nextInterrupt k with
  | none => .next s
  | some cause =>
    if k.swap = .done then .next s
    else
      let s := s.hartTrap d c true cause 0
      let k := s.core d c
      .next (if cause = 19 then s.setCore d c { stopStrays k with stopped := true } else s)

/-! ## Upcalls (R130, R131) -/

/-- The 64 bytes of an upcall record. -/
def upcallRecord (h : Hart) (u : Upcall) : Nat :=
  h.pc.toNat + (h.xr 5).toNat * 2 ^ 64 + (h.xr 6).toNat * 2 ^ 128 + u.kind.toNat * 2 ^ 192 + u.slot.toNat * 2 ^ 200 +
  u.acc.toNat * 2 ^ 208 + u.handle.toNat * 2 ^ 224 + u.faddr.toNat * 2 ^ 256 + u.token.toNat * 2 ^ 320

/-- UPCALL_ENTRY (R131): in U-mode at an instruction boundary, with EN 1 and BUSY 0, after any interrupt. -/
def execUpcallEntry (d c : Nat) (s : State) : Host.Outcome State Fault Refusal :=
  let k := s.core d c
  match k.act.upq with
  | [] => .next s
  | u :: rest =>
    if k.hart.mode = .u ∧ k.act.upEn ∧ ¬k.act.upBusy ∧ (nextInterrupt k).isNone ∧ k.swap ≠ .done ∧ ¬k.hart.busy then
      let a := saveWrite k.act 0x400 64 (upcallRecord k.hart u)
      let h := k.hart.setX 5 0x400
      .next (s.setCore d c { k with
        act := { a with upq := rest, upBusy := true }
        hart := { h with pc := BitVec.ofNat 64 (k.act.upVec.toNat * 64), wfi := false } })
    else .next s

/-! ## Running one Xmakel instruction (R72 to R74, R132) -/

/-- How an Xmakel instruction ends when it does not complete: illegal-instruction, another exception, an exception over the
state given, or a stall. -/
inductive HExit where
  | illegal
  | exc (cause : Nat) (tval : W64)
  | excIn (cause : Option (Nat × W64)) (s : State)
  | stall (s : State)
  deriving Repr

abbrev HRes := Except HExit (State × W64)

/-- The word of an Xmakel instruction (R72, R132). -/
def xmWord (f3 f7 : Nat) (r : RType) : BitVec 32 :=
  BitVec.ofNat 32 (f7 * 2 ^ 25 + r.rs2.toNat * 2 ^ 20 + r.rs1.toNat * 2 ^ 15 + f3 * 2 ^ 12 + r.rd.toNat * 2 ^ 7 + 0x0B)

/-- Which register fields an instruction uses. -/
structure RUse where
  rd : Bool := false
  rs1 : Bool := false
  rs2 : Bool := false
  deriving DecidableEq, Repr

/-- Unused register fields are zero (R74). -/
def rOnly (r : RType) (u : RUse) : Bool := (u.rd || r.rd = 0) && (u.rs1 || r.rs1 = 0) && (u.rs2 || r.rs2 = 0)

/-- What the step makes of an instruction's end: rd written and pc moved past its `len` bytes, a trap, or the turn unused. -/
def hartDone (len : W64) (s : State) (d c : Nat) (word : BitVec 32) (rd : Nat) : HRes → Host.Outcome State Fault Refusal
  | .ok (s', v) =>
    let h := (s'.hart d c).setX rd v
    .next (s'.setHart d c { h with pc := h.pc + len, busy := false })
  | .error .illegal => .next (s.hartTrap d c false 2 (word.setWidth 64))
  | .error (.exc cause tval) => .next (s.hartTrap d c false cause tval)
  | .error (.excIn (some (cause, tval)) s') => .next (s'.hartTrap d c false cause tval)
  | .error (.excIn none s') => .next (s'.hartTrap d c false 2 (word.setWidth 64))
  | .error (.stall s') => .next (s'.setHart d c { s'.hart d c with busy := true })

/-- The end of a 32-bit instruction. -/
def hartFinish (s : State) (d c : Nat) (word : BitVec 32) (rd : Nat) (r : HRes) : Host.Outcome State Fault Refusal :=
  hartDone 4 s d c word rd r

/-- Runs one Xmakel instruction of the hart whose turn it is: fields and privilege (R74), then its body on the values of rs1
and rs2. Without a hart's turn, or with the hart in WFI, the turn passes unused. -/
def hartRun (least : Mode) (f3 f7 : Nat) (r : RType) (u : RUse) (body : Nat → Nat → W64 → W64 → State → HRes) (s : State) :
    Host.Outcome State Fault Refusal :=
  match s.cur with
  | .slot _ _ _ => .next s
  | .hart d c =>
    let h := s.hart d c
    if h.wfi then .next s
    else if !rOnly r u || decide (h.mode.rank < least.rank) then hartFinish s d c (xmWord f3 f7 r) 0 (.error .illegal)
    else hartFinish s d c (xmWord f3 f7 r) r.rd.toNat (body d c (h.xr r.rs1.toNat) (h.xr r.rs2.toNat) s)

/-- A bad source value raises illegal-instruction (R132). -/
def legal (b : Bool) : Except HExit Unit := if b then .ok () else .error .illegal

/-- The hart's earlier stores have performed: what a release of the hart waits for (R121). -/
def hartReleased (s : State) (d c : Nat) : Except HExit Unit :=
  if lastHartStore (s.core d c) = 0 then .ok () else .error (.stall s)

/-- CUSTOM0_RESERVED (R74). -/
def execCustom0Reserved (word : BitVec 32) (s : State) : Host.Outcome State Fault Refusal :=
  match s.cur with
  | .slot _ _ _ => .next s
  | .hart d c => if (s.hart d c).wfi then .next s else .next (s.hartTrap d c false 2 (word.setWidth 64))

end Sys2Proof.Machine
end

