-- ==== Sys2Proof/Machine/Lines.lean ====
section
/-! DEFINITION. Instruction lines: heads, tails and their places (R45 to R49), the patch overlay (R79); and the context
descriptor as the 512 bits of R87. -/

namespace Sys2Proof.Machine

/-! ## Lines (R45 to R47) -/

/-- Halfword i of a line. -/
def half (l : Line) (i : Nat) : Nat := (l.toNat >>> (16 * i)) % 65536

/-- Tail length in halfwords of a head's TL code (R46). -/
def tlLen (head : Nat) : Nat := match head / 16384 with | 0 => 0 | 1 => 1 | 2 => 2 | _ => 4

/-- Sum of the tail lengths of heads 1 to i. -/
def tailSum (l : Line) : Nat → Nat
  | 0 => 0
  | i + 1 => tailSum l i + tlLen (half l (i + 1))

/-- Is the line well formed (R46, R47)? A padding line is not asked. -/
def lineOk (l : Line) : Bool :=
  decide (lineNH l ≤ 30) && decide (1 + lineNH l + tailSum l (lineNH l) ≤ 32) && decide (half l 0 % 512 = 0)

/-- The tail of head i (R46). -/
def lineTail (l : Line) (i : Nat) : Nat := (l.toNat >>> (16 * (32 - tailSum l i))) % 2 ^ (16 * tlLen (half l i))

/-- A line with halfwords [j, j+n-1] replaced. -/
def putHalves (l : Line) (j n v : Nat) : Line := BitVec.ofNat 512 (putFld l.toNat (16 * j) (16 * n) v)

/-- Major opcode of a head (R53). -/
def headOp (h : Nat) : Nat := h / 128 % 128

/-- One patch of the overlay on a fetched line (R79): WID 2 replaces a form Q tail, WID 1 a form K tail whole, or the low 25
bits of a form I tail. -/
def patchOne (params : List Byte) (l : Line) (p : Nat × Nat × Nat × Nat) : Line :=
  let (_, i, off, wid) := p
  let j := 32 - tailSum l i
  let v := ofBytes ((params.drop off).take (if wid = 2 then 8 else 4))
  if wid = 2 then putHalves l j 4 v
  else if headOp (half l i) = 0x27 then putHalves l j 2 v
  else putHalves l j 2 (lineTail l i / 2 ^ 25 * 2 ^ 25 + v % 2 ^ 25)

/-- The overlay of a context's launch on the line fetched from virtual address `va`. -/
def overlay (s : State) (launch : Option Nat) (va : Nat) (l : Line) : Line :=
  match launch with
  | none => l
  | some n =>
    let x := tget {} s.launches n
    if x.code ≤ va ∧ va < x.code + x.codeLen then
      (x.patches.filter (fun p => decide (x.code + 64 * p.1 = va))).foldl (patchOne x.params) l
    else l

/-! ## The descriptor (R87) -/

def CtxState.code : CtxState → Nat
  | .free => 0 | .held => 1 | .ready => 2 | .bound => 3 | .blocked => 4 | .parked => 5 | .frozen => 6

def CtxState.ofCode : Nat → CtxState
  | 1 => .held | 2 => .ready | 3 => .bound | 4 => .blocked | 5 => .parked | 6 => .frozen | _ => .free

/-- The descriptor's 512 bits. -/
def Ctx.pack (x : Ctx) : BitVec 512 :=
  (x.ip.setWidth 57 ++ BitVec.ofNat 3 x.state.code ++ x.prio ++ x.eprio ++ x.dom ++ BitVec.ofBool x.strict ++
   BitVec.ofBool x.ovfe ++ BitVec.ofBool x.pin ++ x.slot ++ x.wsz ++ x.wgen ++
   x.r1.base ++ x.r1.size ++ x.r1.gen ++ x.r2.base ++ x.r2.size ++ x.r2.gen ++ x.r3.base ++ x.r3.size ++ x.r3.gen ++
   x.fcode ++ x.faux ++ x.faddr ++ x.chan ++ x.fpc ++ x.why ++ x.wk ++ x.wt ++ x.stream ++ BitVec.ofBool x.herd ++
   0#29)

/-- The descriptor fields of a context replaced by 512 raw bits (MK.DBGWR, R141). -/
def Ctx.unpack (x : Ctx) (b : BitVec 512) : Ctx :=
  { x with
    ip := (b.extractLsb' 455 57).setWidth 64, state := CtxState.ofCode (fld b 454 452),
    prio := b.extractLsb' 449 3, eprio := b.extractLsb' 446 3, dom := b.extractLsb' 434 12,
    strict := bit b 433, ovfe := bit b 432, pin := bit b 431, slot := b.extractLsb' 426 5,
    wsz := b.extractLsb' 415 11, wgen := b.extractLsb' 405 10,
    r1 := { base := b.extractLsb' 389 16, size := b.extractLsb' 372 17, gen := b.extractLsb' 362 10 },
    r2 := { base := b.extractLsb' 346 16, size := b.extractLsb' 329 17, gen := b.extractLsb' 319 10 },
    r3 := { base := b.extractLsb' 303 16, size := b.extractLsb' 286 17, gen := b.extractLsb' 276 10 },
    fcode := b.extractLsb' 268 8, faux := b.extractLsb' 261 7, faddr := b.extractLsb' 204 57,
    chan := b.extractLsb' 100 104, fpc := b.extractLsb' 89 11, why := b.extractLsb' 86 3,
    wk := b.extractLsb' 78 8, wt := b.extractLsb' 62 16, stream := b.extractLsb' 30 32, herd := bit b 29 }

/-- The live context whose descriptor covers granule `g`, and which of its four granules that is. -/
def descAt (a : SetState) (g : Nat) : Option (Nat × Nat) :=
  (a.ctxs.find? (fun p => decide (p.2.state ≠ .free) &&
    decide (p.2.wp.toNat / 16 ≤ g + 4 ∧ g < p.2.wp.toNat / 16))).map
    (fun p => (p.1, g + 4 - p.2.wp.toNat / 16))

/-- Raw data of a granule, descriptors included (R141). -/
def rawData (a : SetState) (g : Nat) : W128 :=
  match descAt a g with
  | some (ix, j) => ((a.ctx ix).pack).extractLsb' (128 * j) 128
  | none => (tget {} a.pad g).data

/-- Raw data of a granule replaced, its tag unchanged. -/
def setRawData (a : SetState) (g : Nat) (v : W128) : SetState :=
  match descAt a g with
  | some (ix, j) =>
    a.setCtx ix ((a.ctx ix).unpack (BitVec.ofNat 512 (putFld ((a.ctx ix).pack).toNat (128 * j) 128 v.toNat)))
  | none => { a with pad := tset {} a.pad g { tget {} a.pad g with data := v } }

end Sys2Proof.Machine
end

