-- ==== Sys2Proof/Machine/Xmakel.lean ====
section
/-! DEFINITION. The Xmakel instructions of the flock, the contexts and the counters, the PLB pair and the debug pair
(R132 to R141). MK.MIGR, the engine pair, MK.SHSWAP and the freezes stand with what they share. -/

namespace Sys2Proof.Machine

/-! ## Flock instructions (R133, R134) -/

/-- The slots of a 32-bit mask. -/
def maskSlots (m : W64) : List Nat := (List.range 32).filter (fun i => m.getLsbD i)

/-- A mask of the slots that satisfy `f`. -/
def slotMask (f : Nat → Bool) : Nat := (List.range 32).foldl (fun n i => if f i then n + 2 ^ i else n) 0

/-- A code line through the die's fabric cache with the X right (R52). A miss asks for it. -/
def codeLine (s : State) (a : Agent) (va : Nat) : Res Line := do
  match rightsAt (s.core a.die a.core) (s.pend a) (s.domOf a) { x := true } va with
  | .ok _ =>
    match tfind (s.die a.die).fab (va / 64 * 64) with
    | some (la, l) => if s.unreachable (faPkg la) then raiseAt remoteFault va else .ok l
    | none =>
      let fa ← fabTrans s a 4 va va
      answerFail (s.pend a) va
      .error (.stall (askOther s a (.fab (va / 64 * 64) (fa / 64 * 64))))
  | l => lookFail s a va 4 0 l

/-- A herded slot parks with ILLEGAL_LINE at a line that is no block (R51). Its context's descriptor keeps the IP it had: the fault record
alone names the line (log entry 28). -/
def parkIllegal (k : Core) (i va : Nat) : Core :=
  let a := k.act
  let sl := a.slot i
  let a := a.setCtx sl.ix { a.ctx sl.ix with
    state := .parked, fcode := BitVec.ofNat 8 illegalLineCode, faux := 0, faddr := BitVec.ofNat 57 (va + 1) }
  { k with act := flockFault (a.setSlot i { sl with mode := .parked, from_ := .stray }) i illegalLineCode }

/-- A block line delivered to a herded slot (R98), overlaid for its own context's launch (R79). -/
def deliver (s : State) (d c i va : Nat) (l : Line) : State :=
  let a := s.act d c
  let sl := a.slot i
  let x := a.ctx sl.ix
  let a := a.setCtx sl.ix { x with ip := BitVec.ofNat 64 (va + 1), fell := false, inBlock := false }
  s.setAct d c (a.setSlot i { sl with mode := .block, line := some (va, overlay s x.launch va l), stalled := false })

/-- MK.BCAST (R133): a release of the hart. -/
def execMkBcast (r : RType) (s : State) : Host.Outcome State Fault Refusal :=
  hartRun .u 0 0 r { rd := true, rs1 := true, rs2 := true } (fun d c v m s => do
    legal (decide (m.toNat < 2 ^ 32 ∧ v.toNat % 64 = 0))
    hartReleased s d c
    match codeLine s (.hart d c) v.toNat with
    | .error (.fault f) => .error (.exc (if f.code = pageFault then 13 else 5) v)
    | .error (.stall s') => .error (.stall s')
    | .error _ => .error (.stall s)
    | .ok l =>
      let s := endAccess s (.hart d c)
      if (s.core d c).halted then pure (s, 0)
      else
        let hit := (maskSlots m).filter (fun i => decide (((s.act d c).slot i).mode = .herded))
        if lineNH l = 0 ∨ ¬lineBLK l then
          pure (s.setCore d c (hit.foldl (fun k i => parkIllegal k i v.toNat) (s.core d c)), 0)
        else
          pure (hit.foldl (fun s i => deliver s d c i v.toNat l) s,
                BitVec.ofNat 64 (slotMask (fun i => decide (i ∈ hit))))) s

/-- MK.LOOSE (R133): a release of the hart. -/
def execMkLoose (r : RType) (s : State) : Host.Outcome State Fault Refusal :=
  hartRun .u 0 1 r { rd := true, rs1 := true, rs2 := true } (fun d c v m s => do
    legal (decide (m.toNat < 2 ^ 32))
    hartReleased s d c
    let a := s.act d c
    let hit := (maskSlots m).filter (fun i => decide ((a.slot i).mode = .herded))
    let a' := hit.foldl (fun a i =>
      let sl := a.slot i
      (a.setCtx sl.ix { a.ctx sl.ix with ip := v, fell := false }).setSlot i { sl with mode := .stray, line := none }) a
    pure (s.setAct d c a', BitVec.ofNat 64 (slotMask (fun i => decide (i ∈ hit))))) s

/-- MK.STOPPED (R133). -/
def execMkStopped (r : RType) (s : State) : Host.Outcome State Fault Refusal :=
  hartRun .u 0 2 r { rd := true } (fun d c _ _ s =>
    let a := s.act d c
    .ok (s, BitVec.ofNat 64 (slotMask (fun i => decide ((a.slot i).mode = .parked)) * 2 ^ 32 +
                             slotMask (fun i => decide ((a.slot i).mode = .herded))))) s

/-- Every store that a stopped slot's context has made is performed: what MK.WAITF acquires (R121). Stores of contexts bound
on slots outside the mask do not count. -/
def waitfAcquired (k : Core) (m : W64) : Bool :=
  k.sb.all (fun e => e.hart || (List.range 32).any (fun i =>
    !m.getLsbD i && decide ((k.act.slot i).mode ≠ .empty ∧ (k.act.slot i).ix = e.ix ∧ (k.act.ctx e.ix).inc = e.inc)))

/-- MK.WAITF (R133): an acquire. While the flock is stopped, a slot stalled in a block counts as herded (R434). -/
def execMkWaitf (r : RType) (s : State) : Host.Outcome State Fault Refusal :=
  hartRun .u 0 3 r { rd := true, rs1 := true } (fun d c m _ s => do
    legal (decide (m.toNat < 2 ^ 32))
    let k := s.core d c
    let ok := fun i => match (k.act.slot i).mode with
      | .empty | .herded | .parked => true
      | .block => k.stopped && (k.act.slot i).stalled
      | _ => false
    if (maskSlots m).all ok && waitfAcquired k m then
      pure (s, BitVec.ofNat 64 (slotMask (fun i => m.getLsbD i && decide ((k.act.slot i).mode = .parked))))
    else .error (.stall s)) s

/-- MK.HALTF (R133): the slots herded at its start halt, each once its drain has ended. -/
def execMkHaltf (r : RType) (s : State) : Host.Outcome State Fault Refusal :=
  hartRun .u 0 4 r { rd := true, rs1 := true } (fun d c m _ s => do
    legal (decide (m.toNat < 2 ^ 32))
    let k := s.core d c
    let herded := fun (a : SetState) i => decide ((a.slot i).mode = .herded)
    let (todo, done) := k.halting.getD (BitVec.ofNat 32 (slotMask (fun i => m.getLsbD i && herded k.act i)), 0)
    let (s, done) := (List.range 32).foldl (fun (p : State × BitVec 32) i =>
      let a := p.1.act d c
      if todo.getLsbD i && herded a i && drained a (a.slot i).ix then
        (retire p.1 d c i (a.slot i).ix false, p.2 ||| (1#32 <<< i))
      else p) (s, done)
    let left := (List.range 32).any (fun i => todo.getLsbD i && !done.getLsbD i && herded (s.act d c) i)
    let k := s.core d c
    if left then .error (.stall (s.setCore d c { k with halting := some (todo, done) }))
    else pure (s.setCore d c { k with halting := none }, done.setWidth 64)) s

/-- MK.LINK (R134). -/
def execMkLink (r : RType) (s : State) : Host.Outcome State Fault Refusal :=
  hartRun .u 0 5 r { rd := true, rs1 := true, rs2 := true } (fun d c v w s => do
    legal (decide (v.toNat < 2 ^ 18))
    let wr := bit v 17
    let part := fld v 16 15
    let idx := fld v 14 5
    let a := s.act d c
    let bad : Except HExit (State × W64) := .error (.exc (if wr then 7 else 5) v)
    match linkTarget a (fld v 4 0) with
    | none => bad
    | some ix =>
      let x := a.ctx ix
      if part < 2 then
        if x.wsz.toNat ≤ idx then bad
        else if wr then
          pure (s.setAct d c (regWrite a ix idx (w.toNat * 2 ^ (64 * part)) (0xFF * 2 ^ (8 * part))), 0)
        else pure (s, BitVec.ofNat 64 ((regRaw a x idx).toNat >>> (64 * part)))
      else if 7 < idx then bad
      else if part = 2 then
        if wr then bad else pure (s, BitVec.ofNat 64 (x.pack.toNat >>> (64 * idx)))
      else if wr then pure (s.setAct d c (predWrite a ix idx w.toNat), 0)
      else pure (s, BitVec.ofNat 64 (predRead a x idx))) s

/-! ## Context instructions (R135, R136) -/

abbrev stStale : Nat := 1
abbrev stBadstate : Nat := 2
abbrev stNoroom : Nat := 3
abbrev stRange : Nat := 4
abbrev stDomain : Nat := 5
abbrev stPinned : Nat := 6

/-- A status result that changes nothing. -/
def status (s : State) (n : Nat) : HRes := .ok (s, BitVec.ofNat 64 n)

/-- The context a handle operand names, or the status: RANGE, STALE, DOMAIN in that order (R135); a current handle of an index that is
FREE gives BADSTATE (log entry 28). -/
def handleArg (s : State) (d c : Nat) (v : W64) : Except Nat Nat :=
  if 2 ^ 32 ≤ v.toNat then .error stRange
  else
    match handleIx (s.act d c) d c v.toNat with
    | none => .error stStale
    | some ix =>
      let x := (s.act d c).ctx ix
      if x.state = .free then .error stBadstate else if x.dom ≠ (s.core d c).dom then .error stDomain else .ok ix

/-- MK.CTXNEW (R136). -/
def execMkCtxnew (r : RType) (s : State) : Host.Outcome State Fault Refusal :=
  hartRun .u 1 0 r { rd := true, rs1 := true, rs2 := true } (fun d c ip v s =>
    let k := s.core d c
    let fail := fun n => status s (2 ^ 63 + n)
    let wsz := fld v 30 20
    let wp := fld v 19 0
    match areaOf wp wsz with
    | none => fail stRange
    | some (lo, n) =>
      if 2 ^ 37 ≤ v.toNat ∨ wp % 64 ≠ 0 ∨ wsz < 16 ∨ 1024 < wsz ∨ ¬placeFree k lo n then fail stRange
      else
        match freeIx k.act with
        | none => fail stNoroom
        | some ix =>
          match createWait k [(lo, n)] 32 with
          | some k' => .error (.stall (s.setCore d c k'))
          | none =>
            let x := { blankCtx with
              wp := BitVec.ofNat 20 wp, wsz := BitVec.ofNat 11 wsz, ip := ip, state := .held,
              prio := BitVec.ofNat 3 (fld v 33 31), eprio := BitVec.ofNat 3 (fld v 33 31), dom := k.dom,
              strict := bit v 34, ovfe := bit v 35, pin := bit v 36 }
            let k' := createAt k ix x []
            .ok (s.setCore d c k', BitVec.ofNat 64 (ctxHandle d c ix (k'.act.ctx ix).inc))) s

/-- HELD or READY, what most context instructions require. -/
def heldReady (x : Ctx) : Bool := decide (x.state = .held ∨ x.state = .ready)

/-- MK.CTXFREE (R135). -/
def execMkCtxfree (r : RType) (s : State) : Host.Outcome State Fault Refusal :=
  hartRun .u 1 1 r { rd := true, rs1 := true } (fun d c v _ s =>
    match handleArg s d c v with
    | .error n => status s n
    | .ok ix =>
      let x := (s.act d c).ctx ix
      if heldReady x then
        .ok (taskGone (s.setCore d c (freeCtx (s.core d c) ix false)) d x, 0)
      else status s stBadstate) s

/-- MK.BIND (R135): the context is herded on the slot; BOUND. -/
def execMkBind (r : RType) (s : State) : Host.Outcome State Fault Refusal :=
  hartRun .u 1 2 r { rd := true, rs1 := true, rs2 := true } (fun d c v w s =>
    if 32 ≤ w.toNat then status s stRange
    else
      match handleArg s d c v with
      | .error n => status s n
      | .ok ix =>
        let a := s.act d c
        let x := a.ctx ix
        if heldReady x && decide ((a.slot w.toNat).mode = .empty) then
          let a := runqDrop a ix
          let a := a.setCtx ix { x with state := .bound, eprio := x.prio, slot := BitVec.ofNat 5 w.toNat }
          .ok (s.setAct d c (a.setSlot w.toNat { mode := .herded, ix := ix }), 0)
        else status s stBadstate) s

/-- MK.UNBIND (R135). -/
def execMkUnbind (r : RType) (s : State) : Host.Outcome State Fault Refusal :=
  hartRun .u 1 3 r { rd := true, rs1 := true, rs2 := true } (fun d c v w s =>
    if 32 ≤ v.toNat ∨ 2 ≤ w.toNat then status s stRange
    else
      let a := s.act d c
      let sl := a.slot v.toNat
      let x := a.ctx sl.ix
      if sl.mode ≠ .parked ∨ x.state ≠ .parked then status s stBadstate
      else if x.dom ≠ (s.core d c).dom then status s stDomain
      else
        let a := emptySlot (a.setCtx sl.ix { x with state := .held, herd := false, inBlock := false }) v.toNat
        .ok (s.setAct d c (if w.toNat = 1 then a else makeReady a sl.ix), 0)) s

/-- MK.RUNQ (R135). -/
def execMkRunq (r : RType) (s : State) : Host.Outcome State Fault Refusal :=
  hartRun .u 1 4 r { rd := true, rs1 := true, rs2 := true } (fun d c v w s =>
    if fld w 15 6 ≠ 0 ∨ 2 ^ 18 ≤ w.toNat then status s stRange
    else
      match handleArg s d c v with
      | .error n => status s n
      | .ok ix =>
        let a := s.act d c
        if !heldReady (a.ctx ix) then status s stBadstate
        else
          let x := a.ctx ix
          let a :=
            if bit w 16 then
              let p := BitVec.ofNat 3 (fld w 2 0)
              let a := a.setCtx ix { x with prio := p, eprio := p, strict := bit w 3, ovfe := bit w 4, pin := bit w 5 }
              if x.state = .ready then makeReady (runqDrop a ix) ix else a
            else a
          let a := if bit w 17 ∧ x.state = .held then makeReady a ix else a
          .ok (s.setAct d c a, 0)) s

/-- MK.UPRET with a handle (R135): the context goes on at its slot, stray, or in the block it left (R98), whose line is
fetched again. -/
def execMkUpret (r : RType) (s : State) : Host.Outcome State Fault Refusal :=
  hartRun .u 1 5 r { rd := true, rs1 := true, rs2 := true } (fun d c v w s => do
    legal (decide (r.rs1 ≠ 0))
    match handleArg s d c v with
    | .error n => status s n
    | .ok ix =>
      let a := s.act d c
      let x := a.ctx ix
      let i := x.slot.toNat
      let sl := a.slot i
      if x.state ≠ .parked then status s stBadstate
      else
        let ip := if w = 0 then x.ip else w
        let block := x.inBlock && decide (ip.toNat / 64 = x.ip.toNat / 64)
        let a := a.setCtx ix { x with ip := ip, state := .bound, fcode := 0, inBlock := false, fell := x.fell && decide (w = 0) }
        let a := a.setSlot i { sl with mode := if block then .block else .stray, line := none, stalled := false }
        pure (s.setAct d c a, 0)) s

/-- MK.UPRET without a handle (R135): the hart returns from its upcall. -/
def execMkUpretReturn (r : RType) (s : State) : Host.Outcome State Fault Refusal :=
  match s.cur with
  | .slot _ _ _ => .next s
  | .hart d c =>
    let k := s.core d c
    if k.hart.wfi then .next s
    else if !rOnly r {} || !k.act.upBusy then hartFinish s d c (xmWord 1 5 r) 0 (.error .illegal)
    else
      let rec' := saveRead k.act 0x400 24
      let h := (k.hart.setX 5 (BitVec.ofNat 64 (rec' >>> 64))).setX 6 (BitVec.ofNat 64 (rec' >>> 128))
      .next (s.setCore d c { k with
        act := { k.act with upBusy := false }, hart := { h with pc := BitVec.ofNat 64 rec' } })

/-- MK.GENNEW (R135): a region of a context that is not BOUND or PARKED, or the save region. -/
def execMkGennew (r : RType) (s : State) : Host.Outcome State Fault Refusal :=
  hartRun .u 1 7 r { rd := true, rs1 := true, rs2 := true } (fun d c v w s =>
    if 4 < w.toNat then status s stRange
    else if w.toNat = 4 then
      let k := s.core d c
      if lockOverlaps k.act 0 0 0x2000 then .error (.stall s)
      else if allocStalls k then .error (.stall (s.setCore d c (k.allocWait 32)))
      else .ok (s.setCore d c ({ k with act := { k.act with saveGen := k.next } }).allocDone, 0)
    else
      match handleArg s d c v with
      | .error n => status s n
      | .ok ix =>
        let x := (s.act d c).ctx ix
        if x.state = .bound ∨ x.state = .parked then status s stBadstate
        else if w.toNat ≠ 0 ∧ (x.region w.toNat).2.1 = 0 then status s 0
        else
          match gennewRegion (s.core d c) ix w.toNat 32 with
          | .error k => .error (.stall (s.setCore d c k))
          | .ok k => .ok (s.setCore d c k, 0)) s

/-! ## Counter instructions (R137) -/

/-- MK.CWAIT: WaitGE; satisfied at the first moment the condition holds (R211). -/
def execMkCwait (r : RType) (s : State) : Host.Outcome State Fault Refusal :=
  hartRun .u 2 0 r { rd := true, rs1 := true, rs2 := true } (fun d c v w s => do
    legal (decide (v.toNat < 256 ∧ w.toNat < 65536))
    let a := s.act d c
    let n := (a.counter v.toNat).value.toNat
    if w.toNat ≤ n ∨ (a.hwait = some (v.toNat, w.toNat) ∧ a.hsat) then
      pure (s.setAct d c { a with hwait := none, hsat := false }, BitVec.ofNat 64 n)
    else .error (.stall (s.setAct d c { a with hwait := some (v.toNat, w.toNat) }))) s

/-- MK.CSIG: a release; an overflow never traps the hart. -/
def execMkCsig (r : RType) (s : State) : Host.Outcome State Fault Refusal :=
  hartRun .u 2 1 r { rs1 := true, rs2 := true } (fun d c v w s => do
    legal (decide (v.toNat < 256))
    hartReleased s d c
    pure (s.setAct d c (signalSet (s.act d c) v.toNat (sext 16 (fld w 15 0))), 0)) s

/-- MK.CSET: a release. -/
def execMkCset (r : RType) (s : State) : Host.Outcome State Fault Refusal :=
  hartRun .u 2 2 r { rs1 := true, rs2 := true } (fun d c v w s => do
    legal (decide (v.toNat < 256 ∧ w.toNat < 65536))
    hartReleased s d c
    pure (s.setAct d c (setSet (s.act d c) v.toNat w.toNat), 0)) s

/-- MK.CGET. -/
def execMkCget (r : RType) (s : State) : Host.Outcome State Fault Refusal :=
  hartRun .u 2 3 r { rd := true, rs1 := true } (fun d c v _ s => do
    legal (decide (v.toNat < 256))
    pure (s, BitVec.ofNat 64 (counterMap ((s.act d c).counter v.toNat)))) s

/-! ## The PLB and debug pairs (R139, R141, R402) -/

/-- The PLB entry MK.PLBW writes. -/
def plbOf (v base : W64) : PlbEntry :=
  { v := bit v 6, dom := BitVec.ofNat 12 (fld v 18 7), r := bit v 23, w := bit v 22, x := bit v 21, e := bit v 20, k := bit v 19,
    psz := BitVec.ofNat 2 (fld v 25 24), pcnt := BitVec.ofNat 16 (fld v 47 32), base := base }

/-- MK.PLBW (S). -/
def execMkPlbw (r : RType) (s : State) : Host.Outcome State Fault Refusal :=
  hartRun .s 3 3 r { rs1 := true, rs2 := true } (fun d c v w s => do
    let e := plbOf v w
    legal (decide (fld v 31 26 = 0 ∧ v.toNat < 2 ^ 48 ∧ w.toNat % pageBytes e.psz.toNat = 0))
    let k := s.core d c
    pure (s.setCore d c { k with plb := tset {} k.plb (fld v 5 0) e, plbUse := k.plbUse.filter (fun j => decide (j ≠ fld v 5 0)) }, 0)) s

/-- MK.PLBINV (S). -/
def execMkPlbinv (r : RType) (s : State) : Host.Outcome State Fault Refusal :=
  hartRun .s 3 4 r { rs1 := true, rs2 := true } (fun d c v w s => do
    legal (v.toNat = 0 || (v.toNat = 1 && decide (w.toNat < 64)) || (v.toNat = 2 && decide (w.toNat < 4096)))
    let k := s.core d c
    let plb := match v.toNat with
      | 0 => []
      | 1 => tset {} k.plb w.toNat {}
      | _ => k.plb.filter (fun p => decide (p.2.dom ≠ w.setWidth 12))
    pure (s.setCore d c { k with plb := plb }, 0)) s

/-- The set a debug operand names. -/
def debugSet (k : Core) (v : W64) : SetState := if bit v 22 then k.shd else k.act

/-- MK.DBGRD (M, under a current debug authorisation; R74). -/
def execMkDbgrd (r : RType) (s : State) : Host.Outcome State Fault Refusal :=
  hartRun .m 3 5 r { rd := true, rs1 := true } (fun d c v _ s => do
    legal (s.debug && decide (v.toNat < 2 ^ 23 ∧ fld v 3 0 = 0 ∧ fld v 21 20 ≠ 3))
    let a := debugSet (s.core d c) v
    let g := fld v 19 4
    pure (s, match fld v 21 20 with
      | 0 => (rawData a g).extractLsb' 0 64
      | 1 => (rawData a g).extractLsb' 64 64
      | _ => (tget {} a.pad g).tag.setWidth 64)) s

/-- MK.DBGWR (M, under a current debug authorisation; R74). -/
def execMkDbgwr (r : RType) (s : State) : Host.Outcome State Fault Refusal :=
  hartRun .m 3 6 r { rs1 := true, rs2 := true } (fun d c v w s => do
    let sel := fld v 21 20
    legal (s.debug && decide (v.toNat < 2 ^ 23 ∧ fld v 3 0 = 0 ∧ sel ≠ 3 ∧ (sel ≠ 2 ∨ w.toNat < 1024)))
    let k := s.core d c
    let a := debugSet k v
    let g := fld v 19 4
    let a := if sel = 2 then { a with pad := tset {} a.pad g { tget {} a.pad g with tag := w.setWidth 10 } }
      else setRawData a g (BitVec.ofNat 128 (putFld (rawData a g).toNat (64 * sel) 64 w.toNat))
    pure (s.setCore d c (if bit v 22 then { k with shd := a } else { k with act := a }), 0)) s

end Sys2Proof.Machine
end

