-- ==== Sys2Proof/Machine/Arrive.lean ====
section
/-! DEFINITION. The thread engine: arrivals, tasks they create, triggers, the mailbox (R92 to R96, R117, R129, R220), binding
and aging (R97, R99). -/

namespace Sys2Proof.Machine

/-! ## The arrival buffer (R94) -/

/-- A pending trigger of the active set that holds no place yet: the lowest. -/
def nextTrigger (a : SetState) : Option Nat :=
  (a.counters.find? (fun p => match p.2.trig with
    | some t => t.pending && !t.placed
    | none => false)).map (·.1)

/-- May a fabric arrival enter the buffer now? Pending triggers come first (R220). -/
def arrivalRoom (k : Core) : Bool := decide (k.arr.length < 16) && (nextTrigger k.act).isNone

/-- The set and index of the post-queue entry that a sender names, while it is still that entry. -/
def entrySet (k : Core) (x : Sender) : Option (Bool × Nat) :=
  match x.entry with
  | none => none
  | some e =>
    let ok := fun (a : SetState) => match tfind a.post e with
      | some p => decide (p.seq = x.eseq)
      | none => false
    if ok k.act then some (false, e) else if ok k.shd then some (true, e) else none

/-- The entry of a sent message has ended: accepted, or without its signal (R117). -/
def endEntry (s : State) (x : Sender) (ok : Bool) : State :=
  let k := s.core x.die x.core
  match entrySet k x with
  | none => s
  | some (sh, e) =>
    let a := k.set sh
    let p : PostEntry := tget {} a.post e
    s.setCore x.die x.core (k.putSet sh { a with
      post := tins a.post e { p with ended := true, failed := if ok then p.failed else some 0 } })

/-- MESSAGE_ARRIVAL (R94): accepted into the buffer, held, or discarded for its domain. -/
def execMessageArrival (n : Nat) (s : State) : Host.Outcome State Fault Refusal :=
  match s.ready n with
  | some p =>
    match p.body with
    | .message h body coords =>
      let v := s.die p.die
      let k := v.core p.core
      if !v.permits k.act.part (fld h 104 93) then
        .next (violation (endEntry (s.dropPkt n) p.src false) p.src p.die p.core (fld h 127 64))
      else if arrivalRoom k then
        .next (endEntry ((s.dropPkt n).setCore p.die p.core { k with arr := k.arr ++ [.msg h body coords] }) p.src true)
      else .next s
    | _ => .next s
  | none => .next s

/-- No stream bound (R92). -/
abbrev noStream : BitVec 32 := 0xFFFFFFFF

/-! ## Creating tasks in frames (R89, R92) -/

/-- A task in the lowest free frame: the core after it, after a wait for banks or Alloc (false), or none while an index or a
frame is missing. -/
def frameCreate (k : Core) (ip : W64) (prio : BitVec 3) (dom : BitVec 12) (stream : BitVec 32) (regs : List (Nat × W128)) :
    Option (Bool × Core) :=
  match freeIx k.act, freeFrame k.act with
  | some ix, some (f, wp) =>
    match createWait k [(wp.toNat - 128, 640)] with
    | some k => some (false, k)
    | none => some (true, createAt k ix { frameTask f wp ip prio dom with stream := stream } regs)
  | _, _ => none

/-- Registers of a message's task (R93): the payload in w0 to w(LEN), the sender's coordinates in w4. -/
def messageRegs (h : W128) (body : BitVec 512) (coords : W64) : List (Nat × W128) :=
  (List.range (fld h 89 88 + 1)).map (fun i => (i, body.extractLsb' (128 * i) 128)) ++ [(4, coords.setWidth 128)]

/-- The task that an arrival other than a trigger makes; none for what goes to the mailbox. -/
def arrivalTask (k : Core) : Arrival → Option (Option (Bool × Core))
  | .msg h body coords =>
    if fld h 56 0 = 0 then none
    else some (frameCreate k (BitVec.ofNat 64 (fld h 56 0)) (BitVec.ofNat 3 (fld h 92 90)) (BitVec.ofNat 12 (fld h 104 93))
      noStream (messageRegs h body coords))
  | .trigger _ => none
  | .handler hip w0 w1 prio dom => some (frameCreate k (hip.setWidth 64) prio dom noStream [(0, w0), (1, w1)])
  | .drove hip w0 stream prio dom => some (frameCreate k (hip.setWidth 64) prio dom stream [(0, w0)])

/-- MESSAGE_CREATE (R94): the head of the buffer becomes a task. -/
def execMessageCreate (d c : Nat) (s : State) : Host.Outcome State Fault Refusal :=
  let k := s.core d c
  match k.arr with
  | [] => .next s
  | x :: rest =>
    match arrivalTask k x with
    | some (some (true, k')) => .next (s.setCore d c { k' with arr := rest })
    | some (some (false, k')) => .next (s.setCore d c k')
    | _ => .next s

/-- TRIGGER_TASK_CREATE (R220): the pending trigger of counter `t` takes its place, and at the head of the buffer becomes a
task and is disarmed. -/
def execTriggerTaskCreate (d c t : Nat) (s : State) : Host.Outcome State Fault Refusal :=
  let k := s.core d c
  let a := k.act
  match (a.counter t).trig with
  | none => .next s
  | some g =>
    if !g.pending then .next s
    else if !g.placed then
      if nextTrigger a = some t ∧ k.arr.length < 16 then
        .next (s.setCore d c { k with
          act := a.setCounter t { a.counter t with trig := some { g with placed := true } }, arr := k.arr ++ [.trigger t] })
      else .next s
    else if k.arr.head? = some (.trigger t) ∧ g.hip ≠ 0 then
      let prio := if g.prio.toNat < g.eprio0.toNat then g.eprio0 else g.prio
      let w1 : W128 := BitVec.ofNat 128 (g.fired.toNat + t % 256 * 2 ^ 16)
      match frameCreate k (g.hip.setWidth 64) prio g.dom noStream [(0, g.arg.setWidth 128), (1, w1)] with
      | some (true, k') =>
        let a := k'.act
        .next (s.setCore d c { k' with
          act := a.setCounter t { a.counter t with trig := none }, arr := k'.arr.tail })
      | some (false, k') => .next (s.setCore d c k')
      | none => .next s
    else .next s

/-! ## The mailbox (R129, R220) -/

/-- The 128 bytes of a mailbox entry. -/
def mailBytes (h : Nat) (body : Nat) (coords kind : Nat) : Nat :=
  h % 2 ^ 128 + body % 2 ^ 512 * 2 ^ 128 + coords % 2 ^ 64 * 2 ^ 640 + kind * 2 ^ 704 + 2 ^ 1016

/-- MAILBOX_DELIVERY: the head of the buffer has handler IP 0 and the next entry is free. The header and the coordinates of a
trigger's entry are not stated (log entry 3). -/
def execMailboxDelivery (d c : Nat) (s : State) : Host.Outcome State Fault Refusal :=
  let k := (s.core d c).unreserve (2 ^ 64 + 0x800 + 128 * ((s.act d c).mbox % 8))
  let k := k.unreserve (2 ^ 64 + 0x840 + 128 * ((s.act d c).mbox % 8))
  let a := k.act
  let put := fun (a : SetState) (v : Nat) =>
    { saveWrite a (0x800 + 128 * (a.mbox % 8)) 128 v with mbox := (a.mbox + 1) % 8 }
  if mailValid a (a.mbox % 8) ≠ 0 then .next s
  else
    match k.arr with
    | .msg h body coords :: rest =>
      if fld h 56 0 = 0 then
        .next (s.setCore d c { k with
          act := put a (mailBytes h.toNat (body.toNat % 2 ^ (128 * (fld h 89 88 + 1))) coords.toNat 1), arr := rest })
      else .next s
    | .trigger t :: rest =>
      match (a.counter t).trig with
      | some g =>
        if g.hip = 0 then
          let body := g.arg.toNat + (g.fired.toNat + t % 256 * 2 ^ 16) * 2 ^ 128
          let free := fun i => (s.free i).toNat
          let a := put (a.setCounter t { a.counter t with trig := none }) (mailBytes (free 0 + free 1 * 2 ^ 64) body (free 2) 2)
          .next (s.setCore d c { k with act := a, arr := rest })
        else .next s
      | none => .next s
    | _ => .next s

/-! ## Channel packets and counter signals (R96, R216, R460) -/

/-- The binding that a route tag names on a core: context and binding. -/
def tagBinding (a : SetState) (tag : Nat) : Option (Nat × Nat) :=
  a.ctxs.findSome? (fun p => if p.2.state = .free then none else
    ((List.range 8).find? (fun b => decide (p.2.binding b = some tag))).map (fun b => (p.1, b)))

/-- CHANNEL_PACKET_ARRIVAL (R96); TAG 0xFFF is a program post (R460). -/
def execChannelPacketArrival (n : Nat) (s : State) : Host.Outcome State Fault Refusal :=
  match s.ready n with
  | some p =>
    match p.body with
    | .channel tag v route =>
      let k := s.core p.die p.core
      if tag = 0xFFF then
        .next ((s.dropPkt n).report p.die 10 (v.toNat + (coordsOf s.pkg p.src).toNat * 2 ^ 128))
      else if !(s.die p.die).permits k.act.part p.src.dom.toNat then
        .next (violation (s.dropPkt n) p.src p.die p.core route.toNat)
      else
        match tagBinding k.act tag.toNat with
        | none => .next ((s.dropPkt n).setCore p.die p.core (k.count 1 1))
        | some (ix, b) =>
          let q := chQueue k.act ix b
          if 4 ≤ q.length then .next s
          else
            let a := { k.act with chq := tset [] k.act.chq (8 * ix + b) (q ++ [v]) }
            .next ((s.dropPkt n).setCore p.die p.core { k with act := wakeAll a })
    | _ => .next s
  | none => .next s

/-- COUNTER_SIGNAL_PACKET (R216). -/
def execCounterSignalPacket (n : Nat) (s : State) : Host.Outcome State Fault Refusal :=
  match s.ready n with
  | some p =>
    match p.body with
    | .signal k inc route _ =>
      let s := s.dropPkt n
      .next ((remoteUpd s p.die p.core p.src.dom.toNat (.signal k.toNat inc)).getD
        (violation s p.src p.die p.core route.toNat))
    | _ => .next s
  | none => .next s

/-! ## Sending messages (R117) -/

/-- The stores of a command's issuer that precede it have performed (R263 step 1). -/
def storesDone (k : Core) (i : Issuer) (after : Nat) : Bool :=
  k.sb.all (fun e => decide (e.hart ≠ i.hart) || (!e.hart && decide (e.ix ≠ i.ix ∨ e.inc ≠ i.inc)) || decide (after < e.seq))

/-- What every captured command waits for: its wait field, its issuer's stores, no hold (R270, R274, R440). -/
def entryClear (k : Core) (p : PostEntry) : Bool :=
  p.captured && (p.met || decide (p.wt ≤ (k.act.counter p.wk).value.toNat)) && storesDone k p.issuer p.after &&
  !k.halted && !k.act.postFrozen

/-- The sender record of a command's issuer. -/
def issuerSender (d c : Nat) (i : Issuer) (e seq : Nat) : Sender :=
  { die := d, core := c, ix := i.ix, inc := i.inc, dom := i.dom, hart := i.hart, entry := some e, eseq := seq }

/-- The packet of a SEND or SPAWN of core (d, c) in entry `e`. -/
def messagePacket (s : State) (d c e : Nat) (p : PostEntry) (spawn : Bool) (h : W128) (body : BitVec 512) : Packet :=
  let x := issuerSender d c p.issuer e p.seq
  { iss := p.seq, cls := 1, src := x, pkg := if spawn then s.pkg.toNat else fld h 127 116,
    die := if spawn then d else fld h 115 112, core := if spawn then c else fld h 111 105,
    body := .message h body (coordsOf s.pkg x) }

/-- MESSAGE_SEND: the message leaves once its wait is met, after what its context sent to that core before (R95); SPAWN goes to the
issuing core. A launch record joins the queue of the die's launch unit. -/
def execMessageSend (d c e : Nat) (s : State) : Host.Outcome State Fault Refusal :=
  let k := s.core d c
  match tfind k.act.post e with
  | none => .next s
  | some p =>
    if !entryClear k p || p.engine.isSome then .next s
    else
      let s' := s.setAct d c { k.act with post := tins k.act.post e { p with engine := some (d, 0, false) } }
      let x := issuerSender d c p.issuer e p.seq
      match p.op with
      | .send spawn h body =>
        let m := messagePacket s d c e p spawn h body
        if !p.issuer.hart && sendsAhead s d c m then .next s
        else .next (releaseBehind (sendPacket s' m) d c)
      | .launch img =>
        let v := s'.die d
        if 16 ≤ v.lrecs.length then .next s
        else .next (endEntry (s'.setDie d { v with lrecs := v.lrecs ++ [(img, c, p.issuer.dom)] }) x true)
      | _ => .next s

/-! ## Binding and aging (R97, R99) -/

/-- CONTEXT_BIND: a first turn puts the head of the run queue on the lowest empty slot, a second ends the binding. A bound context's HERD
is clear (log entry 28). While the flock is stopped a binding that ends leaves its context READY again (R434). -/
def execContextBind (d c : Nat) (s : State) : Host.Outcome State Fault Refusal :=
  let k := s.core d c
  let a := k.act
  match (List.range 32).find? (fun i => decide ((a.slot i).mode = .binding)) with
  | some i =>
    let x := a.ctx (a.slot i).ix
    if k.halted then .next (s.setAct d c (leaveStray a i)) else
    let a := a.setCtx (a.slot i).ix { x with herd := false }
    .next (s.setAct d c (a.setSlot i { a.slot i with mode := if x.herd then .herded else .stray }))
  | none =>
    if k.halted then .next s
    else
      match (List.range 32).find? (fun i => decide ((a.slot i).mode = .empty)), a.runq with
      | some i, ix :: rest =>
        let x := a.ctx ix
        let a := { a with runq := rest }
        let a := a.setCtx ix { x with state := .bound, eprio := x.prio, slot := BitVec.ofNat 5 i, age := 0 }
        .next (s.setAct d c (a.setSlot i { mode := .binding, ix := ix }))
      | _, _ => .next s

/-- Is an aging step of a context due? -/
def agingDue (a : SetState) (ix : Nat) : Bool :=
  let x := a.ctx ix
  decide (x.state = .ready ∧ x.eprio ≠ 0 ∧ 65536 ≤ x.age)

/-- A context's effective priority falls by one, at the tail of the new level. -/
def ageCtx (a : SetState) (ix : Nat) : SetState :=
  let x := a.ctx ix
  runqTail ((runqDrop a ix).setCtx ix { x with eprio := x.eprio - 1, age := x.age - 65536 }) ix

/-- AGING_STEP: after 65,536 cc READY, in the active set or the shadow set. -/
def execAgingStep (d c ix : Nat) (s : State) : Host.Outcome State Fault Refusal :=
  let k := s.core d c
  if agingDue k.act ix then .next (s.setCore d c { k with act := ageCtx k.act ix })
  else if agingDue k.shd ix then .next (s.setCore d c { k with shd := ageCtx k.shd ix })
  else .next s

end Sys2Proof.Machine
end

