-- ==== Sys2Proof/Machine/Aes.lean ====
section
/-! DEFINITION. AES-256-XTS on one 16-byte block (R281): AES as FIPS 197 defines it, XTS as IEEE 1619 does, with each block a
data unit of its own. Blocks and keys are little-endian numbers: byte i is bits [8i+7:8i]. -/

namespace Sys2Proof.Machine

/-- Product by x in GF(2^8) modulo x^8 + x^4 + x^3 + x + 1. -/
def xtime (a : Nat) : Nat := if a < 128 then 2 * a else (2 * a) ^^^ 0x11B

/-- Product in GF(2^8) over the low `n` bits of the second factor. -/
def gmulBits : Nat → Nat → Nat → Nat
  | 0, _, _ => 0
  | n + 1, a, b => (if b % 2 = 1 then a else 0) ^^^ gmulBits n (xtime a) (b / 2)

def gmul (a b : Nat) : Nat := gmulBits 8 a b

/-- The inverse in GF(2^8), 0 for 0: the 254th power. -/
def ginv (a : Nat) : Nat :=
  let a2 := gmul a a
  let a4 := gmul a2 a2
  let a8 := gmul a4 a4
  let a16 := gmul a8 a8
  let a32 := gmul a16 a16
  let a64 := gmul a32 a32
  let a128 := gmul a64 a64
  gmul a128 (gmul a64 (gmul a32 (gmul a16 (gmul a8 (gmul a4 a2)))))

/-- A byte rotated left. -/
def rotl8 (a k : Nat) : Nat := (a * 2 ^ k) % 256 + a / 2 ^ (8 - k)

/-- The S-box and its inverse. -/
def aesSub (a : Nat) : Nat :=
  let b := ginv a
  b ^^^ rotl8 b 1 ^^^ rotl8 b 2 ^^^ rotl8 b 3 ^^^ rotl8 b 4 ^^^ 0x63
def aesUnsub (a : Nat) : Nat := ginv (rotl8 a 1 ^^^ rotl8 a 3 ^^^ rotl8 a 6 ^^^ 0x05)

def xorBytes (a b : List Nat) : List Nat := (a.zip b).map (fun p => p.1 ^^^ p.2)

/-- `n` more words of the AES-256 key schedule, the newest first, from word number `i`. -/
def aesSchedule : Nat → Nat → List (List Nat) → List (List Nat)
  | 0, _, ws => ws
  | n + 1, i, ws =>
    let t := ws.headD []
    let t :=
      if i % 8 = 0 then xorBytes ((t.tail ++ t.take 1).map aesSub) [2 ^ (i / 8 - 1), 0, 0, 0]
      else if i % 8 = 4 then t.map aesSub
      else t
    aesSchedule n (i + 1) (xorBytes (ws.getD 7 []) t :: ws)

/-- The low `n` bytes of a number. -/
def natBytes : Nat → Nat → List Nat
  | 0, _ => []
  | n + 1, v => v % 256 :: natBytes n (v / 256)

def ofNatBytes : List Nat → Nat
  | [] => 0
  | b :: t => b % 256 + 256 * ofNatBytes t

/-- A list cut into pieces of `k`, at most `n` of them. -/
def pieces {α : Type} (k : Nat) : Nat → List α → List (List α)
  | 0, _ => []
  | n + 1, l => l.take k :: pieces k n (l.drop k)

/-- The 15 round keys of a 256-bit key. -/
def roundKeys (key : Nat) : List (List Nat) :=
  pieces 16 15 ((aesSchedule 52 8 (pieces 4 8 (natBytes 32 key)).reverse).reverse.flatten)

/-- Row r of the 4 × 4 state turned left by r (right for the inverse): byte r + 4c comes from column c + r. -/
def shiftRows (l : List Nat) (inv : Bool) : List Nat :=
  (List.range 16).map (fun i =>
    let r := i % 4
    let c := i / 4
    l.getD (r + 4 * ((if inv then c + 4 - r else c + r) % 4)) 0)

/-- One column times the circulant of (a, b, c, d). -/
def mixColumn (a b c d : Nat) (x : List Nat) : List Nat :=
  let f := fun (i : Nat) => x.getD i 0
  [gmul (f 0) a ^^^ gmul (f 1) b ^^^ gmul (f 2) c ^^^ gmul (f 3) d,
   gmul (f 0) d ^^^ gmul (f 1) a ^^^ gmul (f 2) b ^^^ gmul (f 3) c,
   gmul (f 0) c ^^^ gmul (f 1) d ^^^ gmul (f 2) a ^^^ gmul (f 3) b,
   gmul (f 0) b ^^^ gmul (f 1) c ^^^ gmul (f 2) d ^^^ gmul (f 3) a]

def mixColumns (inv : Bool) (l : List Nat) : List Nat :=
  ((pieces 4 4 l).map (if inv then mixColumn 14 11 13 9 else mixColumn 2 3 1 1)).flatten

/-- The middle rounds and the last one, over the round keys that remain. -/
def aesRounds : List (List Nat) → List Nat → List Nat
  | [], st => st
  | [k], st => xorBytes (shiftRows (st.map aesSub) false) k
  | k :: ks, st => aesRounds ks (xorBytes (mixColumns false (shiftRows (st.map aesSub) false)) k)

/-- The inverse rounds, over the round keys in reverse order. -/
def aesUnrounds : List (List Nat) → List Nat → List Nat
  | [], st => st
  | [k], st => xorBytes ((shiftRows st true).map aesUnsub) k
  | k :: ks, st => aesUnrounds ks (mixColumns true (xorBytes ((shiftRows st true).map aesUnsub) k))

/-- AES-256 of one block. -/
def aesEnc (key block : Nat) : Nat :=
  match roundKeys key with
  | [] => 0
  | k :: ks => ofNatBytes (aesRounds ks (xorBytes (natBytes 16 block) k))

def aesDec (key block : Nat) : Nat :=
  match (roundKeys key).reverse with
  | [] => 0
  | k :: ks => ofNatBytes (aesUnrounds ks (xorBytes (natBytes 16 block) k))

/-- XTS of one block with a tweak: the data key is bits [255:0], the tweak key bits [511:256]. -/
def xtsEnc (key : BitVec 512) (tweak block : Nat) : Nat :=
  let t := aesEnc (fld key 511 256) tweak
  aesEnc (fld key 255 0) (block ^^^ t) ^^^ t
def xtsDec (key : BitVec 512) (tweak block : Nat) : Nat :=
  let t := aesEnc (fld key 511 256) tweak
  aesDec (fld key 255 0) (block ^^^ t) ^^^ t

end Sys2Proof.Machine
end

