-- ==== Sys2Proof/Machine/Coherence.lean ====
section
/-! DEFINITION. The steps behind global accesses: the home directory, the overflow keeper, proxies, fills and replies (R229 to
R237, R405), stores that perform (R234 to R236), atomics (R235, R243), the remote agent (R238), the counter window (R213). -/

namespace Sys2Proof.Machine

/-- A line whose value is not known here. -/
def State.freeLine (s : State) : Line :=
  BitVec.ofNat 512 ((List.range 8).foldl (fun v i => v + (s.free i).toNat * 2 ^ (64 * i)) 0)

/-- The agent has been answered: a value for an address. -/
def answerVal (s : State) (a : Agent) (fa v : Nat) (q : Ask) : State :=
  let p := s.pend a
  s.setPend a { p with val := (fa, BitVec.ofNat 128 v) :: p.val, ask := q }

/-- The agent's access has ended without a value. -/
def answerNot (s : State) (a : Agent) (x : Answer) (q : Ask) : State := s.setPend a { s.pend a with ans := x, ask := q }

/-- The agent's access found a word in error: counted at the unit that holds it (R464, R465). -/
def answerBad (s : State) (a : Agent) (w : Nat) (q : Ask) : State := answerNot (s.detectWord w) a (.uncorrected w) q

/-- Is the agent's request to another package discarded at a port on its way (R497)? Which ports are down there is not in this state
(log entry 25). -/
def lostAway (s : State) (fa : Nat) : Bool :=
  !s.here fa && (s.unreachable (faPkg fa) || decide (Config.freePick (s.tick * 65536) % 2 = 1))

/-- The agent has been answered by an access that may have changed memory. -/
def answerMade (s : State) (a : Agent) (x : Acc) (v : Nat) (q : Ask) : State :=
  let s := answerVal s a x.fa v q
  s.setPend a { s.pend a with made := decide (x.op ≠ .load) }

/-! ## Directories (R229 to R232) -/

/-- Evicts a directory entry: every copy is invalidated (R230). -/
def dirEvict (s : State) (fa : Nat) : State :=
  let s := dropAllCopies s fa
  s.setDie (faDie fa) ((s.die (faDie fa)).count 8)

/-- Sets of a 16-way directory slice or proxy of 131,072 entries. -/
abbrev waySets : Nat := 8192

/-- Do two lines fall into one set? Which lines do is not stated (log entry 14). -/
def sameSet (f g : Nat) : Bool := decide (Config.cacheSet (f / 64) % waySets = Config.cacheSet (g / 64) % waySets)

/-- The entries of the sparse directory that share an HBM line's set. -/
def dirSet (s : State) (fa : Nat) : List Nat :=
  ((s.die (faDie fa)).dir.map (·.1)).filter (fun f => decide (faClass f = 3 ∧ homeSlice f = homeSlice fa) && sameSet f fa)

/-- Does the line have an entry, or need none of the sparse directory? -/
def hasEntry (s : State) (fa : Nat) : Bool := decide (faClass fa ≠ 3) || (tfind (s.die (faDie fa)).dir (fa / 64 * 64)).isSome

/-- Can an entry for the line be had: there, in a set with room, or in place of one that is not pending (R230)? -/
def dirFits (s : State) (fa : Nat) : Bool :=
  hasEntry s fa || decide ((dirSet s fa).length < 16) || (dirSet s fa).any (fun f => homeFree s f)

/-- Room for a new entry: a full set evicts one that is not pending; which one is open (log entry 4). -/
def dirRoom (s : State) (fa : Nat) : State :=
  if hasEntry s fa || decide ((dirSet s fa).length < 16) then s
  else
    let l := (dirSet s fa).filter (fun f => homeFree s f)
    match l[Config.freePick (s.tick * 65536) % Nat.max 1 l.length]? with
    | some f => dirEvict s f
    | none => s

/-- A pointer recorded in a directory entry. -/
def addPtr (s : State) (fa : Nat) (p : Ptr) : State :=
  let s := dirRoom s fa
  let x := s.dirOf fa
  s.setDir fa { x with st := .s, ptrs := if x.ptrs.contains p then x.ptrs else x.ptrs ++ [p] }

/-- A proxy takes a line, and a local sharer of it (R232). -/
def proxyShare (s : State) (d fa c : Nat) (l : Line) : State :=
  let v := s.die d
  let x := tget {} v.proxy (fa / 64 * 64)
  s.setDie d { v with proxy := tins v.proxy (fa / 64 * 64) { x with data := l, sharers := x.sharers ||| (1#96 <<< c) } }

/-- Room in the set of a die's proxy that a line falls into (R232). -/
def proxyRoom (v : Die) (fa : Nat) : Bool := decide (((v.proxy.map (·.1)).filter (fun f => sameSet f fa)).length < 16)

/-- The home serves a read of a line for pointer `p`: recorded among four, or left to the keeper. Bytes in error are not served, and a
line with another word in error is served without being installed (R464). -/
def serveLine (s : State) (a : Agent) (va fa : Nat) (p : Ptr) : State :=
  let s := cleanLine s fa
  let l := memLine s fa
  let x := s.dirOf fa
  if let some w := s.badWord fa 1 then answerBad s a w .idle
  else if (s.badWord (fa / 64 * 64) 64).isSome then s.setPend a { s.pend a with ask := .fill va fa l false }
  else if x.ptrs.contains p ∨ x.ptrs.length < 4 then
    let s := addPtr s fa p
    let s := match p with
      | .proxy d => proxyShare s d fa a.core l
      | .core _ => s
    s.setPend a { s.pend a with ask := .fill va fa l true }
  else
    let s := s.setDir fa { x with ovf := true }
    s.setPend a { s.pend a with ask := .keep va fa l }

/-- HOME_READ (R230). -/
def execHomeRead (a : Agent) (s : State) : Host.Outcome State Fault Refusal :=
  match (s.pend a).ask with
  | .line va fa =>
    if s.here fa && decide (faDie fa = a.die) && homeFree s fa && dirFits s fa then .next (serveLine s a va fa (.core a.core)) else .next s
  | _ => .next s

/-- A proxy line evicted (R232): its copies are invalidated, and the home forgets the proxy. -/
def proxyEvict (s : State) (d fa : Nat) : State :=
  let s := dropCopy s fa (.proxy d)
  let x := s.dirOf fa
  s.setDir fa { x with ptrs := x.ptrs.erase (.proxy d), kept := x.kept.erase (.proxy d),
                       st := if x.st = .s ∧ x.ptrs.erase (.proxy d) = [] ∧ x.kept.erase (.proxy d) = [] then .i else x.st }

/-- PROXY_MISS (R232). A full set of the proxy first evicts the line named. A home in another package answers a line of its own, which is
not installed, or the request is lost on the way (R497). -/
def execProxyMiss (a : Agent) (victim : Option Nat) (s : State) : Host.Outcome State Fault Refusal :=
  match (s.pend a).ask with
  | .line va fa =>
    if lostAway s fa then .next (answerNot s a .lost .idle)
    else if !s.here fa then .next (s.setPend a { s.pend a with ask := .fill va fa s.freeLine false })
    else if faDie fa = a.die then .next s
    else
      match tfind (s.die a.die).proxy (fa / 64 * 64) with
      | some x =>
        let s := proxyShare s a.die fa a.core x.data
        .next (s.setPend a { s.pend a with ask := .fill va fa x.data true })
      | none =>
        let s' := match victim with
          | some f => if (tfind (s.die a.die).proxy f).isSome ∧ homeFree s f then proxyEvict s a.die f else s
          | none => s
        if homeFree s' fa && dirFits s' fa && proxyRoom (s'.die a.die) fa then .next (serveLine s' a va fa (.proxy a.die)) else .next s
  | _ => .next s

/-- Sharers that a keeper has recorded, over all lines of its slice. -/
def keptCount (s : State) (fa : Nat) : Nat :=
  (((s.die (faDie fa)).dir.filter (fun e => decide (homeSlice e.1 = homeSlice fa))).map (fun e => e.2.kept.length)).sum

/-- The sharers that the overflow keeper of a line's home can hold: its table's, while it is there, a pinned context of domain 0 on core 0
of the home quad (R231). -/
def keeperRoom (s : State) (fa : Nat) : Nat :=
  let q := homeSlice fa
  if (s.act (faDie fa) (4 * q)).ctxs.any (fun p => decide (p.2.state ≠ .free ∧ p.2.dom = 0) && p.2.pin) then
    tget 0 (s.die (faDie fa)).keepers q
  else 0

/-- KEEPER_POST (R231): the keeper of the home quad records the sharer, or the load is served without installing the line. -/
def execKeeperPost (a : Agent) (s : State) : Host.Outcome State Fault Refusal :=
  match (s.pend a).ask with
  | .keep va fa l =>
    let p := ptrOf s fa a.die a.core
    if keptCount s fa < keeperRoom s fa ∧ homeFree s fa ∧ dirFits s fa ∧ lineValue s fa = l then
      let s := dirRoom s fa
      let x := s.dirOf fa
      let s := s.setDir fa { x with kept := if x.copies.contains p then x.kept else x.kept ++ [p] }
      let s := match p with
        | .proxy d => proxyShare s d fa a.core l
        | .core _ => s
      .next (s.setPend a { s.pend a with ask := .fill va fa l true })
    else .next (s.setPend a { s.pend a with ask := .fill va fa l false })
  | _ => .next s

/-! ## Fills (R233, R405) -/

/-- Lines that a set's cache portion can hold: holes hold none (R153). -/
def cacheRoom (k : Core) : Nat :=
  let lo := k.act.scratch
  let lost := ((holesOf k k.setB).map (fun h => if lo ≤ h.1 then h.2 else h.1 + h.2 - Nat.max lo h.1)).sum
  (k.act.cache.toNat * 65536 - lost) / 64

/-- A directory pointer moves within a die: from core `c` to core `c'`, or away. -/
def movePtr (s : State) (fa d c : Nat) (new : Option Nat) : State :=
  let s := s.setCore d c ((s.core d c).unreserve fa)
  if faDie fa = d then
    let x := s.dirOf fa
    let f : List Ptr → List Ptr := fun l => match new with
      | some c' => (l.map (fun p => if p = .core c then .core c' else p)).eraseDups
      | none => l.erase (.core c)
    let ptrs := f x.ptrs
    let kept := f x.kept
    s.setDir fa { x with ptrs := ptrs, kept := kept, pendAck := f x.pendAck,
                         st := if decide (x.st ≠ DirSt.p) && ptrs.isEmpty && kept.isEmpty then .i else x.st }
  else
    let v := s.die d
    match tfind v.proxy (fa / 64 * 64) with
    | some x =>
      let m := x.sharers &&& ~~~(1#96 <<< c)
      let m := match new with | some c' => m ||| (1#96 <<< c') | none => m
      s.setDie d { v with proxy := tins v.proxy (fa / 64 * 64) { x with sharers := m } }
    | none => s

/-- The member of a core's victim group that takes an evicted line: the one named when it has room, else the first that has (R125). -/
def victimTaker (s : State) (d c victim toCore : Nat) : Option Nat :=
  let ok := fun j => let k := s.core d j
    decide (k.act.lines.length < cacheRoom k) && (tfind k.act.lines victim).isNone
  let l := victimGroup (s.die d) c
  if l.contains toCore && ok toCore then some toCore else l.find? ok

/-- A victim leaves a core's portion: to a member of its group that has room, else written back. -/
def evictLine (s : State) (d c victim toCore : Nat) : State :=
  let k := s.core d c
  match tfind k.act.lines victim with
  | none => s
  | some l =>
    match victimTaker s d c victim toCore with
    | some i =>
      let s := s.setCore d c { k with act := { k.act with lines := tdel k.act.lines victim } }
      let j := s.core d i
      let s := s.setCore d i { j with
        act := { j.act with lines := tins j.act.lines victim l }, shd := { j.shd with lines := tdel j.shd.lines victim } }
      movePtr s victim d c (some i)
    | none =>
      let s := if l.dirty then cleanLine s victim else s
      let k := s.core d c
      movePtr (s.setCore d c { k with act := { k.act with lines := tdel k.act.lines victim } }) victim d c none

/-- CACHE_FILL (R233): the line arrives; it is installed where its request may and there is room, under its new virtual address
(R405), and the agent's load can go on. The shadow set's copy of the line gives way to it (R233). -/
def execCacheFill (a : Agent) (victim : Option Nat) (toCore : Nat) (s : State) : Host.Outcome State Fault Refusal :=
  match (s.pend a).ask with
  | .fill va fa l asked =>
    let la := fa / 64 * 64
    let install := asked && mayInstall s a.die va fa
    let s := match victim with
      | some f => if install then evictLine s a.die a.core f toCore else s
      | none => s
    let k := s.core a.die a.core
    let old := tfind k.act.lines la
    let s :=
      if install && (old.isSome || decide (k.act.lines.length < cacheRoom k)) then
        let x : CacheLine := match old with
          | some o => { o with va := va / 64 * 64 }
          | none => { va := va / 64 * 64, data := l, dirty := false }
        s.setCore a.die a.core { k with
          act := { k.act with lines := tins k.act.lines la x }, shd := { k.shd with lines := tdel k.shd.lines la } }
      else if asked && old.isNone then movePtr s fa a.die a.core none
      else s
    let p := s.pend a
    .next (s.setPend a { p with got := (la, l) :: p.got.filter (fun q => decide (q.1 ≠ la)), ask := .reply })
  | _ => .next s

/-- FABRIC_CACHE_FILL (R237): the line's last performed value, under its virtual address; a copy under another address leaves, so that
no read goes back; a full cache replaces the line named. An LDNC's request to another package may be lost (R497). A line with a word in
error is not served (R464). -/
def execFabricCacheFill (a : Agent) (victim : Option Nat) (s : State) : Host.Outcome State Fault Refusal :=
  match (s.pend a).ask with
  | .fab va fa =>
    let v := s.die a.die
    let fab := match victim with | some x => tdel v.fab x | none => v.fab
    let fab := fab.filter (fun p => decide (p.2.1 ≠ fa / 64 * 64))
    let q : Ask := if (s.pend a).load.isSome then .reply else .idle
    if (s.here fa && !homeFree s fa) || decide (32768 ≤ fab.length) then .next s
    else if !mayInstall s a.die va fa then .next (s.setPend a { s.pend a with ask := q })
    else if (s.pend a).load.isSome && lostAway s fa then .next (answerNot s a .lost q)
    else if let some w := (if s.here fa && !lineDirty s fa then s.badWord (fa / 64 * 64) 64 else none) then .next (answerBad s a w q)
    else
      let l := if s.here fa then lineValue s fa else s.freeLine
      let s := s.setDie a.die { v with fab := tins fab (va / 64 * 64) (fa / 64 * 64, l) }
      .next (s.setPend a { s.pend a with ask := q })
  | _ => .next s

/-- LOAD_REPLY (R241): the value of a global load is written to its registers; a host read returns what the host supplies (R243,
log entry 3), after the core's earlier writes to the same port (R455). -/
def execLoadReply (a : Agent) (s : State) : Host.Outcome State Fault Refusal :=
  let p := s.pend a
  let run := fun (s : State) =>
    match (s.pend a).load, a with
    | some (d, t, fab), .slot dd c i =>
      let k := s.core dd c
      if k.halted ∧ (k.act.slot i).mode = .stray then .next s
      else if fab then execLdnc d t { s with cur := a } else execLdg d t { s with cur := a }
    | _, _ => .next (s.setPend a { s.pend a with ask := .idle })
  match p.ask with
  | .reply => run s
  | .remote x =>
    if faClass x.fa = 6 ∧ x.op = .load then
      if (s.core a.die a.core).sb.any (fun e => e.pieces.any (fun q => decide (faClass q.1 = 6 ∧ faUnit q.1 % 2 = faUnit x.fa % 2)))
      then .next s
      else if lostAway s x.fa then run (answerNot s a .lost .reply)
      else
        let v := (s.free 0).toNat + (s.free 1).toNat * 2 ^ 64
        run (answerVal s a x.fa (v % 2 ^ (8 * x.size)) .reply)
    else .next s
  | _ => .next s

/-! ## Writes (R235, R236) -/

/-- INVALIDATION (R236): a copy of a line under a pending write is dropped and acknowledged. -/
def execInvalidation (line : Nat) (p : Ptr) (s : State) : Host.Outcome State Fault Refusal :=
  let x := s.dirOf line
  if x.st = .p ∧ x.pendAck.contains p then
    let s := dropCopy s line p
    let x := s.dirOf line
    .next (s.setDir line { x with pendAck := x.pendAck.erase p, ptrs := x.ptrs.erase p })
  else .next s

/-- KEEPER_INVALIDATE (R231): the keeper's recorded sharers lose the line. -/
def execKeeperInvalidate (line : Nat) (s : State) : Host.Outcome State Fault Refusal :=
  let x := s.dirOf line
  if x.st = .p ∧ x.keeperAck then
    let s := x.kept.foldl (fun s p => dropCopy s line p) s
    let x := s.dirOf line
    .next (s.setDir line { x with kept := [] })
  else .next s

/-- KEEPER_COMPLETE (R231). -/
def execKeeperComplete (line : Nat) (s : State) : Host.Outcome State Fault Refusal :=
  let x := s.dirOf line
  if x.st = .p ∧ x.keeperAck ∧ x.kept = [] then .next (s.setDir line { x with keeperAck := false, ovf := false }) else .next s

/-- The lines of classes 2 and 3 of this package that a store writes. -/
def storeLines (s : State) (e : SbEntry) : List Nat :=
  ((e.pieces.filter (fun p => s.here p.1 && decide (faClass p.1 = 2 ∨ faClass p.1 = 3))).map (fun p => p.1 / 64 * 64)).eraseDups

/-- The lines of a store of core (d, c) go to P one by one; none while a full directory set has only pending entries. -/
def toPending (d c : Nat) (s : State) : List Nat → Option State
  | [] => some s
  | f :: fs =>
    if !dirFits s f then none
    else
      let s := dirRoom s f
      let x := s.dirOf f
      let acks := x.ptrs.filter (fun p => decide (p ≠ .core c ∨ faDie f ≠ d))
      toPending d c (s.setDir f { x with st := .p, pendAck := acks, keeperAck := x.ovf }) fs

/-- HOME_WRITE (R236): the lines of the oldest store go to P, and invalidations leave for every copy but the writer's own. -/
def execHomeWrite (d c : Nat) (s : State) : Host.Outcome State Fault Refusal :=
  match (s.core d c).sb with
  | [] => .next s
  | e :: rest =>
    let ls := storeLines s e
    if e.atHome ∨ ¬ls.all (homeFree s) then .next s
    else
      match toPending d c s ls with
      | none => .next s
      | some s => .next (s.setCore d c { s.core d c with sb := { e with atHome := true } :: rest })

/-- The head of a core's store buffer retires; the updates that waited for it are applied (R257). -/
def sbRetire (s : State) (d c : Nat) : State :=
  let k := s.core d c
  match k.sb with
  | [] => s
  | h :: rest =>
    let s := s.setCore d c { k with sb := rest, updates := k.updates.filter (fun u => decide (h.seq < u.after)) }
    (k.updates.filter (fun u => decide (u.after ≤ h.seq))).foldl (fun s u => applyUpd s d c u.op) s

/-- The sender of a buffered store. -/
def sbSender (d c : Nat) (e : SbEntry) : Sender := { die := d, core := c, ix := e.ix, inc := e.inc, dom := e.dom, hart := e.hart }

/-- The bytes a store of `old` leaves: its data, or its reduction (R240). -/
def storedVal (op : AccOp) (n old v : Nat) : Nat :=
  match op with
  | .red aop => aopVal aop.toNat n old v
  | _ => v

/-- The loads of a core that have fetched a line, or are fetching it, ask for it again: their own store has performed on it (R253). -/
def forgetLine (k : Core) (fa : Nat) : Core :=
  let la := fa / 64
  { k with pend := k.pend.map (fun p =>
      let q := { p.2 with got := p.2.got.filter (fun g => decide (g.1 / 64 ≠ la)) }
      (p.1, match q.ask with
        | .fill va f _ _ => if f / 64 = la then { q with ask := .line va f } else q
        | .keep va f _ => if f / 64 = la then { q with ask := .line va f } else q
        | _ => q)) }

/-- Bytes of a line changed by a store. -/
def stored (op : AccOp) (l : Line) (fa : Nat) (bs : List Byte) : Line :=
  let old := (l.toNat >>> (8 * (fa % 64))) % 2 ^ (8 * bs.length)
  BitVec.ofNat 512 (putFld l.toNat (8 * (fa % 64)) (8 * bs.length) (storedVal op bs.length old (ofBytes bs)))

/-- Bytes of a line changed in memory: the protected words they fill are good again, others in error stay so (R464). -/
def setMemBytes (s : State) (fa n : Nat) (l : Line) : State :=
  ({ s with mem := memWrite s.mem (fa / 64 * 64) 64 l.toNat } : State).mended fa n

/-- A store that merges into a word in error writes nothing (R464): its context is frozen with FCODE 0x15 and reported with REASON 6; one
that is no more, or a hart's, leaves an INTEGRITY record (R465; log entry 29). -/
def consumedStore (s : State) (x : Sender) (w : Nat) : State :=
  let s := s.detectWord w
  let k := s.core x.die x.core
  match (if x.hart then none else senderSet k x.ix x.dom) with
  | none => integrityReport s (faDie w) 3 0 (if faClass w = 3 then 128 + faUnit w else 104 + faUnit w) w
  | some sh =>
    let a := k.set sh
    let y := { a.ctx x.ix with fcode := 0x15, faddr := BitVec.ofNat 57 w, frozenErr := true }
    let s := setFrz (s.setCore x.die x.core (k.putSet sh (freezeCtx (a.setCtx x.ix y) x.ix))) x.die x.core
    freezeReport s x.die 0 6 (ctxHandle x.die x.core x.ix y.inc) x.dom.toNat 0xFFF w false

/-- A piece of a store of `x` performs in class 2 or 3: a writer's cached copy becomes the owner's, dirty; a line homed on another die is
owned in the writer's proxy; else memory takes it. -/
def performPiece (s : State) (x : Sender) (op : AccOp) (fa : Nat) (bs : List Byte) : State :=
  let d := x.die
  let c := x.core
  let s := s.setCore d c (forgetLine ((s.core d c).unreserve fa) fa)
  let la := fa / 64 * 64
  let n := bs.length
  let e := s.dirOf fa
  let k := s.core d c
  match tfind k.act.lines la with
  | some y =>
    let l := stored op y.data fa bs
    if e.ptrs = [.core c] ∧ faDie fa = d then
      let s := s.setCore d c { k with act := { k.act with lines := tins k.act.lines la { y with data := l, dirty := true } } }
      s.setDir fa { e with st := .o }
    else
      let s := s.setCore d c { k with act := { k.act with lines := tdel k.act.lines la } }
      setMemBytes (s.setDir fa { e with st := if e.ptrs = [] then .i else .s }) fa n l
  | none =>
    let s := e.ptrs.foldl (fun s p => dropCopy s fa p) s
    match s.badMerge fa n with
    | some w => consumedStore (s.setDir fa { s.dirOf fa with st := .i, ptrs := [] }) x w
    | none =>
      let l := stored op (memLine s fa) fa bs
      if decide (faDie fa ≠ d) && proxyRoom (s.die d) fa && (s.badWord la 64).isNone then
        let v := s.die d
        let s := s.setDie d { v with proxy := tins v.proxy la { own := true, data := l } }
        s.setDir fa { s.dirOf fa with st := .o, ptrs := [.proxy d] }
      else setMemBytes (s.setDir fa { s.dirOf fa with st := .i, ptrs := [] }) fa n l

/-- A class 0 write at the remote agent (R238): `none` while a range lock holds it or it would be a violation. Bytes whose region is
released before they perform, or that would merge into a granule in error, are not written (log entry 28). -/
def paddockWrite (s : State) (dom : BitVec 12) (op : AccOp) (fa : Nat) (bs : List Byte) : Option State :=
  let d := faDie fa
  match logicalOf (s.die d) (faUnit fa) with
  | none => some s
  | some c =>
    match s.setFor d c dom.toNat with
    | none => none
    | some sh =>
      let k := s.core d c
      let a := k.set sh
      let o := faOff fa
      match a.coverGen o bs.length with
      | none => some s
      | some g =>
        if (lockedByte a 0 true o bs.length).isSome then none
        else if (padBad a.pad g o bs.length).isSome && decide (¬(o % 16 = 0 ∧ bs.length = 16)) then some (s.detect d (faUnit fa))
        else
          let v := storedVal op bs.length (padBytes a.pad g o bs.length) (ofBytes bs)
          some (s.setCore d c (k.putSet sh { a with pad := padPut a.pad g o bs.length v }))

/-- A store's target set permits its domain in every class 0 and class 4 piece. -/
def storePermitted (s : State) (e : SbEntry) : Bool :=
  e.pieces.all (fun p => !(s.here p.1 && decide (faClass p.1 = 0 ∨ faClass p.1 = 4)) ||
    (match logicalOf (s.die (faDie p.1)) (faUnit p.1) with
     | some c => (s.setFor (faDie p.1) c e.dom.toNat).isSome ||
        (decide (faClass p.1 = 4) && (savedFor (s.die (faDie p.1)) c e.dom.toNat).isSome)
     | none => true))

/-- The first core that refuses a store's domain. -/
def refusedAt (s : State) (e : SbEntry) : Nat × Nat × Nat :=
  match e.pieces.find? (fun p => !storePermitted s { e with pieces := [p] }) with
  | some p => (faDie p.1, (logicalOf (s.die (faDie p.1)) (faUnit p.1)).getD 0, p.1)
  | none => (0, 0, 0)

/-- A class 4 piece: a set of a counter, or Signal for a RED (R213). -/
def windowWrite (s : State) (dom : BitVec 12) (op : AccOp) (fa : Nat) (bs : List Byte) : State :=
  match logicalOf (s.die (faDie fa)) (faUnit fa), windowCounter fa with
  | some c, some k =>
    let v := ofBytes bs % 65536
    let u := match op with | .red _ => UpdOp.signal k (sext 16 v) | _ => UpdOp.set k v
    (remoteUpd s (faDie fa) c dom.toNat u).getD s
  | _, _ => s

/-- One piece of the oldest store performs: in another package, at the host, at a remote agent, in the counter window, or at the
line's home. None while a lock holds it. -/
def performOne (s : State) (d c : Nat) (e : SbEntry) (p : Nat × List Byte) : Option State :=
  if !s.here p.1 then some s
  else
    match faClass p.1 with
    | 0 => paddockWrite s e.dom e.op p.1 p.2
    | 4 => some (windowWrite s e.dom e.op p.1 p.2)
    | 6 => match hostBus s p.1 with
      | some b => some { s with host := memPut s.host b p.2 }
      | none => some s
    | _ => some (performPiece s (sbSender d c e) e.op p.1 p.2)

def performAll (s : State) (d c : Nat) (e : SbEntry) : List (Nat × List Byte) → Option State
  | [] => some s
  | p :: ps => match performOne s d c e p with
    | some s => performAll s d c e ps
    | none => none

/-- The oldest store of a core performs when `ok` allows it, and retires. One that a port finds unreachable is lost (R497); one
that its target refuses is a violation (R439). -/
def performHead (ok : SbEntry → Bool) (d c : Nat) (s : State) : State :=
  match (s.core d c).sb with
  | [] => s
  | e :: _ =>
    if !ok e then s
    else if e.pieces.any (fun p => s.unreachable (faPkg p.1)) then
      sbRetire (s.remoteReport (lamongDie ((e.pieces.findSome? (fun p => s.routePort (faPkg p.1))).getD 0)) 8 e.va
        (sbSender d c e).handle 0) d c
    else if !storePermitted s e then
      let (td, tc, fa) := refusedAt s e
      violation (sbRetire s d c) (sbSender d c e) td tc fa
    else
      match performAll s d c e e.pieces with
      | some s => sbRetire s d c
      | none => s

/-- STORE_PERFORM (R236): the last acknowledgement has arrived, and the oldest store performs and retires. -/
def execStorePerform (d c : Nat) (s : State) : Host.Outcome State Fault Refusal :=
  .next (performHead (fun e =>
    let ls := storeLines s e
    (ls.isEmpty || (e.atHome && ls.all (fun f => (s.dirOf f).pendAck.isEmpty && !(s.dirOf f).keeperAck))) &&
    !e.pieces.all (fun p => decide (faClass p.1 = 0)) && !e.pieces.all (fun p => decide (faClass p.1 = 4))) d c s)

/-- COUNTER_WINDOW_SET (R213): the oldest store is an STG to the window. -/
def execCounterWindowSet (d c : Nat) (s : State) : Host.Outcome State Fault Refusal :=
  .next (performHead (fun e => e.op = .store && e.pieces.all (fun p => decide (faClass p.1 = 4))) d c s)

/-- COUNTER_WINDOW_SIGNAL (R213): the oldest store is a RED to the window. -/
def execCounterWindowSignal (d c : Nat) (s : State) : Host.Outcome State Fault Refusal :=
  .next (performHead (fun e => e.op ≠ .store && e.pieces.all (fun p => decide (faClass p.1 = 4))) d c s)

/-! ## Reads that need their target (R213, R235, R238, R243) -/

/-- The value an atomic writes. -/
def atomicNew (x : Acc) (old : Nat) : Nat :=
  match x.op with
  | .atom aop => aopVal aop.toNat x.size old x.v.toNat
  | .cas => if old = x.cmp.toNat % 2 ^ (8 * x.size) then x.v.toNat else old
  | _ => old

/-- Does an atomic write: not a CAS that finds another value (R242). -/
def atomicWrites (x : Acc) (old : Nat) : Bool := decide (x.op ≠ .cas ∨ old = x.cmp.toNat % 2 ^ (8 * x.size))

/-- The sender record of an agent. -/
def agentSender (s : State) (a : Agent) : Sender :=
  let (h, ix, inc) := s.storer a
  { die := a.die, core := a.core, ix := ix, inc := inc, dom := s.domOf a, hart := h }

/-- ATOMIC_AT_HOME (R235): indivisible at the line's home, once the older stores of the buffer have performed. -/
def execAtomicAtHome (a : Agent) (s : State) : Host.Outcome State Fault Refusal :=
  match (s.pend a).ask with
  | .atomic x =>
    if lostAway s x.fa then .next (answerNot s a .lost .idle)
    else if !s.here x.fa then .next (answerMade s a x (((s.free 0).toNat + (s.free 1).toNat * 2 ^ 64) % 2 ^ (8 * x.size)) .idle)
    else if !homeFree s x.fa || !olderDone (s.core a.die a.core) (s.pend a) then .next s
    else
      let s := dropAllCopies s x.fa
      if let some w := s.badWord x.fa x.size then .next (answerBad s a w .idle)
      else
        let old := memRead s.mem x.fa x.size
        let t := if atomicWrites x old then storeBytes s x.fa (bytesOf x.size (atomicNew x old)) else s
        .next (answerMade t a x old .idle)
  | _ => .next s

/-- Who the remote agent of a class 0 access serves: the set and its generation; or the access fails, is held, or is a violation. -/
inductive Remote where
  | set (d c : Nat) (sh : Bool) (g : BitVec 10)
  | fails
  | held
  | refused (d c : Nat)
  deriving DecidableEq, Repr

def remoteAt (s : State) (x : Acc) : Remote :=
  let d := faDie x.fa
  match logicalOf (s.die d) (faUnit x.fa) with
  | none => .fails
  | some c =>
    match s.setFor d c x.dom.toNat with
    | none => .refused d c
    | some sh =>
      let a := (s.core d c).set sh
      match a.coverGen (faOff x.fa) x.size with
      | none => .fails
      | some g =>
        if (lockedByte a 0 (decide (x.op ≠ .load)) (faOff x.fa) x.size).isSome then .held else .set d c sh g

/-- REMOTE_PADDOCK_ACCESS (R238): a load or atomic of the agent, else the oldest store of its core when that is of class 0. -/
def execRemotePaddockAccess (a : Agent) (s : State) : Host.Outcome State Fault Refusal :=
  match (s.pend a).ask with
  | .remote x =>
    if faClass x.fa ≠ 0 then .next s
    else
      let q : Ask := if x.op = .load then .reply else .idle
      if lostAway s x.fa then .next (answerNot s a .lost q)
      else if !s.here x.fa then .next (answerMade s a x (((s.free 0).toNat + (s.free 1).toNat * 2 ^ 64) % 2 ^ (8 * x.size)) q)
      else
        match remoteAt s x with
        | .held => .next s
        | .fails => .next (s.setPend a { s.pend a with ans := .remote x.fa, ask := q })
        | .refused d c => .next (violation (s.setPend a {}) (agentSender s a) d c x.fa)
        | .set d c sh g =>
          let k := s.core d c
          let b := k.set sh
          if let some w := padBad b.pad g (faOff x.fa) x.size then
            .next (answerNot (s.detect d (faUnit x.fa)) a (.uncorrected (x.fa - faOff x.fa + w)) q)
          else
          let old := padBytes b.pad g (faOff x.fa) x.size
          let s := if x.op = .load ∨ ¬atomicWrites x old then s
            else s.setCore d c (k.putSet sh { b with pad := padPut b.pad g (faOff x.fa) x.size (atomicNew x old) })
          .next (answerMade s a x old q)
  | _ => .next (performHead (fun e => e.pieces.all (fun p => decide (faClass p.1 = 0))) a.die a.core s)

/-- COUNTER_WINDOW_READ (R213). -/
def execCounterWindowRead (a : Agent) (s : State) : Host.Outcome State Fault Refusal :=
  match (s.pend a).ask with
  | .counter x =>
    if lostAway s x.fa then .next (answerNot s a .lost .reply)
    else if !s.here x.fa then .next (answerVal s a x.fa ((s.free 0).toNat % 2 ^ 17) .reply)
    else
      match logicalOf (s.die (faDie x.fa)) (faUnit x.fa), windowCounter x.fa with
      | some c, some n =>
        match s.setFor (faDie x.fa) c x.dom.toNat with
        | some sh => .next (answerVal s a x.fa (counterMap (((s.core (faDie x.fa) c).set sh).counter n)) .reply)
        | none => .next (violation (s.setPend a {}) (agentSender s a) (faDie x.fa) c x.fa)
      | _, _ => .next (s.setPend a { s.pend a with ans := .remote x.fa, ask := .reply })
  | _ => .next s

/-- HOST_ATOMIC_COMPLETION (R243): the host answers an AtomicOp with the old value, or with Unsupported Request. -/
def execHostAtomicCompletion (a : Agent) (old : BitVec 64) (ur : Bool) (s : State) : Host.Outcome State Fault Refusal :=
  match (s.pend a).ask with
  | .hostAtomic x =>
    if !olderDone (s.core a.die a.core) (s.pend a) then .next s
    else if lostAway s x.fa then .next (answerNot s a .lost .idle)
    else if ur then .next (s.setPend a { s.pend a with ans := .remote x.fa, ask := .idle })
    else
      match (if s.here x.fa then hostBus s x.fa else none) with
      | some b =>
        let m := old.toNat % 2 ^ (8 * x.size)
        .next (answerMade (if atomicWrites x m then { s with host := memPut s.host b (bytesOf x.size (atomicNew x m)) } else s) a x m .idle)
      | none => .next (answerMade s a x (old.toNat % 2 ^ (8 * x.size)) .idle)
  | _ => .next s

end Sys2Proof.Machine
end

