-- ==== Sys2Proof/Machine/Layout.lean ====
section
/-! DEFINITION. Layout records and the layout group: R275 to R278, R291, R292, and RLQ (R294). -/

namespace Sys2Proof.Machine

/-! ## Element widths in memory (R18, R22 to R25, R276) -/

/-- Bits of an element of an MF code, the base format for 21 to 27; 0 for a reserved code. -/
def mfBits (mf : Nat) : Nat :=
  match mf with
  | 0 => 64
  | 1 | 2 => 32
  | 3 | 4 | 21 | 22 => 16
  | 5 | 6 | 10 | 11 | 14 | 15 | 19 | 23 | 24 | 25 | 26 => 8
  | 7 | 8 | 16 | 17 => 6
  | 9 | 12 | 13 | 18 | 20 | 27 => 4
  | _ => 0

/-- Bits of an element of a TY code in memory that an engine walks: 6-bit formats are packed (R24); 0 for B1 and reserved
codes, which no record may name. -/
def tyMemBits (ty : Nat) : Nat := if ty = 0x0E ∨ ty = 0x0F then 6 else if 0x15 ≤ ty then 0 else tyBits ty

def layBits (fk : Bool) (fmt : Nat) : Nat := if fk then tyMemBits fmt else mfBits fmt

/-! ## Records (R275) -/

def recV (r : BitVec 512) : Bool := bit r 511
def recSpace (r : BitVec 512) : Nat := fld r 332 331
def recKey (r : BitVec 512) : Nat := fld r 295 288
def recDk (r : BitVec 512) : Nat := fld r 303 296
def recDi (r : BitVec 512) : Int := sext 16 (fld r 319 304)
def recCm (r : BitVec 512) : Option Nat := if bit r 324 then some (fld r 323 320) else none

/-- The walk a record describes, as a command snapshots it; `n` is the slot that named it (R278). -/
def recWalk (r : BitVec 512) (n : Nat) : Walk :=
  { space := recSpace r, e := layBits (bit r 330) (fld r 329 325), base := fld r 63 0
    str := (List.range 4).map (fun k => sext 32 (fld r (32 * k + 159) (32 * k + 128)))
    ext := (List.range 4).map (fun k => fld r (16 * k + 79) (16 * k + 64))
    soff := fld r 287 256, key := recKey r, norm := bit r 334, fmt := fld r 329 325, fk := bit r 330, slot := some n }

/-- `len` bytes from an address, as a walk of bytes (R284, R285). -/
def linearWalk (space a len : Nat) : Walk := { space := space, e := 8, base := a, str := [1], ext := [len] }

/-! ## Walks (R276) -/

/-- EXTk and STRk of a walk; an absent one is 1 and 0. -/
def Walk.extOf (w : Walk) (k : Nat) : Nat := w.ext.getD k 1
def Walk.strOf (w : Walk) (k : Nat) : Int := w.str.getD k 0

/-- Elements of a walk. -/
def Walk.count (w : Walk) : Nat := w.ext.foldl (· * ·) 1

/-- lin of element `n`: i0 runs fastest. -/
def linAt : List Nat → List Int → Nat → Int
  | x :: xs, t :: ts, n => (n % x : Nat) * t + linAt xs ts (n / x)
  | _, _, _ => 0

/-- The first bit of element `n`, counted from bit 0 of byte 0 of the space; sub-byte elements are packed (R24). -/
def Walk.bitAt (w : Walk) (n : Nat) : Nat := (8 * (w.base : Int) + linAt w.ext w.str n * w.e).toNat

/-- The least and greatest lin of a walk that has elements. -/
def linMin : List Nat → List Int → Int
  | x :: xs, t :: ts => (if t < 0 then t * ((x : Int) - 1) else 0) + linMin xs ts
  | _, _ => 0
def linMax : List Nat → List Int → Int
  | x :: xs, t :: ts => (if 0 < t then t * ((x : Int) - 1) else 0) + linMax xs ts
  | _, _ => 0

/-- First and last byte of the span, and its length; a walk without elements has none. -/
def Walk.lo (w : Walk) : Nat := (8 * (w.base : Int) + linMin w.ext w.str * w.e).toNat / 8
def Walk.hi (w : Walk) : Nat := (8 * (w.base : Int) + linMax w.ext w.str * w.e + w.e - 1).toNat / 8
def Walk.len (w : Walk) : Nat := if w.count = 0 then 0 else w.hi + 1 - w.lo

/-- The conditions of R277. -/
def recordOk (r : BitVec 512) : Bool :=
  let w := recWalk r 0
  recV r && decide (fld r 510 335 = 0) && w.ext.all (fun x => decide (1 ≤ x)) && decide (w.e ≠ 0) &&
  (match w.e with
   | 4 => w.strOf 0 = 1 && (w.extOf 0) % 2 = 0 && (w.str.drop 1).all (fun t => decide (t % 2 = 0))
   | 6 => w.strOf 0 = 1 && (w.extOf 0) % 4 = 0 && (w.str.drop 1).all (fun t => decide (t % 4 = 0))
   | _ => true) &&
  (match w.space with
   | 0 => decide (w.base < 2 ^ 20)
   | 1 => decide (w.base < 2 ^ 18)
   | 2 => decide (w.base < 2 ^ 19)
   | _ => true) &&
  decide (0 ≤ 8 * (w.base : Int) + linMin w.ext w.str * w.e)

def SetState.layout (a : SetState) (n : Nat) : Layout := tget {} a.layouts n
def SetState.setLayout (a : SetState) (n : Nat) (x : Layout) : SetState := { a with layouts := tset {} a.layouts n x }

/-! ## LAYSET and LAYGET (R291) -/

/-- The tail of the layout group: no WK, WT, SK, SI. -/
def layPlain (t : TailE) (b : Bool) (f : Nat) (fm : Nat) : Bool :=
  t.wk = 0 && t.wt = 0 && t.sk = 0 && t.si = 0 && t.c = 0 && (b || t.b = 0) && decide (t.f12.toNat &&& (0xFFF - fm) = f)

def useLayset (d : BitVec 7) (t : TailE) : Use :=
  { legal := d = 0 && layPlain t true 0 1 && (t.f12 = 1 || t.b.toNat % 4 = 0)
    regs := if t.f12 = 1 then [(t.b.toNat, 1)] else [(t.b.toNat, 4)]
    srcs := if t.f12 = 1 then [t.b.toNat] else (List.range 4).map (fun k => t.b.toNat + k) }

/-- LAYSET: KEY is written as 0 and the conflict counter cleared. -/
def execLayset (d : BitVec 7) (t : TailE) (s : State) : Host.Outcome State Fault Refusal :=
  setRun (useLayset d t) (fun e a => do
    let v ← (if t.f12 = 1 then do
        let b ← regRead a e.ix t.b.toNat
        if fld b 127 20 ≠ 0 then raise illegalOp
        else if fld b 19 0 % 64 ≠ 0 then raiseAt alignFault (fld b 19 0)
        else padRd a (a.ctx e.ix) (fld b 19 0) (fld b 19 0) 64
      else regsRead a e.ix t.b.toNat 4)
    if recordOk (BitVec.ofNat 512 v) then
      pure (a.setLayout t.l.toNat { bits := BitVec.ofNat 512 (putFld v 288 8 0), conf := 0 })
    else raise illegalOp) s

def useLayget (d : BitVec 7) (t : TailE) : Use :=
  { legal := layPlain t false 0x100 3 && decide (t.f12.toNat % 4 ≠ 2) && (t.f12.getLsbD 0 || d.toNat % 4 = 0)
    regs := [(d.toNat, if t.f12.getLsbD 0 then 1 else 4)] }

/-- LAYGET: the record, or with CNT the conflict counter, which CLR clears. -/
def execLayget (d : BitVec 7) (t : TailE) (s : State) : Host.Outcome State Fault Refusal :=
  setRun (useLayget d t) (fun e a =>
    let x := a.layout t.l.toNat
    if t.f12.getLsbD 0 then
      let a := if t.f12.getLsbD 1 then a.setLayout t.l.toNat { x with conf := 0 } else a
      .ok (regWrite a e.ix d.toNat x.conf.toNat allBytes)
    else .ok (regsWrite a e.ix d.toNat x.bits.toNat (2 ^ 64 - 1) 4)) s

/-! ## LAYKEY (R292) -/

/-- Is a key slot of a die loaded for a domain (R281, R494)? -/
def Die.keyFor (v : Die) (h : Nat) (dom : BitVec 12) : Option (BitVec 512) :=
  match tfind v.keys h with
  | some (o, k) => if o = dom then some k else none
  | none => none

/-- Does every page listed hold K? A page without a PLB entry is asked for. -/
def keyPages (s : State) (a : Agent) : List Nat → Res Bool
  | [] => .ok true
  | va :: vs =>
    match rightsAt (s.core a.die a.core) (s.pend a) (s.domOf a) { k := true } va with
    | .ok _ => keyPages s a vs
    | .ask q => .error (.stall (s.ask a q))
    | _ => .ok false

def useLaykey (d : BitVec 7) (t : TailE) : Use :=
  { legal := layPlain t true 0x200 0, regs := [(d.toNat, 1), (t.b.toNat, 1)], srcs := [t.b.toNat] }

/-- LAYKEY: binds a key handle, or writes why it does not. -/
def execLaykey (d : BitVec 7) (t : TailE) (s : State) : Host.Outcome State Fault Refusal :=
  ctxRun (useLaykey d t) (fun e s => do
    let a := s.act e.d e.c
    let b ← regRead a e.ix t.b.toNat
    let h := fld b 7 0
    let x := a.layout t.l.toNat
    let w := recWalk x.bits t.l.toNat
    let done := fun (a : SetState) (st : Nat) => endAccess (s.setAct e.d e.c (regWrite a e.ix d.toNat st allBytes)) (agentOf e)
    let bind := a.setLayout t.l.toNat { x with bits := BitVec.ofNat 512 (putFld x.bits.toNat 288 8 h) }
    if fld b 127 8 ≠ 0 then raise illegalOp
    else if !recV x.bits then pure (done a 4)
    else if h = 0 then pure (done bind 0)
    else if w.space ≠ 3 then pure (done a 3)
    else if ((s.die e.d).keyFor h (s.ctx e).dom).isNone then pure (done a 1)
    else if ← keyPages s (agentOf e) (pagesOf w.lo w.len) then pure (done bind 0)
    else pure (done a 2)) s

/-! ## RLQ (R294) -/

def useRlq (d : BitVec 7) (t : TailV) : Use :=
  { legal := vOnly t true true false false false 3 && t.f ≠ 3
    regs := [(d.toNat, 1), (t.b.toNat, 1), (t.c.toNat, 1)], srcs := [t.b.toNat, t.c.toNat] }

/-- Does a W lock hold some byte of [lo, lo+n-1] against a context's read? -/
def lockHoldsSome (a : SetState) (l : Lock) (lo n : Nat) : Bool :=
  (List.range n).any (fun i => l.covers l.space (lo + i) && lockHolds a l (lo + i))

/-- Free post-queue and range-lock entries. -/
def postFree (a : SetState) : Nat := 16 - a.post.length
def lockFree (a : SetState) : Nat := 32 - a.locks.length

/-- What RLQ writes. -/
def rlqValue (a : SetState) (space lo n : Nat) : Nat :=
  let met := a.locks.filter (fun l => l.space = space && meets l.lo (l.hi + 1 - l.lo) lo n)
  b2n (met.any (fun l => !l.w)) + 2 * b2n (met.any (fun l => l.w && lockHoldsSome a l lo n)) +
  4 * met.length + 2 ^ 8 * lockFree a + 2 ^ 16 * postFree a

/-- RLQ. -/
def execRlq (d : BitVec 7) (t : TailV) (s : State) : Host.Outcome State Fault Refusal :=
  setRun (useRlq d t) (fun e a => do
    let b ← regRead a e.ix t.b.toNat
    let c ← regRead a e.ix t.c.toNat
    pure (regWrite a e.ix d.toNat (rlqValue a (t.f.toNat % 4) (fld b 19 0) (fld c 20 0)) allBytes)) s

end Sys2Proof.Machine
end

