-- ==== Sys2Proof/Machine/Issue.lean ====
section
/-! DEFINITION. Issuing engine commands (R267 to R269, R279, R280, R286, R295): the checks, the post-queue entry, the range
locks and the port. A context's instruction and a hart's commit (R138) issue through the same operations. -/

namespace Sys2Proof.Machine

/-- Who issues a command: the agent, the issuer as its entry records it, the regions it has, its newest store, and its SATM. -/
structure Who where
  a : Agent
  i : Issuer
  x : Ctx
  after : Nat
  satm : Bool
  deriving DecidableEq, Repr

/-- The executing context as an issuer. -/
def whoOf (s : State) (e : Env) : Who :=
  let x := s.ctx e
  { a := agentOf e, i := issuerOf s e, x := x, after := lastStore (s.core e.d e.c) e.ix x.inc, satm := bit x.fpc 9 }

/-- A hart that commits a command: domain mk_dom, priority 0, the save region. -/
def hartWho (s : State) (d c : Nat) : Who :=
  let k := s.core d c
  { a := .hart d c, i := { hart := true, dom := k.dom }, after := lastHartStore k, satm := false
    x := { wsz := 512, wgen := k.act.saveGen, dom := k.dom } }

/-- What a command asks for once its operands are valid. -/
structure Plan where
  op : CmdOp
  src : Option Walk := none
  dst : Option Walk := none
  cm : Option Nat := none
  dk : Nat := 0
  di : Int := 0
  hip : Nat := 0
  word : Option W128 := none
  port : Nat := 0
  /-- a second range of the source space: the planes beside an element plane (first byte, length) -/
  also : Option (Nat × Nat) := none
  /-- ranges locked beside source and destination: space, first byte, length, W -/
  more : List (Nat × Nat × Nat × Bool) := []

/-! ## Tails and words (R54, R138, R269) -/

/-- The 64 bits of a form E tail. -/
def tailBits (t : TailE) : Nat :=
  t.f12.toNat + t.l.toNat * 2 ^ 12 + t.c.toNat * 2 ^ 18 + t.b.toNat * 2 ^ 25 + t.si.toNat * 2 ^ 32 + t.sk.toNat * 2 ^ 36 +
  t.wt.toNat * 2 ^ 44 + t.wk.toNat * 2 ^ 56

def tailOf (v : W64) : TailE :=
  { wk := BitVec.ofNat 8 (fld v 63 56), wt := BitVec.ofNat 12 (fld v 55 44), sk := BitVec.ofNat 8 (fld v 43 36)
    si := BitVec.ofNat 4 (fld v 35 32), b := BitVec.ofNat 7 (fld v 31 25), c := BitVec.ofNat 7 (fld v 24 18)
    l := BitVec.ofNat 6 (fld v 17 12), f12 := BitVec.ofNat 12 (fld v 11 0) }

/-- The eight words of a command: tail, head, W(B), W(C), W(C+1), 0 where it reads none. -/
def portWords (tail head b c c1 : Nat) : Sparse W64 :=
  [tail, head, b, b / 2 ^ 64, c, c / 2 ^ 64, c1, c1 / 2 ^ 64].zipIdx.foldl
    (fun t p => tset 0 t p.2 (BitVec.ofNat 64 p.1)) []

def SetState.port (a : SetState) (n : Nat) : Port := tget {} a.ports n
def SetState.setPort (a : SetState) (n : Nat) (p : Port) : SetState := { a with ports := tset {} a.ports n p }

/-! ## Local ranges (R279) -/

/-- The first byte of [lo, ...] outside the region that holds `lo`. -/
def firstOutside (x : Ctx) (lo : Nat) : Nat :=
  match x.regionOf lo 1 with
  | some r => (x.region r).1 + (x.region r).2.1
  | none => lo

/-- A local range of `n` bytes: within one region, or within the accumulator. -/
def localRangeOk (x : Ctx) (space lo n : Nat) : Res Unit :=
  if n = 0 then .ok ()
  else match space with
    | 0 => if (x.regionOf lo n).isSome then .ok () else raiseAt localRange (firstOutside x lo)
    | 1 => if lo + n ≤ 0x40000 then .ok () else raiseAt localRange (Nat.max lo 0x40000)
    | _ => .ok ()

def localOk (x : Ctx) (w : Option Walk) : Res Unit :=
  match w with
  | some w => localRangeOk x w.space w.lo w.len
  | none => .ok ()

/-- The second range of a source. -/
def alsoOk (x : Ctx) (w : Option Walk) (also : Option (Nat × Nat)) : Res Unit :=
  match w, also with
  | some w, some (b, n) => localRangeOk x w.space b n
  | _, _ => .ok ()

/-- OVERLAP: both local, in one space, sharing a byte. -/
def overlapOk (src dst : Option Walk) : Res Unit :=
  match src, dst with
  | some x, some y =>
    if x.space = y.space ∧ x.space ≠ 3 ∧ meets x.lo x.len y.lo y.len then raiseAt overlapFault (Nat.max x.lo y.lo) else .ok ()
  | _, _ => .ok ()

/-! ## Global ranges (R228, R268, R409) -/

/-- Rights and translation of the pages of a range: the fault of its lowest failing byte, PROT before PAGE at one byte, or the
pages with their fabric addresses. -/
def rangeLook (s : State) (a : Agent) (n : Need) (acc : Nat) : List Nat → Res (Except FaultInfo (List (Nat × Nat)))
  | [] => .ok (.ok [])
  | va :: vs =>
    match rightsAt (s.core a.die a.core) (s.pend a) (s.domOf a) n va with
    | .ok _ =>
      match transAt (s.die a.die) (s.pend a) va with
      | .ok fa =>
        if [0, 2, 3, 5, 6].contains (faClass fa) then do
          let r ← rangeLook s a n acc vs
          .ok (r.map (fun l => (va / 65536, fa / 65536 * 65536) :: l))
        else .ok (.error { code := prot, faddr := some va, acc := acc })
      | .page => .ok (.error { code := pageFault, faddr := some va, acc := acc })
      | .ask q => .error (.stall (s.ask a q))
      | _ => .ok (.error { code := prot, faddr := some va, acc := acc })
    | .ask q => .error (.stall (s.ask a q))
    | _ => .ok (.error { code := prot, faddr := some va, acc := acc })

/-- The pages of a range and of a second one, lower first. -/
def pagesWith (lo n : Nat) (also : Option (Nat × Nat)) : List Nat :=
  match also with
  | some (b, m) => if b < lo then pagesOf b m ++ pagesOf lo n else pagesOf lo n ++ pagesOf b m
  | none => pagesOf lo n

/-- The pages of a command's range under E and R, or E and W; none for a local one. -/
def walkLook (s : State) (a : Agent) (write : Bool) (w : Option Walk) (also : Option (Nat × Nat)) :
    Res (Except FaultInfo (List (Nat × Nat))) :=
  match w with
  | some x =>
    if x.space = 3 then
      rangeLook s a (if write then { w := true, e := true } else { r := true, e := true }) (if write then 10 else 9)
        (pagesWith x.lo x.len also)
    else .ok (.ok [])
  | none => .ok (.ok [])

/-- The pages of source and destination: PROT of either comes before PAGE (R295). -/
def globalLook (s : State) (a : Agent) (src dst : Option Walk) (also : Option (Nat × Nat)) :
    Res (List (Nat × Nat) × List (Nat × Nat)) := do
  match ← walkLook s a false src also, ← walkLook s a true dst none with
  | .ok x, .ok y => .ok (x, y)
  | .error f, .ok _ => .error (.fault f)
  | .ok _, .error g => .error (.fault g)
  | .error f, .error g => .error (.fault (if f.code = prot then f else if g.code = prot then g else f))

/-- The fabric address of a virtual one under the pages found at issue. -/
def Walk.fa (w : Walk) (va : Nat) : Nat :=
  match w.pages.find? (fun p => decide (p.1 = va / 65536)) with
  | some p => p.2 + va % 65536
  | none => 0

/-- A walk with the pages found at issue; one over a stream's state brings its own. -/
def Walk.withPages (l : List (Nat × Nat)) (w : Walk) : Walk := if w.space = 4 then w else { w with pages := l }

/-! ## Chunk maps and destination ends (R280, R286) -/

/-- A chunk map is named only for a local destination of at most 128 chunks. -/
def chunkOk (cm : Option Nat) (dst : Walk) : Bool := cm.isNone || (decide (dst.space ≠ 3) && decide (dst.len ≤ 65536))

/-- The zero bits of a destination-end word. -/
def endWordOk (w : W128) : Bool := decide (fld w 127 121 = 0 ∧ fld w 40 0 = 0)

/-- REMOTE for a word that names a die above 11 or a core above 95. -/
def endOk (w : Option W128) : Res Unit :=
  match w with
  | some v => if badRoute (fld v 47 41) (fld v 51 48) then raiseAt remoteFault (fld v 63 0) else .ok ()
  | none => .ok ()

/-! ## Reserving (R268) -/

/-- The locks of a plan, for an owner and issue number. -/
def Plan.locks (p : Plan) (owner : LockOwner) (seq : Nat) : List Lock :=
  let one := fun (w : Option Walk) (wr : Bool) => match w with
    | some x => if 3 ≤ x.space ∨ x.len = 0 then []
                else [({ space := x.space, lo := x.lo, hi := x.hi, w := wr, owner := owner, seq := seq,
                         cm := if wr then p.cm else none } : Lock)]
    | none => []
  let second := match p.src, p.also with
    | some x, some (b, n) => if x.space = 3 ∨ n = 0 then [] else [(x.space, b, n, false)]
    | _, _ => []
  one p.src false ++ one p.dst true ++
    (second ++ p.more).map (fun m => { space := m.1, lo := m.2.1, hi := m.2.1 + m.2.2.1 - 1, w := m.2.2.2, owner := owner, seq := seq })

/-- Is the port's shadow set free, the post queue not frozen, and room for `n` locks? -/
def portRoom (a : SetState) (port n : Nat) : Bool :=
  (a.port port).shadowCmd.isNone && !a.postFrozen && decide (a.locks.length + n ≤ 32)

/-- A command placed in a port's shadow set. -/
def placePort (a : SetState) (port n : Nat) (words : Sparse W64) : SetState :=
  a.setPort port { a.port port with shadow := words, shadowCmd := some n }

/-- The issue sequence of a command that holds a post-queue entry, from its local ranges on. -/
def issuePlan (w : Who) (p : Plan) (t : TailE) (words : Sparse W64) (s : State) : Res State := do
  let d := w.a.die
  let c := w.a.core
  let a := s.act d c
  localOk w.x p.src
  alsoOk w.x p.src p.also
  localOk w.x p.dst
  overlapOk p.src p.dst
  let (sp, dp) ← globalLook s w.a p.src p.dst p.also
  endOk p.word
  match freePost a with
  | none => .error (.stall s)
  | some n =>
    let locks := p.locks (.post n) a.seq
    if !portRoom a p.port locks.length then .error (.stall s)
    else
      let (pkg, ed, ec) := match p.word with
        | some v => (fld v 63 52, fld v 51 48, fld v 47 41)
        | none => (s.pkg.toNat, d, c)
      let hip := match p.word with
        | some v => fld v 120 64
        | none => p.hip
      let entry : PostEntry :=
        { op := p.op, src := p.src.map (Walk.withPages sp), dst := p.dst.map (Walk.withPages dp),
          issuer := w.i, wk := t.wk.toNat, wt := t.wt.toNat, sk := t.sk.toNat, si := siOf t, endPkg := pkg, endDie := ed,
          endCore := ec, dk := p.dk, di := p.di, hip := BitVec.ofNat 57 hip, cm := p.cm, after := w.after }
      let a := placePort (putPost { a with locks := a.locks ++ locks } n entry) p.port n words
      pure (endAccess (s.setAct d c a) w.a)

end Sys2Proof.Machine
end

