-- ==== Sys2Proof/Machine/StreamOps.lean ====
section
/-! DEFINITION. The stream processor's own operations: handles and the fold (R321 to R323), state pages with their counts,
pins and exclusive paths (R324 to R331), the drover's queues (R336, R337), draws (R202). -/

namespace Sys2Proof.Machine

/-! ## Handles and the fold -/

def Die.stream (v : Die) (i : Nat) : Stream := tget {} v.streams i
def Die.setStream (v : Die) (i : Nat) (x : Stream) : Die := { v with streams := tset {} v.streams i x }
def State.stream (s : State) (d i : Nat) : Stream := (s.die d).stream i
def State.setStream (s : State) (d i : Nat) (x : Stream) : State := s.setDie d ((s.die d).setStream i x)
def State.modStream (s : State) (d i : Nat) (f : Stream → Stream) : State := s.setStream d i (f (s.stream d i))

/-- The handle of descriptor `i` of a die (R321). -/
def State.streamHandle (s : State) (d i : Nat) : BitVec 32 :=
  BitVec.ofNat 32 ((s.stream d i).gen.toNat % 8 * 2 ^ 29 + s.pkg.toNat * 2 ^ 17 + d * 2 ^ 13 + i)

/-- No stream, no group: 0xFFFF_FFFF. -/
abbrev noHandle : BitVec 32 := 0xFFFFFFFF

def hDie (h : BitVec 32) : Nat := fld h 16 13
def hPkg (h : BitVec 32) : Nat := fld h 28 17
def hIx (h : BitVec 32) : Nat := fld h 12 0
def hGen (h : BitVec 32) : Nat := fld h 31 29

/-- The descriptor a current handle of this package names. -/
def State.streamOf (s : State) (h : BitVec 32) : Option (Nat × Nat) :=
  let x := s.stream (hDie h) (hIx h)
  if hDie h < 12 ∧ hPkg h = s.pkg.toNat ∧ x.st ≠ .free ∧ hGen h = x.gen.toNat % 8 then some (hDie h, hIx h) else none

/-- A handle of another package that is reachable: its fold is not in this state, and what it answers is free (log entry 25). -/
def State.streamAway (s : State) (h : BitVec 32) : Bool :=
  decide (hDie h < 12 ∧ hPkg h ≠ s.pkg.toNat) && !s.unreachable (hPkg h)

/-- The status with which another package's stream processor answers: any of R342 (log entry 25). -/
def awayStatus (s : State) : Nat := (s.free 16).toNat % 11

/-- A value of 128 bits from another package (log entry 25). -/
def awayWord (s : State) : Nat := (s.free 17).toNat + (s.free 18).toNat * 2 ^ 64

/-- A handle that another package or die answers with (log entry 25). -/
def awayHandle (s : State) (pkg die : Nat) : BitVec 32 :=
  BitVec.ofNat 32 ((s.free 19).toNat % 2 ^ 13 + die % 16 * 2 ^ 13 + pkg % 4096 * 2 ^ 17 + (s.free 20).toNat % 8 * 2 ^ 29)

/-- Takes the head of the free list: a state with the descriptor's fields as `f` gives them. -/
def State.allocStream (s : State) (d : Nat) : Option (Nat × State) :=
  let v := s.die d
  if v.fresh < 8192 then some (v.fresh, s.setDie d { v with fresh := v.fresh + 1 })
  else match v.freed with
    | i :: t => some (i, s.setDie d { v with freed := t })
    | [] => none

/-- Free descriptors of a die. -/
def freeStreams (v : Die) : Nat := 8192 - v.fresh + v.freed.length

/-! ## Frames (R324 to R327) -/

def eValid (e : W64) : Bool := bit e 63
def eTier (e : W64) : Nat := fld e 62 61
def eNode (e : W64) : Bool := bit e 60
def eFrame (e : W64) : Nat := fld e 31 0
/-- Key of a frame. -/
def eKey (e : W64) : Nat := e.toNat % 2 ^ 63
/-- The entry of a frame key. -/
def entryOf (key : Nat) : W64 := BitVec.ofNat 64 (key + 2 ^ 63)

def spReg (v : Die) (o : Nat) : Nat := (tget 0 v.spw o).toNat

/-- Fabric address of an entry's frame. -/
def frameFa (v : Die) (e : W64) : Nat :=
  let t := eTier e
  if eNode e then spReg v (0x20 * t + 0x10) + 4096 * eFrame e else spReg v (0x20 * t) + 65536 * eFrame e

def frameBytes (node : Bool) : Nat := if node then 4096 else 65536

/-- Frames of a tier and kind, and the numbers in use, ascending. -/
def poolCount (v : Die) (tier : Nat) (node : Bool) : Nat := spReg v (0x20 * tier + (if node then 0x18 else 0x08)) % 2 ^ 32
def poolUsed (v : Die) (tier : Nat) (node : Bool) : List Nat :=
  (v.frames.filter (fun f => decide (f.1 / 2 ^ 60 = 2 * tier + b2n node))).map (fun f => f.1 % 2 ^ 32)

/-- Free frames of a tier and kind. -/
def poolFree (v : Die) (tier : Nat) (node : Bool) : Nat := poolCount v tier node - (poolUsed v tier node).length

/-- The `k`-th number from `lo` on that an ascending list leaves out. -/
def kthFree : List Nat → Nat → Nat → Nat
  | [], lo, k => lo + k
  | u :: t, lo, k => if k < u - lo then lo + k else kthFree t (u + 1) (k - (u - lo))

/-- How an operation of the stream processor fails: a status of R342, or no frame free (R329). -/
inductive SErr where
  | status (n : Nat)
  | noFrame
  deriving DecidableEq, Repr, Inhabited

abbrev SRes (α : Type) := Except SErr α

def Die.frame (v : Die) (key : Nat) : Frame := tget {} v.frames key
def Die.setFrame (v : Die) (key : Nat) (f : Frame) : Die := { v with frames := tset {} v.frames key f }
def Frame.count (f : Frame) : Nat := f.refs + f.rpins

/-- The bytes [a, a+n-1] of backing memory read as zero. -/
def memZero (m : Mem) (a n : Nat) : Mem := m.filter (fun p => decide (p.1 < a ∨ a + n ≤ p.1))

/-- `n` bytes of memory `m` from `a`, copied to `b` of memory `m'`. -/
def memCopy (m m' : Mem) (a b n : Nat) : Mem :=
  let src := m.filter (fun p => decide (a ≤ p.1 ∧ p.1 < a + n))
  src.foldl (fun m p => tins m (b + (p.1 - a)) p.2) (memZero m' b n)

/-- Where a frame's bytes lie: in the CXL pool (class 5, at its pool address) or in the package's memory. -/
def frameMem (s : State) (fa : Nat) : Bool × Nat :=
  if faClass fa = 5 then (true, fld (windowRec (s.die 11)) 127 64 + faOff fa) else (false, fa)

/-- The memory of either kind. -/
def State.bytes (s : State) (pool : Bool) : Mem := if pool then s.pool else s.mem
def State.setBytes (s : State) (pool : Bool) (m : Mem) : State := if pool then { s with pool := m } else { s with mem := m }

/-- Words in error of a range follow its bytes when they are copied, and those of the range written go (log entry 29). -/
def copyBad (s : State) (p q : Bool) (a b n : Nat) : State :=
  let kept := if q then s.memBad else s.memBad.filter (fun w => !decide (b ≤ w ∧ w < b + n))
  let came := if p || q then [] else
    (s.memBad.filter (fun w => decide (a ≤ w ∧ w < a + n))).flatMap (fun w =>
      let m := if faClass b = 3 then 64 else 16
      let l := if faClass w = 3 then 64 else 16
      (List.range ((l + m - 1) / m)).map (fun j => (b + (w - a)) / m * m + m * j))
  { s with memBad := kept ++ came.eraseDups }

/-- A frame's bytes become zero. -/
def zeroFrame (s : State) (fa n : Nat) : State :=
  let (p, a) := frameMem s fa
  copyBad (s.setBytes p (memZero (s.bytes p) a n)) true p 0 a n

/-- The bytes of one frame become those of another. -/
def copyFrame (s : State) (fa fb n : Nat) : State :=
  let (p, a) := frameMem s fa
  let (q, b) := frameMem s fb
  copyBad (s.setBytes q (memCopy (s.bytes p) (s.bytes q) a b n)) p q a b n

/-- No stream of a die holds a staged copy of a frame any more. -/
def Die.unstage (v : Die) (key : Nat) : Die :=
  if v.streams.all (fun p => p.2.staged.isEmpty) then v
  else { v with streams := v.streams.map (fun p => (p.1, { p.2 with staged := p.2.staged.filter (fun q => decide (q.1 ≠ key)) })) }

/-- A frame of the kind from the first tier that has one free; which of the free ones is open (log entry 4). -/
def allocFrame (s : State) (d : Nat) (node : Bool) : SRes (State × W64) :=
  let v := s.die d
  match [0, 1, 2].find? (fun t => decide (0 < poolFree v t node)) with
  | none => .error .noFrame
  | some t =>
    let f := kthFree (poolUsed v t node) 0 (Config.freePick (s.tick * 65536 + (poolUsed v t node).length) % poolFree v t node)
    let e := entryOf (t * 2 ^ 61 + b2n node * 2 ^ 60 + f)
    let s := zeroFrame s (frameFa v e) (frameBytes node)
    .ok (s.setDie d ((v.unstage (eKey e)).setFrame (eKey e) { refs := 1 }), e)

/-- A count rises by one; REFSAT above 65,535 (R327). -/
def refUp (s : State) (d key : Nat) : SRes State :=
  let v := s.die d
  let f := v.frame key
  if 65535 ≤ f.count then .error (.status 3) else .ok (s.setDie d (v.setFrame key { f with refs := f.refs + 1 }))

/-- A count falls by one; a node whose count reaches 0 starts its cascade (R330). -/
def refDown (s : State) (d key : Nat) : State :=
  let v := s.die d
  let f := v.frame key
  let f' := { f with refs := f.refs - 1 }
  if f'.count = 0 ∧ key / 2 ^ 60 % 2 = 1 then
    s.setDie d { v.setFrame key { f' with going := true } with cascade := v.cascade ++ [(key, 0)] }
  else s.setDie d (v.setFrame key f')

/-- The count of an entry's frame rises, when the entry is valid. -/
def entryUp (s : State) (d : Nat) (e : W64) : SRes State := if eValid e then refUp s d (eKey e) else .ok s
def entryDown (s : State) (d : Nat) (e : W64) : State := if eValid e then refDown s d (eKey e) else s

/-- Entry `i` of a node. -/
def nodeEntry (s : State) (d : Nat) (n : W64) (i : Nat) : W64 :=
  if eValid n then
    let (p, a) := frameMem s (frameFa (s.die d) n)
    BitVec.ofNat 64 (memRead (s.bytes p) (a + 8 * i) 8)
  else 0
def setNodeEntry (s : State) (d : Nat) (n : W64) (i : Nat) (e : W64) : State :=
  let (p, a) := frameMem s (frameFa (s.die d) n)
  s.setBytes p (memWrite (s.bytes p) (a + 8 * i) 8 e.toNat)

/-- The valid entries of a node, with their indices. -/
def nodeEntries (s : State) (d : Nat) (n : W64) : List (Nat × W64) :=
  if eValid n then
    let (q, a) := frameMem s (frameFa (s.die d) n)
    let ix := (((s.bytes q).filter (fun p => decide (a ≤ p.1 ∧ p.1 < a + 4096 ∧ p.1 % 8 = 7))).map (fun p => (p.1 - a) / 8))
    (ix.map (fun i => (i, nodeEntry s d n i))).filter (fun p => eValid p.2)
  else []

/-- Every count of a list of entries rises. -/
def entriesUp (s : State) (d : Nat) : List (Nat × W64) → SRes State
  | [] => .ok s
  | p :: t => do
    let s ← entryUp s d p.2
    entriesUp s d t

/-! ## Exclusive paths (R328) -/

/-- One level: an invalid entry gets a new zeroed frame, a shared frame is cloned. -/
def exclEntry (s : State) (d : Nat) (e : W64) (node : Bool) : SRes (State × W64) :=
  if !eValid e then allocFrame s d node
  else if ((s.die d).frame (eKey e)).count ≤ 1 then .ok (s, e)
  else do
    let (s, n) ← allocFrame s d node
    let v := s.die d
    let s := copyFrame s (frameFa v e) (frameFa v n) (frameBytes node)
    let s ← if node then entriesUp s d (nodeEntries s d n) else pure s
    pure (refDown s d (eKey e), n)

/-- The nodes of a path: the new root entry and the middle entry. -/
def exclNodes (s : State) (d : Nat) (root : W64) (so : Nat) : SRes (State × W64 × W64) := do
  let (s, r) ← exclEntry s d root true
  let (s, m) ← exclEntry s d (nodeEntry s d r (so / 2 ^ 25)) true
  pure (setNodeEntry s d r (so / 2 ^ 25) m, r, m)

/-- The page entry of an offset under a root: invalid where the path is. -/
def pageAt (s : State) (d : Nat) (root : W64) (so : Nat) : W64 :=
  nodeEntry s d (nodeEntry s d root (so / 2 ^ 25)) (so / 2 ^ 16 % 512)

/-- The whole path down to the page. A fresh page takes the bytes of `under` where that is valid (R331). -/
def exclPage (s : State) (d : Nat) (root : W64) (so : Nat) (under : W64) : SRes (State × W64 × W64) := do
  let (s, r, m) ← exclNodes s d root so
  let old := nodeEntry s d m (so / 2 ^ 16 % 512)
  let (s, p) ← exclEntry s d old false
  let v := s.die d
  let s := if !eValid old && eValid under then
      copyFrame s (frameFa v under) (frameFa v p) 65536 else s
  pure (setNodeEntry s d m (so / 2 ^ 16 % 512) p, r, p)

/-- The page of an offset as SPGR reads it: the overlay where it has one, else the committed table (R331). -/
def readPage (s : State) (d i so : Nat) : W64 :=
  let x := s.stream d i
  let o := if x.spec then pageAt s d x.oroot so else 0
  if eValid o then o else pageAt s d x.croot so

/-- The page of an offset made exclusive for SPGW. -/
def writePage (s : State) (d i so : Nat) : SRes (State × W64) := do
  let x := s.stream d i
  if x.spec then
    let (s, r, p) ← exclPage s d x.oroot so (pageAt s d x.croot so)
    pure (s.modStream d i (fun y => { y with oroot := r }), p)
  else
    let (s, r, p) ← exclPage s d x.croot so 0
    pure (s.modStream d i (fun y => { y with croot := r }), p)

/-- The penalty page made exclusive. -/
def writePen (s : State) (d i : Nat) : SRes (State × W64) := do
  let (s, p) ← exclEntry s d (s.stream d i).pen false
  pure (s.modStream d i (fun y => { y with pen := p }), p)

/-! ## The drover's queues (R336, R337) -/

/-- A weight residency entry. -/
def Die.res (v : Die) (e : Nat) : W128 := tget 0 v.resid e
def resV (r : W128) : Bool := bit r 124
def resDom (r : W128) : Nat := fld r 123 112
def resDmin (r : W128) : Nat := fld r 111 104
def resDwait (r : W128) : Nat := fld r 103 84
def resQmask (r : W128) : Nat := fld r 83 60
def resPrio (r : W128) : Nat := fld r 59 57
def resHip (r : W128) : Nat := fld r 56 0

/-- The entry a stream stands at. -/
def Stream.entry (x : Stream) : Nat := (x.wbase.toNat + x.cur.toNat) % 4096

/-- The rejection test of R337. -/
def resRejects (r : W128) (x : Stream) : Bool :=
  !resV r || decide (resDom r ≠ x.dom.toNat) || decide (resQmask r = 0) || decide (x.layers = 0)

/-- A queue with a stream entered at its place by PRIO and then by arrival (R337): `w` is the time it has waited. -/
def dqInsert (v : Die) (q : List (Nat × Nat)) (i w : Nat) : List (Nat × Nat) :=
  let x := v.stream i
  let before := q.takeWhile (fun p =>
    let y := v.stream p.1
    decide (y.prio.toNat < x.prio.toNat ∨ (y.prio = x.prio ∧ y.arr ≤ x.arr)))
  before ++ (i, w) :: q.drop before.length

/-- The arrival number of a stream that joins a queue now. -/
def dqArrival (v : Die) (q : List (Nat × Nat)) : Nat := (q.map (fun p => (v.stream p.1).arr + 1)).foldl Nat.max 0

/-- A stream leaves every queue. -/
def dqDrop (v : Die) (i : Nat) : Die :=
  { v with dq := v.dq.filterMap (fun q =>
      let l := q.2.filter (fun p => decide (p.1 ≠ i))
      if l.isEmpty then none else some (q.1, l)) }

/-- A stream that becomes READY joins the queue of its entry, or is rejected to IDLE with a DROVE_MISS. -/
def joinQueue (v : Die) (i : Nat) : Die :=
  let x := v.stream i
  let e := x.entry
  if resRejects (v.res e) x then (v.setStream i { x with st := .idle }).count 9
  else
    let q := tget [] v.dq e
    let v := v.setStream i { x with st := .ready, arr := dqArrival v q }
    { v with dq := tset [] v.dq e (dqInsert v q i 0) }

/-- A stream takes a new STATE: it leaves or joins its queue, and leaves its drove unless it stays DROVED. -/
def Die.setSt (v : Die) (i : Nat) (t : StSt) : Die :=
  let v := dqDrop v i
  let x := v.stream i
  let v := v.setStream i { x with st := t, drove := if t = .droved then x.drove else none }
  if t = .ready then joinQueue v i else v

def State.setSt (s : State) (d i : Nat) (t : StSt) : State := s.setDie d ((s.die d).setSt i t)

/-! ## Pins (R327) -/

/-- A stream's count of SPGW in flight changes, while its handle is current. -/
def wpinStream (s : State) (h : BitVec 32) (f : Nat → Nat) : State :=
  match s.streamOf h with
  | some (d, i) => s.modStream d i (fun x => { x with wpins := f x.wpins })
  | none => s

/-- One pin of a frame dropped: a read pin is part of its count. -/
def dropPin (s : State) (d : Nat) (write : Bool) (key : Nat) : State :=
  let v := s.die d
  let f := v.frame key
  s.setDie d (v.setFrame key (if write then { f with wpins := f.wpins - 1 } else { f with rpins := f.rpins - 1 }))

/-- The pins of a command drop: at step 5 of R272, or where it ends by R273. -/
def dropPins (s : State) (op : CmdOp) : State :=
  match op with
  | .spg write h frames =>
    let s := frames.foldl (fun s k => dropPin s (hDie h) write k) s
    if write then wpinStream s h (· - 1) else s
  | _ => s

/-- The pins of a command placed; REFSAT where a read pin would raise a count above 65,535. -/
def placePins (d : Nat) (write : Bool) : List Nat → State → SRes State
  | [], s => .ok s
  | key :: t, s =>
    let v := s.die d
    let f := v.frame key
    if write then placePins d write t (s.setDie d (v.setFrame key { f with wpins := f.wpins + 1 }))
    else if 65535 ≤ f.count then .error (.status 3)
    else placePins d write t (s.setDie d (v.setFrame key { f with rpins := f.rpins + 1 }))

/-! ## Freeing (R330) -/

/-- Frees a stream: its descriptor at once, its frames by count. -/
def freeStream (s : State) (d i : Nat) : State :=
  let x := s.stream d i
  let s := s.setDie d (dqDrop (s.die d) i)
  let v := s.die d
  let y : Stream := { x with st := .free, gen := x.gen + 1, croot := 0, oroot := 0, pen := 0, penc := 0, drove := none,
                             spec := false, posting := false, staged := [], bad := false }
  let s := s.setDie d { v.setStream i y with freed := v.freed ++ [i] }
  [x.croot, x.oroot, x.pen, x.penc].foldl (fun s e => entryDown s d e) s

/-! ## Staging (R335) -/

/-- The staged copy of a byte of a stream's page, or the byte itself. -/
def stagedFa (s : State) (h : BitVec 32) (fa : Nat) : Nat :=
  match s.streamOf h with
  | none => fa
  | some (d, i) =>
    let v := s.die d
    match (s.stream d i).staged.find? (fun q => let a := frameFa v (entryOf q.1); decide (a ≤ fa ∧ fa < a + 65536)) with
    | some (key, b) => b + (fa - frameFa v (entryOf key))
    | none => fa

/-- Every staged copy of a byte of die `d`. -/
def stagedCopies (v : Die) (fa : Nat) : List Nat :=
  v.streams.flatMap (fun p => p.2.staged.filterMap (fun q =>
    let a := frameFa v (entryOf q.1)
    if a ≤ fa ∧ fa < a + 65536 then some (q.2 + (fa - a)) else none))

/-- One page staged in the buffer at `base`, where that has room and the page lies in the CXL tier. -/
def stagePage (d i base : Nat) (s : State) (e : W64) : State :=
  let v := s.die d
  let used := v.streams.flatMap (fun p => p.2.staged.map (·.2))
  let free := (List.range (used.length + 1)).find? (fun j => !used.contains (base + 65536 * j))
  match free with
  | some j =>
    if eTier e = 2 ∧ j < spReg v 0x90 then
      (copyFrame s (frameFa v e) (base + 65536 * j) 65536).modStream d i (fun x =>
        { x with staged := x.staged ++ [(eKey e, base + 65536 * j)] })
    else s
  | none => s

/-- The next layer's pages of a stream with STAGE set are staged at dispatch (R335). -/
def stageNext (d : Nat) (s : State) (i : Nat) : State :=
  let x := s.stream d i
  if !x.stage || x.layers = 0 then s
  else
    let n := (x.cur.toNat + 1) % x.layers.toNat
    let s := s.setStream d i { x with staged := [], stagedFor := n }
    if 512 ≤ n then s
    else
      let pages := fun (root : W64) => (nodeEntries s d (nodeEntry s d root n)).map (·.2)
      let base := spReg (s.die d) (if (x.cur.toNat + 1) % 2 = 0 then 0x80 else 0x88)
      (pages x.croot ++ (if x.spec then pages x.oroot else [])).eraseDups.foldl (stagePage d i base) s

/-- The staged copies of a stream go when its cursor leaves their layer. -/
def Stream.unstage (x y : Stream) : Stream :=
  if x.cur.toNat = x.stagedFor ∧ y.cur ≠ x.cur then { y with staged := [] } else y

/-! ## Records in error (R464, R465) -/

/-- The first word in error of a node frame. -/
def nodeBad (s : State) (d : Nat) (n : W64) : Option Nat :=
  if eValid n then
    let (p, a) := frameMem s (frameFa (s.die d) n)
    if p then none else s.memBad.find? (fun w => decide (w < a + 4096 ∧ a < w + (if faClass w = 3 then 64 else 16)))
  else none

/-- The first word in error of a page table: its root and its middle nodes. -/
def tableBad (s : State) (d : Nat) (root : W64) : Option Nat :=
  (nodeBad s d root).or ((nodeEntries s d root).findSome? (fun p => nodeBad s d p.2))

/-- What a stream processor meets in error as it reads a stream: the descriptor, or (`nodes`) a node of its tables, by unit and
address. -/
def streamError (s : State) (d i : Nat) (nodes : Bool) : Option (Nat × Nat) :=
  let x := s.stream d i
  if x.bad then some (104, 0)
  else if nodes then
    ((tableBad s d x.croot).or (tableBad s d x.oroot)).map (fun w => (if faClass w = 3 then 128 + faUnit w else 104 + faUnit w, w))
  else none

/-- A stream whose record cannot be read is freed as by SPRUNE, with an INTEGRITY record of EVENT 3 (R465, R468). -/
def loseStream (s : State) (d i : Nat) (k : Nat × Nat) : State :=
  integrityReport (freeStream (s.detect d k.1) d i) d 3 0 k.1 k.2

/-! ## Draws (R202) -/

/-- The word j of PhiloxBlock(k, c) is at bits [32j+31:32j] (R188): one round of Philox-4x32. -/
def philoxRound (k0 k1 : Nat) (c : Nat × Nat × Nat × Nat) : Nat × Nat × Nat × Nat :=
  let p0 := 0xD2511F53 * c.1
  let p1 := 0xCD9E8D57 * c.2.2.1
  ((p1 / 2 ^ 32) ^^^ c.2.1 ^^^ k0, p1 % 2 ^ 32, (p0 / 2 ^ 32) ^^^ c.2.2.2 ^^^ k1, p0 % 2 ^ 32)

/-- `n` rounds with the key schedule of Philox-4x32. -/
def philoxRounds : Nat → Nat → Nat → Nat × Nat × Nat × Nat → Nat × Nat × Nat × Nat
  | 0, _, _, c => c
  | n + 1, k0, k1, c =>
    philoxRounds n ((k0 + 0x9E3779B9) % 2 ^ 32) ((k1 + 0xBB67AE85) % 2 ^ 32) (philoxRound k0 k1 c)

/-- PhiloxBlock(k, c): Philox-4x32-10 (R188). -/
def philoxBlock (k c : Nat) : Nat :=
  let w := fun (x i : Nat) => (x >>> (32 * i)) % 2 ^ 32
  let (a, b, e, f) := philoxRounds 10 (w k 0) (w k 1) (w c 0, w c 1, w c 2, w c 3)
  a + b * 2 ^ 32 + e * 2 ^ 64 + f * 2 ^ 96

end Sys2Proof.Machine
end

