-- ==== Sys2Proof/Machine/Copies.lean ====
section
/-! DEFINITION. The copy group at issue: GET, PUT, TCOPY, TGATH, TSCAT, CFILL (R283 to R290), CREPLAY (R293). -/

namespace Sys2Proof.Machine

/-- Register values of an issue: W(B), W(C), W(C+1). -/
structure Vals where
  b : W128 := 0
  c : W128 := 0
  c1 : W128 := 0
  deriving DecidableEq, Repr, Inhabited

/-- Reads the registers that an issue uses. -/
def readVals (a : SetState) (ix : Nat) (t : TailE) (b c c1 : Bool) : Res Vals := do
  let vb ← if b then regRead a ix t.b.toNat else pure 0
  let vc ← if c then regRead a ix t.c.toNat else pure 0
  let v1 ← if c1 then regRead a ix (t.c.toNat + 1) else pure 0
  pure { b := vb, c := vc, c1 := v1 }

/-- The words of a copy-group command. -/
def valWords (t : TailE) (head : Nat) (v : Vals) : Sparse W64 :=
  portWords (tailBits t) head v.b.toNat v.c.toNat v.c1.toNat

/-- Runs an issue of the executing context. -/
def issueRun (u : Use) (b c c1 : Bool) (t : TailE) (body : Who → Vals → State → Res State) (s : State) :
    Host.Outcome State Fault Refusal :=
  ctxRun u (fun e s => do
    let v ← readVals (s.act e.d e.c) e.ix t b c c1
    body (whoOf s e) v s) s

/-- The registers of an issue, as its use. -/
def issueUse (legal : Bool) (t : TailE) (b c c1 : Bool) : Use :=
  let l := (if b then [t.b.toNat] else []) ++ (if c then [t.c.toNat] else []) ++ (if c1 then [t.c.toNat + 1] else [])
  { legal := legal, regs := l.map (fun r => (r, 1)), srcs := l }

/-- Only the bits of `m` of F12 vary, the others are `f`. -/
def f12Is (t : TailE) (f m : Nat) : Bool := decide (t.f12.toNat &&& (0xFFF - m) = f)

/-- Zero bits of an operand, and other conditions on it: ILLEGAL_OP. -/
def need (b : Bool) : Res Unit := require b illegalOp

/-! ## GET and PUT (R284, R285) -/

/-- GET with its operands. -/
def issueGet (t : TailE) (w : Who) (v : Vals) (s : State) : Res State := do
  let acc := t.f12.getLsbD 0
  let len := fld v.b 95 64
  let dst := linearWalk (b2n acc) (fld v.c 19 0) len
  let cm := if bit v.c 68 then some (fld v.c 67 64) else none
  need (decide (fld v.b 127 96 = 0 ∧ len ≤ 0x100000 ∧ fld v.c 70 69 = 0 ∧ fld v.c 63 20 = 0 ∧ (acc = false ∨ fld v.c 19 18 = 0)) &&
    chunkOk cm dst)
  issuePlan w { op := .copy, src := some (linearWalk 3 (fld v.b 63 0) len), dst := some dst, cm := cm, hip := fld v.c 127 71 } t
    (valWords t 0xFC00 v) s

def useGet (d : BitVec 7) (t : TailE) : Use := issueUse (d = 0 && t.l = 0 && f12Is t 0 1) t true true false

/-- GET (R284). -/
def execGet (d : BitVec 7) (t : TailE) (s : State) : Host.Outcome State Fault Refusal :=
  issueRun (useGet d t) true true false t (issueGet t) s

/-- PUT with its operands. -/
def issuePut (t : TailE) (w : Who) (v : Vals) (s : State) : Res State := do
  let acc := t.f12.getLsbD 0
  let dew := t.f12.getLsbD 1
  let len := fld v.b 95 64
  need (decide (fld v.b 127 120 = 0 ∧ len ≤ 0x100000 ∧ fld v.b 63 20 = 0 ∧ (acc = false ∨ fld v.b 19 18 = 0) ∧
    fld v.c 127 64 = 0) && (!dew || endWordOk v.c1))
  issuePlan w { op := .copy, src := some (linearWalk (b2n acc) (fld v.b 19 0) len),
                dst := some (linearWalk 3 (fld v.c 63 0) len), dk := fld v.b 103 96, di := sext 16 (fld v.b 119 104),
                word := if dew then some v.c1 else none } t (valWords t 0xFC00 v) s

def usePut (d : BitVec 7) (t : TailE) : Use :=
  issueUse (d = 0 && t.l = 0 && f12Is t 0x100 3) t true true (t.f12.getLsbD 1)

/-- PUT (R285). -/
def execPut (d : BitVec 7) (t : TailE) (s : State) : Host.Outcome State Fault Refusal :=
  issueRun (usePut d t) true true (t.f12.getLsbD 1) t (issuePut t) s

/-! ## Record commands (R287 to R289) -/

/-- A record that a command of this chapter may name: valid, not in weight-buffer space. -/
def layRec (a : SetState) (n : Nat) : Res (BitVec 512) :=
  let r := (a.layout n).bits
  if recV r && decide (recSpace r ≠ 2) then .ok r else raise illegalOp

/-- The plan of a record command with destination record `r`. -/
def recPlan (op : CmdOp) (src : Option Walk) (r : BitVec 512) (dst : Walk) (word : Option W128) : Plan :=
  { op := op, src := src, dst := some dst, cm := recCm r, dk := recDk r, di := recDi r, word := word }

/-- DEW of the record commands, and the destination record's slot. -/
def dewOf (t : TailE) : Bool := t.f12.getLsbD 6
def dstOf (t : TailE) : Nat := t.f12.toNat % 64

/-- The destination-end word of a record command: W(C) under DEW. -/
def dewWord (t : TailE) (v : Vals) : Option W128 := if dewOf t then some v.c else none
def dewOk (t : TailE) (v : Vals) : Bool := !dewOf t || endWordOk v.c

/-- TCOPY with its operands. -/
def issueTcopy (t : TailE) (w : Who) (v : Vals) (s : State) : Res State := do
  let a := s.act w.a.die w.a.core
  let rs ← layRec a t.l.toNat
  let rd ← layRec a (dstOf t)
  let x := recWalk rs t.l.toNat
  let y := recWalk rd (dstOf t)
  need (decide (x.e = y.e ∧ x.count = y.count) && chunkOk (recCm rd) y && dewOk t v)
  issuePlan w (recPlan .copy (some x) rd y (dewWord t v)) t (valWords t 0xFC00 v) s

def useTcopy (d : BitVec 7) (t : TailE) : Use :=
  issueUse (d = 0 && f12Is t 0x200 0x7F && t.b = 0 && (dewOf t || t.c = 0)) t false (dewOf t) false

/-- TCOPY (R287). -/
def execTcopy (d : BitVec 7) (t : TailE) (s : State) : Host.Outcome State Fault Refusal :=
  issueRun (useTcopy d t) false (dewOf t) false t (issueTcopy t) s

/-- The index list at issue: `cnt` unsigned entries of `es` bytes (R288). -/
def indexList (a : SetState) (x : Ctx) (addr es cnt : Nat) : Res (List Nat) := do
  if addr % es ≠ 0 then raiseAt alignFault addr
  else
    let v ← padRd a x addr addr (es * cnt)
    pure ((List.range cnt).map (fun i => elem v (8 * es) i))

/-- TGATH and TSCAT with their operands: the list indexes the source's rows, or the destination's. -/
def issueRows (scat : Bool) (t : TailE) (w : Who) (v : Vals) (s : State) : Res State := do
  let a := s.act w.a.die w.a.core
  let rs ← layRec a t.l.toNat
  let rd ← layRec a (dstOf t)
  let x := recWalk rs t.l.toNat
  let y := recWalk rd (dstOf t)
  let cnt := if scat then x.extOf 1 else y.extOf 1
  let es := 2 ^ fld v.b 21 20
  need (decide (x.e = y.e ∧ x.extOf 0 = y.extOf 0 ∧ x.extOf 2 = 1 ∧ x.extOf 3 = 1 ∧ y.extOf 2 = 1 ∧ y.extOf 3 = 1 ∧
      cnt ≤ 256 ∧ fld v.b 21 20 ≠ 3 ∧ fld v.b 127 22 = 0) && chunkOk (recCm rd) y && dewOk t v)
  if fld v.b 19 0 % es ≠ 0 then raiseAt alignFault (fld v.b 19 0)
  localOk w.x (some x)
  localOk w.x (some y)
  let l ← indexList a w.x (fld v.b 19 0) es cnt
  issuePlan w (recPlan (if scat then .scatter l else .gather l) (some x) rd y (dewWord t v)) t (valWords t 0xFC00 v) s

def useTgath (d : BitVec 7) (t : TailE) : Use :=
  issueUse (d = 0 && f12Is t 0x300 0x7F && (dewOf t || t.c = 0)) t true (dewOf t) false

/-- TGATH (R288). -/
def execTgath (d : BitVec 7) (t : TailE) (s : State) : Host.Outcome State Fault Refusal :=
  issueRun (useTgath d t) true (dewOf t) false t (issueRows false t) s

def useTscat (d : BitVec 7) (t : TailE) : Use :=
  issueUse (d = 0 && f12Is t 0x400 0x7F && (dewOf t || t.c = 0)) t true (dewOf t) false

/-- TSCAT (R288). -/
def execTscat (d : BitVec 7) (t : TailE) (s : State) : Host.Outcome State Fault Refusal :=
  issueRun (useTscat d t) true (dewOf t) false t (issueRows true t) s

/-- CFILL with its operands. -/
def issueCfill (t : TailE) (w : Who) (v : Vals) (s : State) : Res State := do
  let rd ← layRec (s.act w.a.die w.a.core) t.l.toNat
  let y := recWalk rd t.l.toNat
  need (chunkOk (recCm rd) y && dewOk t v)
  issuePlan w (recPlan (.fill v.b) none rd y (dewWord t v)) t (valWords t 0xFC00 v) s

def useCfill (d : BitVec 7) (t : TailE) : Use :=
  issueUse (d = 0 && f12Is t 0x500 0x40 && (dewOf t || t.c = 0)) t true (dewOf t) false

/-- CFILL (R289). -/
def execCfill (d : BitVec 7) (t : TailE) (s : State) : Host.Outcome State Fault Refusal :=
  issueRun (useCfill d t) true (dewOf t) false t (issueCfill t) s

/-! ## CREPLAY (R282, R293) -/

/-- The token of a held request: its engine, the incarnation of the hold, the request's number. -/
def replayToken (pkg die eng seq req : Nat) : Nat :=
  pkg * 2 ^ 52 + die * 2 ^ 48 + eng * 2 ^ 43 + seq % 65536 * 65536 + req % 65536

/-- Number of a core's entry as a held request at an engine. -/
def requestNo (c e : Nat) : Nat := c * 16 + e

/-- The held request of a core's commands that a token names. -/
def heldEntry (s : State) (d c : Nat) (t : Nat) : Option (Nat × PostEntry) :=
  (s.act d c).post.find? (fun p => match p.2.cxlHeld, p.2.engine with
    | some (_, seq), some (ed, eng, _) => decide (replayToken s.pkg.toNat ed eng seq (requestNo c p.1) = t)
    | _, _ => false)

/-- The locks of a post-queue entry are lifted and the entry freed. -/
def freeEntry (a : SetState) (n : Nat) : SetState :=
  { a with locks := a.locks.filter (fun l => decide (l.owner ≠ .post n)), post := tdel a.post n }

/-- The signal of a half's last WBLD is no longer owed. -/
def wbldEnded (a : SetState) (p : PostEntry) : SetState :=
  match p.op with
  | .wbld h =>
    let x : WHalf := tget {} a.halves h
    if x.last = p.seq then { a with halves := tset {} a.halves h { x with signal := none } } else a
  | _ => a

/-- What ends with a failed command: a WBLD's image bytes that have not landed become zero, its locks are lifted, its entry
is freed (R273, R304). A wait for its own commands may then hold. -/
def endFailed (k : Core) (n : Nat) (p : PostEntry) (missing : List Nat) : Core :=
  { k with
    act := wakeAll (wbldEnded (freeEntry k.act n) p), wbuf := missing.foldl (fun m b => memSet m b 0) k.wbuf
    wbufBad := k.wbufBad.filter (fun w => !(List.range 16).all (fun i => missing.contains (16 * w + i))) }

/-- Image bytes of a WBLD's chunks that have not landed. -/
def missingImage (p : PostEntry) : List Nat :=
  match p.op, p.dst with
  | .wbld _, some w =>
    ((List.range w.len).filter (fun b => !p.landed.contains (b / 512))).map (fun b => w.lo + b)
  | _, _ => []

def useCreplay (d : BitVec 7) (t : TailV) : Use :=
  { legal := vOnly t true false false false false 0x31 && (t.f = 0x30 || t.f = 0x31)
    regs := [(d.toNat, 1), (t.b.toNat, 1)], srcs := [t.b.toNat] }

/-- CREPLAY (R293): the held request resumes, or with ABORT ends without a report and without an ENG_FAIL (R273). -/
def execCreplay (d : BitVec 7) (t : TailV) (s : State) : Host.Outcome State Fault Refusal :=
  ctxRun (useCreplay d t) (fun e s => do
    let a := s.act e.d e.c
    let b ← regRead a e.ix t.b.toNat
    let done := fun (s : State) (st : Nat) => s.setAct e.d e.c (regWrite (s.act e.d e.c) e.ix d.toNat st allBytes)
    match heldEntry s e.d e.c (fld b 63 0) with
    | none => pure (done s 1)
    | some (n, p) =>
      if p.issuer.dom ≠ (s.ctx e).dom then pure (done s 5)
      else if t.f.getLsbD 0 then
        pure (done (dropPins (s.setCore e.d e.c (endFailed (s.core e.d e.c) n p (missingImage p))) p.op) 0)
      else
        pure (done (s.setAct e.d e.c { a with post := tins a.post n { p with cxlHeld := none, cxlTold := false } }) 0)) s

end Sys2Proof.Machine
end

