-- ==== Sys2Proof/Machine/Engine.lean ====
section
/-! DEFINITION. The copy engines: what a command moves (R276, R287 to R289, R304, R316), where its bytes come from and go to
(R146, R238, R281, R454), the engine that serves it (R270, R271), landing (R272, R280, R462), completion and failure (R272,
R273), the far queue's holds (R282). -/

namespace Sys2Proof.Machine

/-! ## What a command moves -/

/-- One element on its way: its first bit in the destination space, its width, and where it comes from: a first bit in the
source space, or a value. -/
structure Move where
  dst : Nat
  w : Nat
  src : Option Nat
  v : Nat := 0
  deriving DecidableEq, Repr

/-- A tile element of ACCVT (R297, R315): TTY 0 F32, 1 SI32, 2 F64. -/
def tileVal (acc : Mem) (tile tty r c : Nat) : FVal :=
  let at4 := memRead acc (tile * 0x4000 + 4 * (64 * r + c)) 4
  match tty with
  | 0 => decodeF fmtF32 at4
  | 1 => let i := sext 32 at4; .fin (decide (i < 0)) i.natAbs 0
  | _ => decodeF ⟨64, 11, 52, 1023, 0, true, 1⟩ (memRead acc (tile * 0x4000 + 8 * (64 * r + c)) 8)

/-- Element (i0, i1) of ACCVT (R316): exact product, one rounding. -/
def accvtVal (acc : Mem) (tile : Nat) (tr : Bool) (scl tty : Nat) (satm : Bool) (scales : BitVec 2048) (ty i0 i1 : Nat) : Nat :=
  let (r, c) := if tr then (i0, i1) else (i1, i0)
  let x := tileVal acc tile tty r c
  let i := if scl = 1 then r else c
  let v := if scl = 0 then x else (mulF x (decodeF fmtF32 (fld scales (32 * i + 31) (32 * i)))).1
  let env : FpEnv := { mode := rne, satm := satm, narrow := true }
  match fmtOf ty with
  | some f => (roundVal f env v).1
  | none => (toInt (tyBits ty) (tySigned ty) env v).1

/-- The elements a command moves, in walk order. -/
def PostEntry.moves (acc : Mem) (p : PostEntry) : List Move :=
  match p.dst with
  | none => []
  | some y =>
    let put := fun (n : Nat) (x : Option Nat) (v : Nat) => ({ dst := y.bitAt n, w := y.e, src := x, v := v } : Move)
    match p.op, p.src with
    | .copy, some x | .spg _ _ _, some x => (List.range y.count).map (fun n => put n (some (x.bitAt n)) 0)
    | .gather l, some x =>
      let m := y.extOf 0
      l.zipIdx.flatMap (fun q => (List.range m).map (fun i =>
        if q.1 < x.extOf 1 then put (q.2 * m + i) (some (x.bitAt (q.1 * m + i))) 0 else put (q.2 * m + i) none 0))
    | .scatter l, some x =>
      let m := y.extOf 0
      l.zipIdx.flatMap (fun q => if q.1 < y.extOf 1 then
        (List.range m).map (fun i => put (q.1 * m + i) (some (x.bitAt (q.2 * m + i))) 0) else [])
    | .fill v, _ => (List.range y.count).map (fun n => put n none (v.toNat % 2 ^ y.e))
    | .wbld _, some x =>
      let plane := x.count * x.e / 8
      (List.range x.count).map (fun n => { dst := 8 * y.base + n * x.e, w := x.e, src := some (x.bitAt n) }) ++
      (List.range (y.len - plane)).map (fun k =>
        { dst := 8 * (y.base + plane + k), w := 8, src := some (8 * (x.base + x.soff + k)) })
    | .accvt tile tr scl tty satm scales, _ =>
      (List.range y.count).map (fun n =>
        put n none (accvtVal acc tile tr scl tty satm scales y.fmt (n % y.extOf 0) (n / y.extOf 0)))
    | _, _ => []

/-- The bytes an element touches: from its first byte. -/
def spanBytes (bitAddr w : Nat) : List Nat :=
  (List.range ((bitAddr + w + 7) / 8 - bitAddr / 8)).map (fun i => bitAddr / 8 + i)

/-- The moves that write a byte of [lo, lo+n-1]. -/
def movesIn (l : List Move) (lo n : Nat) : List Move :=
  l.filter (fun m => meets (m.dst / 8) ((m.dst + m.w + 7) / 8 - m.dst / 8) lo n)

/-- An element's bits placed in a table of bytes. -/
def putElem (t : Sparse Nat) (m : Move) (v : Nat) : Sparse Nat :=
  let sh := m.dst % 8
  let word := (v % 2 ^ m.w) * 2 ^ sh
  let mask := (2 ^ m.w - 1) * 2 ^ sh
  (spanBytes m.dst m.w).foldl (fun t b =>
    let k := b - m.dst / 8
    let old := tget 0 t b
    tins t b ((old &&& (255 - byteAt mask k)) ||| byteAt word k)) t

/-- Value of a move, from the source bytes read. -/
def moveVal (src : Sparse Nat) (m : Move) : Nat :=
  match m.src with
  | none => m.v
  | some a => ((spanBytes a m.w).foldr (fun b n => tget 0 src b + 256 * n) 0 >>> (a % 8)) % 2 ^ m.w

/-- The bytes that a command writes in [lo, lo+n-1], with their values: the element latest in the walk prevails. -/
def chunkBytes (l : List Move) (src : Sparse Nat) (lo n : Nat) : Sparse Nat :=
  ((movesIn l lo n).foldl (fun t m => putElem t m (moveVal src m)) []).filter (fun p => decide (lo ≤ p.1 ∧ p.1 < lo + n))

/-- The source bytes that they need. -/
def chunkSrc (l : List Move) (lo n : Nat) : List Nat :=
  ((movesIn l lo n).flatMap (fun m => match m.src with
    | some a => spanBytes a m.w
    | none => [])).eraseDups

/-- Chunks of a destination. -/
def PostEntry.chunks (p : PostEntry) : Nat :=
  match p.dst with
  | some y => (y.len + 511) / 512
  | none => 0

/-- What chunk `j` of an entry writes: first byte and length. Each 16-byte block is written whole (R264), so one that two chunks share goes
with the first of them to land. -/
def PostEntry.span (p : PostEntry) (w : Walk) (j : Nat) : Nat × Nat :=
  let lo := w.lo + 512 * j
  let top := w.lo + w.len
  let hi := Nat.min top (lo + 512)
  let lo' := if j = 0 ∨ lo % 16 = 0 then lo
    else if p.landed.contains (j - 1) then lo / 16 * 16 + 16 else Nat.max w.lo (lo / 16 * 16)
  let hi' := if hi = top ∨ hi % 16 = 0 then hi
    else if p.landed.contains (j + 1) then hi / 16 * 16 else Nat.min top (hi / 16 * 16 + 16)
  (lo', hi' - lo')

/-- Has every chunk landed? -/
def PostEntry.done (p : PostEntry) : Bool := (List.range p.chunks).all (fun j => p.landed.contains j)

/-! ## Bytes of a space -/

/-- A byte read, or why it is not: the request is held, fails with the address that R498 names, or is a violation (R439
reason 3) at the core whose sets both refuse the domain; or the word is in error (R464). -/
inductive Got where
  | byte (b : Nat)
  | held
  | fails (addr : Nat)
  | refused (d c addr : Nat)
  | bad (addr : Nat)
  deriving DecidableEq, Repr

/-- Byte `n` of the free values of this step. -/
def State.freeByte (s : State) (n : Nat) : Nat := (s.free n).toNat % 256

/-- One byte at a fabric address, as an engine reads it for a domain (R146, R238, R454); `va` is its virtual address and `n`
its number among the free values. -/
def fabricByte (s : State) (dom : BitVec 12) (fa va n : Nat) : Got :=
  if s.unreachable (faPkg fa) then .fails va
  else if !s.here fa then .byte (s.freeByte n)
  else if !faOk fa then .fails va
  else
    match faClass fa with
    | 0 =>
      match remoteAt s { op := .load, fa := fa, size := 1, dom := dom } with
      | .set d c sh g =>
        let a := (s.core d c).set sh
        if (padBad a.pad g (faOff fa) 1).isSome then .bad fa else .byte (padBytes a.pad g (faOff fa) 1)
      | .fails => .fails fa
      | .held => .held
      | .refused d c => .refused d c fa
    | 2 | 3 =>
      if !homeFree s fa then .held
      else if !lineDirty s fa && (s.badWord fa 1).isSome then .bad fa
      else .byte (byteAt (lineValue s fa).toNat (fa % 64))
    | 5 => match poolBus s fa with
      | some b => .byte (memGet s.pool b).toNat
      | none => .fails va
    | _ => match hostBus s fa with
      | some _ => .byte (s.freeByte n)
      | none => .fails va

/-- The bytes at `fa`, ..., `fa + k - 1`, little-endian. -/
def fabricBytes (s : State) (dom : BitVec 12) (fa va n : Nat) : Nat → Except Got Nat
  | 0 => .ok 0
  | k + 1 =>
    match fabricByte s dom fa va n with
    | .byte b => (fabricBytes s dom (fa + 1) (va + 1) (n + 1) k).map (fun r => b + 256 * r)
    | g => .error g

/-- The key a walk names, as its die holds it for the domain (R281). -/
def walkKey (s : State) (d : Nat) (dom : BitVec 12) (w : Walk) : Option (BitVec 512) :=
  if w.key = 0 then none else some (((s.die d).keyFor w.key dom).getD 0)

/-- A global byte through a walk: decrypted within its 16-byte block when the walk names a key (R281). -/
def globalByte (s : State) (d : Nat) (dom : BitVec 12) (w : Walk) (va n : Nat) : Got :=
  let fa := w.fa va
  match walkKey s d dom w with
  | none => fabricByte s dom fa va (16 * n)
  | some k =>
    match fabricBytes s dom (fa / 16 * 16) (va / 16 * 16) (16 * n) 16 with
    | .ok v => .byte (byteAt (xtsDec k (fa / 16 * 16) v) (fa % 16))
    | .error g => g

/-- The stream of a page command. -/
def PostEntry.stream (p : PostEntry) : BitVec 32 :=
  match p.op with
  | .spg _ h _ => h
  | _ => noHandle

/-- A source byte of a command, read once (R263); a staged page is read from its buffer (R335). -/
def srcByte (s : State) (d c : Nat) (p : PostEntry) (b n : Nat) : Got :=
  match tfind p.got b, p.src with
  | some v, _ => .byte v
  | none, none => .byte 0
  | none, some w =>
    let a := s.act d c
    match w.space with
    | 0 => match a.coverGen b 1 with
      | some g => if (padBad a.pad g b 1).isSome then .bad b else .byte (padBytes a.pad g b 1)
      | none => .byte 0
    | 1 => if (wordBad a.accBad b 1).isSome then .bad b else .byte (memGet a.acc b).toNat
    | 4 => if w.pages.any (fun q => decide (q.1 = b / 65536)) then fabricByte s p.issuer.dom (stagedFa s p.stream (w.fa b)) (w.fa b) n
      else .byte 0
    | _ => globalByte s d p.issuer.dom w b n

/-- All source bytes of a list, added to those read. -/
def readSrc (s : State) (d c : Nat) (p : PostEntry) : List Nat → Nat → Sparse Nat → Except Got (Sparse Nat)
  | [], _, t => .ok t
  | b :: bs, n, t =>
    match srcByte s d c p b n with
    | .byte v => readSrc s d c p bs (n + 1) (tins t b v)
    | g => .error g

/-- Does a table of bytes hold all of a protected word of `len` bytes? -/
def wholeWord (bytes : Nat → Bool) (w len : Nat) : Bool := (List.range len).all (fun i => bytes (w + i))

/-- One byte performs at a fabric address (R146, R236, R238, R454). `all` says which bytes the same transfer writes: a word in error that
it does not write whole is consumed by the merge (R464). -/
def putFabric (s : State) (dom : BitVec 12) (all : Nat → Bool) (fa va : Nat) (v : Nat) : Except Got State :=
  if s.unreachable (faPkg fa) then .error (.fails va)
  else if !s.here fa then .ok s
  else if !faOk fa then .error (.fails va)
  else
    match faClass fa with
    | 0 =>
      match remoteAt s { op := .store, fa := fa, size := 1, dom := dom } with
      | .set d c sh g =>
        let k := s.core d c
        let a := k.set sh
        let whole := wholeWord all (fa / 16 * 16) 16
        if (padBad a.pad g (faOff fa) 1).isSome && !whole then .error (.bad fa)
        else
          let pad := padPut a.pad g (faOff fa) 1 v
          .ok (s.setCore d c (k.putSet sh { a with pad := if whole then mendGran pad (faOff fa / 16) else pad }))
      | .fails => .error (.fails fa)
      | .held => .error .held
      | .refused d c => .error (.refused d c fa)
    | 2 | 3 =>
      let n := wordLen fa
      let whole := wholeWord all (fa / n * n) n
      if !homeFree s fa then .error .held
      else if !lineDirty s fa && (s.badWord fa 1).isSome && !whole then .error (.bad fa)
      else
        let s := storeBytes s fa [BitVec.ofNat 8 v]
        .ok (if whole then s.mended (fa / n * n) n else s)
    | 5 => match poolBus s fa with
      | some b => .ok { s with pool := memSet s.pool b (BitVec.ofNat 8 v) }
      | none => .error (.fails va)
    | _ => match hostBus s fa with
      | some b => .ok { s with host := memSet s.host b (BitVec.ofNat 8 v) }
      | none => .error (.fails va)

/-- `k` bytes of `v`. -/
def putFabrics (dom : BitVec 12) (all : Nat → Bool) (fa va v : Nat) : Nat → State → Except Got State
  | 0, s => .ok s
  | k + 1, s => do
    let s ← putFabric s dom all fa va (v % 256)
    putFabrics dom all (fa + 1) (va + 1) (v / 256) k s

/-- A chunk's bytes under a key: block by block, read unless all of it is written, decrypted, merged, encrypted, written whole (R281). -/
def putBlocks (d : Nat) (dom : BitVec 12) (w : Walk) (key : BitVec 512) (bytes : Sparse Nat) (all : Nat → Bool) :
    List Nat → Nat → State → Except Got State
  | [], _, s => .ok s
  | va :: vs, n, s => do
    let fa := w.fa va
    let old ← (if wholeWord (fun b => (tfind bytes b).isSome) va 16 then .ok 0 else fabricBytes s dom fa va (16 * n) 16)
    let plain := xtsDec key fa old
    let new := (List.range 16).foldr (fun i r => (match tfind bytes (va + i) with
      | some b => b
      | none => byteAt plain i) + 256 * r) 0
    let s ← putFabrics dom all fa va (xtsEnc key fa new) 16 s
    putBlocks d dom w key bytes all vs (n + 1) s

/-- A byte written to a page's home frame reaches every staged copy in the same step (R335). -/
def restage (s : State) (h : BitVec 32) (fa v : Nat) : State :=
  (stagedCopies (s.die (hDie h)) fa).foldl (fun s b => storeBytes s b [BitVec.ofNat 8 v]) s

/-- One byte of a chunk in the destination space; a paddock byte goes under the covering region's generation, one that no live region covers
any more is dropped. -/
def putByte (d c : Nat) (p : PostEntry) (w : Walk) (all : Nat → Bool) (b v : Nat) (s : State) : Except Got State :=
  let k := s.core d c
  let whole := wholeWord all (b / 16 * 16) 16
  match w.space with
  | 0 => match k.act.coverGen b 1 with
    | some g =>
      if (padBad k.act.pad g b 1).isSome && !whole then .error (.bad b)
      else
        let pad := padPut k.act.pad g b 1 v
        .ok (s.setAct d c { k.act with pad := if whole then mendGran pad (b / 16) else pad })
    | none => .ok s
  | 1 =>
    if (wordBad k.act.accBad b 1).isSome && !whole then .error (.bad b)
    else .ok (s.setAct d c { k.act with
      acc := memSet k.act.acc b (BitVec.ofNat 8 v), accBad := if whole then k.act.accBad.erase (b / 16) else k.act.accBad })
  | 2 =>
    if (wordBad k.wbufBad b 1).isSome && !whole then .error (.bad b)
    else .ok (s.setCore d c { k with
      wbuf := memSet k.wbuf b (BitVec.ofNat 8 v), wbufBad := if whole then k.wbufBad.erase (b / 16) else k.wbufBad })
  | 4 => (putFabric s p.issuer.dom all (w.fa b) b v).map (fun s => restage s p.stream (w.fa b) v)
  | _ => putFabric s p.issuer.dom all (w.fa b) b v

/-- A chunk's bytes in the destination space. -/
def putBytes (d c : Nat) (p : PostEntry) (w : Walk) (all : Nat → Bool) : Sparse Nat → State → Except Got State
  | [], s => .ok s
  | (b, v) :: t, s => do
    let s ← putByte d c p w all b v s
    putBytes d c p w all t s

def putChunk (s : State) (d c : Nat) (p : PostEntry) (w : Walk) (bytes : Sparse Nat) : Except Got State :=
  let at' := fun (b : Nat) => if 3 ≤ w.space then w.fa b else b
  match walkKey s d p.issuer.dom w with
  | some k =>
    let blocks := (bytes.map (fun q => q.1 / 16 * 16)).eraseDups
    let fas := blocks.map at'
    putBlocks d p.issuer.dom w k bytes (fun f => fas.contains (f / 16 * 16)) blocks 0 s
  | none =>
    let fas := bytes.map (fun q => at' q.1)
    putBytes d c p w (fun f => fas.contains f) bytes s

/-! ## Capture and dispatch (R269 to R271) -/

/-- COMMAND_CAPTURE (R269, R309): a port's shadow set moves to its free active set; a command of ports 0, 2 and 3 is then
captured into its entry. Port 1 keeps a command active until it completes. -/
def execCommandCapture (d c port : Nat) (s : State) : Host.Outcome State Fault Refusal :=
  let a := s.act d c
  let p := a.port port
  match p.activeCmd, p.shadowCmd with
  | none, some n =>
    .next (s.setAct d c (a.setPort port { p with active := p.shadow, activeCmd := some n, shadowCmd := none }))
  | some n, _ =>
    if port = 1 then .next s
    else
      let a := a.setPort port { p with activeCmd := none }
      let x : PostEntry := tget {} a.post n
      .next (s.setAct d c (if (tfind a.post n).isSome then
        wakeCommands { a with post := tins a.post n { x with captured := true } } else a))
  | none, none => .next s

/-- The engine that serves data at a fabric address (R270). -/
def engineAt (s : State) (d : Nat) (fa : Nat) : Nat × Nat :=
  match faClass fa with
  | 0 => (faDie fa, (logicalOf (s.die (faDie fa)) (faUnit fa)).getD 0 / 4)
  | 2 => (faDie fa, faUnit fa)
  | 3 => (faDie fa, 24 + 4 * faUnit fa + fa / 4096 % 4)
  | _ => (d, 24 + fa / 4096 % 8)

/-- The first address a command reads, or with no source the first it writes: a fabric address, when it is global. -/
def firstFa (acc : Mem) (p : PostEntry) : Option Nat :=
  match p.moves acc |>.findSome? (fun m => m.src), p.src with
  | some b, some w => if w.space = 3 then some (w.fa (b / 8)) else none
  | _, some _ => none
  | _, none => match (p.moves acc).head?, p.dst with
    | some m, some w => if w.space = 3 then some (w.fa (m.dst / 8)) else none
    | _, _ => none

/-- Does a walk touch class 5 or 6? -/
def Walk.far (w : Option Walk) : Bool :=
  match w with
  | some x => decide (3 ≤ x.space) && x.pages.any (fun p => decide (faClass p.2 = 5 ∨ faClass p.2 = 6))
  | none => false

/-- The serving engine: die, engine, far queue. -/
def engineFor (s : State) (d c : Nat) (p : PostEntry) : Nat × Nat × Bool :=
  let first := match p.op with
    | .spg write _ _ => (if write then p.dst else p.src).bind (fun w =>
        if w.pages.any (fun q => decide (q.1 = w.base / 65536)) then some (w.fa w.base) else none)
    | _ => firstFa (s.act d c).acc p
  let (ed, en) := match first with
    | some fa => engineAt s d fa
    | none => (d, c / 4)
  (ed, en, Walk.far p.src || Walk.far p.dst)

/-- Requests in an engine's far queue. -/
def farCount (s : State) (ed en : Nat) : Nat :=
  (s.coreList.map (fun (d, c) =>
    ((s.act d c).post.filter (fun p => decide (p.2.engine = some (ed, en, true)))).length +
    (((s.core d c).shd).post.filter (fun p => decide (p.2.engine = some (ed, en, true)))).length)).sum

/-- Two locks conflict: they share a byte that both still hold, and one is W (R280, R309). -/
def locksConflict (a : SetState) (x y : Lock) : Bool :=
  x.space = y.space && (x.w || y.w) && meets x.lo (x.hi + 1 - x.lo) y.lo (y.hi + 1 - y.lo) &&
  (y.cm.isNone || !y.w ||
    (List.range (Nat.min x.hi y.hi + 1 - Nat.max x.lo y.lo)).any (fun i => lockHolds a y (Nat.max x.lo y.lo + i)))

/-- A command issued earlier, or a replay, holds a lock that conflicts with one of the owner's (R309). -/
def hazard (a : SetState) (owner : LockOwner) (seq : Nat) : Bool :=
  a.locks.any (fun x => x.owner = owner && a.locks.any (fun y => y.owner ≠ owner &&
    (decide (y.seq < seq) || (match y.owner with | .replay _ => true | _ => false)) && locksConflict a x y))

/-- Matrix commands start only clear of hazards (R309). -/
def hazardFree (a : SetState) (n : Nat) (p : PostEntry) : Bool :=
  match p.op with
  | .wbld _ => !hazard a (.post n) p.seq
  | .accvt _ _ _ _ _ _ => !hazard a (.post n) p.seq
  | _ => true

/-- Commands that the engines move by chunks. -/
def CmdOp.byChunks : CmdOp → Bool
  | .copy | .gather _ | .scatter _ | .fill _ | .wbld _ | .accvt _ _ _ _ _ _ | .spg _ _ _ => true
  | _ => false

/-- A key slot that a walk of the command names and its die does not hold for the domain (R281): the first address concerned. -/
def keyMissing (s : State) (d : Nat) (p : PostEntry) : Option Nat :=
  [p.src, p.dst].findSome? (fun w => match w with
    | some x => if x.key ≠ 0 ∧ x.space = 3 ∧ ((s.die d).keyFor x.key p.issuer.dom).isNone then some x.lo else none
    | none => none)

/-- A core's post queue freezes for a reason (R439, R440). -/
def freezePost (s : State) (d c reason odom addr : Nat) : State :=
  let k := s.core d c
  let s := s.setCore d c { k with act := { k.act with postFrozen := true }, frz := true }
  freezeReport s d 1 reason c odom 0xFFF addr false

/-- An engine's request stream for a domain freezes, for a request of core `c` of die `d` (R439 reason 3, R441). -/
def freezeStream (s : State) (ed en d c : Nat) (dom : BitVec 12) (td tc addr : Nat) : State :=
  let v := s.die ed
  let s := if v.engFrz.contains (en, dom.toNat) then s else s.setDie ed { v with engFrz := v.engFrz ++ [(en, dom.toNat)] }
  freezeReport (setFrz s d c) ed 2 3 (en + ed * 256) dom.toNat (targetDom (s.die td) tc) addr false

/-- COMMAND_DISPATCH (R270): the request of a captured entry leaves for its engine once its wait is met and nothing holds
it; an SMIG starts its migration (R340). -/
def execCommandDispatch (d c e : Nat) (s : State) : Host.Outcome State Fault Refusal :=
  let k := s.core d c
  match tfind k.act.post e with
  | none => .next s
  | some p =>
    if !entryClear k p || p.engine.isSome || !hazardFree k.act e p then .next s
    else if !p.op.byChunks then
      match p.op with
      | .smig h pkg die dst _ =>
        let s := s.setAct d c { k.act with post := tins k.act.post e { p with engine := some (d, 0, false) } }
        let m : Migration := { h := h, pkg := pkg, die := die, dst := dst, ed := d, ec := c, ee := e, es := p.seq }
        .next { s with migs := tins s.migs s.nextMig m, nextMig := s.nextMig + 1 }
      | _ => .next s
    else
      match keyMissing s d p with
      | some va => .next (freezePost s d c 2 p.issuer.dom.toNat va)
      | none =>
        let (ed, en, far) := engineFor s d c p
        if far && decide (32 ≤ farCount s ed en) then .next s
        else
          let v := s.die ed
          let s := s.setAct d c { k.act with post := tins k.act.post e { p with engine := some (ed, en, far), arr := v.engSeq } }
          .next (s.setDie ed { s.die ed with engSeq := v.engSeq + 1 })

/-! ## Landing (R272, R280, R462) -/

/-- The request stream of an entry's engine is frozen for its domain (R440). -/
def streamFrozen (s : State) (p : PostEntry) : Bool :=
  match p.engine with
  | some (ed, en, _) => (s.die ed).engFrz.contains (en, p.issuer.dom.toNat)
  | none => false

/-- A chunk-map bit of the set becomes 1. -/
def setChunkBit (a : SetState) (cm : Option Nat) (j : Nat) : SetState :=
  match cm with
  | some m => wakeAll { a with chunk := tset 0 a.chunk m (tget 0 a.chunk m ||| (1#128 <<< j)) }
  | none => a

/-- The conflict counter of the slot that named a local walk rises by what the banks decide (R278; log entry 4). -/
def addConflicts (s : State) (a : SetState) (n : Nat) (w : Option Walk) : SetState :=
  match w with
  | some x =>
    match x.slot with
    | some l =>
      if x.space = 0 ∨ x.space = 1 then
        let y := a.layout l
        a.setLayout l { y with conf := BitVec.ofNat 16 (Nat.min 0xFFFF (y.conf.toNat + Config.freePick (s.tick * 65536 + n))) }
      else a
    | none => a
  | none => a

/-- The entry after one of its chunks has landed. -/
def landed (s : State) (d c e j : Nat) (p : PostEntry) (got : Sparse Nat) : State :=
  let a := s.act d c
  let a := { a with post := tins a.post e { p with landed := j :: p.landed, got := got } }
  let a := addConflicts s (addConflicts s (setChunkBit a p.cm j) 0 p.src) 1 p.dst
  s.setAct d c a

/-- Who a command's sender is. -/
def entrySender (d c e : Nat) (p : PostEntry) : Sender := issuerSender d c p.issuer e p.seq

/-- A request that arrived earlier at the same engine for the same domain has still to resume (R442). -/
def resumesLater (s : State) (p : PostEntry) : Bool :=
  p.resume && s.coreList.any (fun (d, c) => !(s.core d c).halted && (s.act d c).post.any (fun q =>
    q.2.resume && decide (q.2.arr < p.arr ∧ q.2.issuer.dom = p.issuer.dom ∧ q.2.engine.map (fun x => (x.1, x.2.1)) = p.engine.map (fun x => (x.1, x.2.1)))))

/-- May chunk `j` of an entry land now? -/
def chunkReady (s : State) (k : Core) (p : PostEntry) (j : Nat) : Bool :=
  p.engine.isSome && p.op.byChunks && p.cxlHeld.isNone && decide (j < p.chunks) && !p.landed.contains j && !k.halted &&
  !streamFrozen s p && !resumesLater s p

/-- The tile of an ACCVT holds no word in error. -/
def tileGood (a : SetState) : CmdOp → Except Got Unit
  | .accvt tile _ _ tty _ _ =>
    if a.accBad.isEmpty then .ok ()
    else match wordBad a.accBad (tile * 0x4000) (if tty = 2 then 0x8000 else 0x4000) with
      | some b => .error (.bad b)
      | none => .ok ()
  | _ => .ok ()

/-- The bytes of chunk `j` read and written: the state and the source bytes read by then, or why the chunk does not land. -/
def moveChunk (s : State) (d c : Nat) (p : PostEntry) (w : Walk) (j : Nat) : Except Got (State × Sparse Nat) := do
  let l := p.moves (s.act d c).acc
  let (lo, n) := p.span w j
  tileGood (s.act d c) p.op
  let got ← readSrc s d c p (chunkSrc l lo n) 0 p.got
  let s ← putChunk s d c p w (chunkBytes l got lo n)
  .ok (s, got)

/-- The report of a command that failed at an address (R273, R498). -/
def failReport (s : State) (d c : Nat) (p : PostEntry) (addr : Nat) : State :=
  match p.engine with
  | some (ed, _, _) =>
    let away := match firstFa (s.act d c).acc p with
      | some fa => !s.here fa
      | none => false
    if away then s else s.remoteReport ed 4 addr (entrySender d c 0 p).handle 0
  | none => s

/-- A dispatched command ends by R273: its locks are lifted, its entry freed, one ENG_FAIL counted. -/
def failEntry (s : State) (d c e : Nat) (p : PostEntry) : State :=
  let k := (s.core d c).count 2 1
  dropPins (s.setCore d c (endFailed k e p (missingImage p))) p.op

/-- A command that would consume a word in error ends so without a report, and its core's post queue freezes with REASON 6 (R465). -/
def badEntry (s : State) (d c e : Nat) (p : PostEntry) (addr : Nat) : State :=
  let s := if addr < 2 ^ 20 then s.detect d (physOf (s.die d) c)
    else if faClass addr = 0 then s.detect (faDie addr) (faUnit addr) else s.detectWord addr
  freezePost (failEntry s d c e p) d c 6 p.issuer.dom.toNat addr

/-- CHUNK_LAND (R272 steps 1 and 2, R462): 512 bytes of the destination span land. A chunk whose CRC fails is asked for again,
and the fourth failure is an uncorrected error (R465). -/
def execChunkLand (d c e j : Nat) (crcBad : Bool) (s : State) : Host.Outcome State Fault Refusal :=
  let k := s.core d c
  match tfind k.act.post e with
  | none => .next s
  | some p =>
    match p.dst with
    | none => .next s
    | some w =>
      if !chunkReady s k p j then .next s
      else if crcBad then
        let n := tget 0 p.retries j + 1
        if 4 ≤ n then .next (freezePost (failEntry s d c e p) d c 6 p.issuer.dom.toNat (w.lo + 512 * j))
        else .next (s.setAct d c { k.act with post := tins k.act.post e { p with retries := tset 0 p.retries j n } })
      else
        match moveChunk s d c p w j with
        | .ok (s', got) => .next (landed s' d c e j { p with resume := false } got)
        | .error (.bad addr) => .next (badEntry s d c e p addr)
        | .error (.refused td tc fa) =>
          if (p.src.map (fun x => x.space = 3 && x.pages.any (fun q => q.2 / 65536 = fa / 65536))).getD false then
            match p.engine with
            | some (ed, en, _) => .next (freezeStream s ed en d c p.issuer.dom td tc fa)
            | none => .next s
          else .next (violation s (entrySender d c e p) td tc fa)
        | .error _ => .next (s.setAct d c { k.act with post := tins k.act.post e { p with resume := false } })

/-! ## Completion (R272) -/

/-- An entry of the active set changed. -/
def State.setEntry (s : State) (d c e : Nat) (p : PostEntry) : State :=
  s.setAct d c { s.act d c with post := tins (s.act d c).post e p }

/-- Step 3: the destination-end signal, where it is due. -/
def endSignal (s : State) (d c e : Nat) (p : PostEntry) : State :=
  let u := UpdOp.signal p.dk p.di
  if p.di = 0 then s
  else if p.endPkg ≠ s.pkg.toNat then s
  else if p.endDie = d ∧ p.endCore = c then applyUpd s d c u
  else (remoteUpd s p.endDie p.endCore p.issuer.dom.toNat u).getD
    (violation s (entrySender d c e p) p.endDie p.endCore p.dk)

/-- The registers of an arrival handler's task (R290). -/
def handlerW0 (acc : Mem) (p : PostEntry) : W128 :=
  match p.dst with
  | none => 0
  | some w =>
    let n := ((List.range p.chunks).map (fun j => (chunkBytes (p.moves acc) [] (w.lo + 512 * j) 512).length)).sum
    BitVec.ofNat 128 (w.lo % 2 ^ 64 + n % 2 ^ 32 * 2 ^ 64)

/-- Step 4: the handler's place in the destination-end core's arrival buffer; none while it waits for room or for its set. -/
def endHandler (s : State) (d c e : Nat) (p : PostEntry) : Option State :=
  if p.hip = 0 ∨ p.endPkg ≠ s.pkg.toNat then some s
  else
    let x := entrySender d c e p
    let k := s.core p.endDie p.endCore
    match (if p.endDie = d ∧ p.endCore = c then some false else s.setFor p.endDie p.endCore p.issuer.dom.toNat) with
    | none =>
      if (savedFor (s.die p.endDie) p.endCore p.issuer.dom.toNat).isSome then none
      else some (violation s x p.endDie p.endCore p.hip.toNat)
    | some true => none
    | some false =>
      if arrivalRoom k then
        some (s.setCore p.endDie p.endCore { k with arr := k.arr ++ [.handler p.hip (handlerW0 (s.act d c).acc p)
          ((coordsOf s.pkg x).setWidth 128) p.issuer.prio p.issuer.dom] })
      else none

/-- Step 5: locks lifted, entry freed and the issuing-end signal, in one step. -/
def endCommand (a : SetState) (e : Nat) (p : PostEntry) : SetState :=
  let a := wbldEnded (freeEntry a e) p
  if p.failed.isSome ∨ p.si = 0 then wakeAll a else signalSet a p.sk p.si

/-- What is due at the destination end lies in a package that no route reaches (R273). -/
def endLost (s : State) (p : PostEntry) : Bool :=
  s.unreachable p.endPkg && ((decide (p.di ≠ 0) && !p.signalled) || (decide (p.hip ≠ 0) && !p.handled))

/-- COMPLETION_MESSAGE (R272 steps 3 to 5): one step a turn. A command that moved no chunks completes once its end has come. -/
def execCompletionMessage (d c e : Nat) (s : State) : Host.Outcome State Fault Refusal :=
  let k := s.core d c
  match tfind k.act.post e with
  | none => .next s
  | some p =>
    if p.op.byChunks && p.engine.isSome && p.done then
      if endLost s p then .next s
      else if !p.signalled then .next (endSignal (s.setEntry d c e { p with signalled := true }) d c e p)
      else if !p.handled then
        match endHandler (s.setEntry d c e { p with handled := true }) d c e p with
        | some s' => .next s'
        | none => .next s
      else .next (dropPins (s.setAct d c (endCommand k.act e p)) p.op)
    else if !p.op.byChunks && p.ended then .next (s.setAct d c (endCommand k.act e p))
    else .next s

/-! ## Failure and holds (R273, R282) -/

/-- A walk touches class 6: the host may end a request with an error. -/
def hostFa (w : Option Walk) : Option Nat :=
  match w with
  | some x => if x.space = 3 then (x.pages.find? (fun p => decide (faClass p.2 = 6))).map (fun p =>
      Nat.max x.lo (p.1 * 65536)) else none
  | none => none

/-- The first address of a dispatched command that cannot be read or written; when it is the destination end that cannot be reached, the
destination's first (log entry 16). -/
def failAddr (s : State) (d c : Nat) (p : PostEntry) : Option Nat :=
  match p.dst with
  | none => none
  | some w =>
    ((List.range p.chunks).findSome? (fun j =>
      if p.landed.contains j then none
      else match moveChunk s d c p w j with
        | .error (.fails a) => some a
        | _ => none)).or ((hostFa p.src).or ((hostFa p.dst).or (if endLost s p then some w.lo else none)))

/-- COMMAND_FAIL (R273). -/
def execCommandFail (d c e : Nat) (s : State) : Host.Outcome State Fault Refusal :=
  let k := s.core d c
  match tfind k.act.post e with
  | none => .next s
  | some p =>
    if p.engine.isSome && p.op.byChunks && (!p.done || endLost s p) then
      match failAddr s d c p with
      | some a => .next (failEntry (failReport s d c p a) d c e p)
      | none => .next s
    else .next s

/-- The first virtual address of class 5 that a chunk touches, and whether it is written. -/
def poolAddr (acc : Mem) (p : PostEntry) (j : Nat) : Option (Nat × Bool) :=
  match p.dst with
  | none => none
  | some w =>
    let l := movesIn (p.moves acc) (w.lo + 512 * j) 512
    let src := l.findSome? (fun m => match m.src, p.src with
      | some b, some x => if 3 ≤ x.space ∧ faClass (x.fa (b / 8)) = 5 then some (b / 8) else none
      | _, _ => none)
    match src with
    | some va => some (va, false)
    | none => (l.findSome? (fun m =>
        if 3 ≤ w.space ∧ faClass (w.fa (m.dst / 8)) = 5 then some (m.dst / 8) else none)).map (fun va => (va, true))

/-- The upcall of a held request, when the queue has room (R131). -/
def tellHold (s : State) (d c e : Nat) (p : PostEntry) : State :=
  let a := s.act d c
  match p.cxlHeld, p.engine with
  | some (j, seq), some (ed, en, _) =>
    if p.cxlTold ∨ 48 ≤ a.upq.length then s
    else
      let (va, wr) := (poolAddr a.acc p j).getD (0, false)
      let u : Upcall :=
        { kind := 3, slot := 0xFF, acc := if wr then 10 else 9, handle := BitVec.ofNat 32 (entrySender d c e p).handle
          faddr := BitVec.ofNat 64 va, token := BitVec.ofNat 64 (replayToken s.pkg.toNat ed en seq (requestNo c e)) }
      s.setAct d c { a with upq := a.upq ++ [u], post := tins a.post e { p with cxlTold := true } }
  | _, _ => s

/-- CXL_NOT_PRESENT (R282): the pool answers a chunk with not present, and the request is held there. -/
def execCxlNotPresent (d c e : Nat) (s : State) : Host.Outcome State Fault Refusal :=
  let k := s.core d c
  match tfind k.act.post e with
  | none => .next s
  | some p =>
    match p.cxlHeld, p.engine with
    | some _, _ => .next (tellHold s d c e p)
    | none, some (ed, _, _) =>
      match (List.range p.chunks).find? (fun j => !p.landed.contains j && (poolAddr k.act.acc p j).isSome) with
      | none => .next s
      | some j =>
        let v := s.die ed
        let p := { p with cxlHeld := some (j, v.cxlSeq % 65536), cxlTold := false }
        let s := s.setDie ed { v with cxlSeq := (v.cxlSeq + 1) % 65536 }
        .next (tellHold (s.setEntry d c e p) d c e p)
    | none, none => .next s

end Sys2Proof.Machine
end

