-- ==== Sys2Proof/Machine/Translate.lean ====
section
/-! DEFINITION. The translation agent of a die: refills of a PLB (R399, R401), table walks (R394 to R396, R404), shootdowns
(R406). -/

namespace Sys2Proof.Machine

/-- `n` bytes at a fabric address of class 2 or 3, within a line, as a coherent load at the home returns them (R396). -/
def cohRead (s : State) (fa n : Nat) : Nat :=
  let l := if s.here fa then lineValue s fa else s.freeLine
  (l.toNat >>> (8 * (fa % 64))) % 2 ^ (8 * n)

/-- Do `n` bytes at a fabric address, read coherently at the home, lie in a word that holds an uncorrected error (R464)? -/
def cohBad (s : State) (fa n : Nat) : Bool := !s.memBad.isEmpty && !lineDirty s fa && (s.badWord fa n).isSome

/-- A malformed entry or list is counted in MALF, and reported (R395, R397, R399, R459). -/
def malformed (s : State) (d va dom : Nat) : State :=
  let v := s.die d
  let s := s.setDie d { v with malf := if v.malf = 0xFFFFFFFF then v.malf else v.malf + 1 }
  s.report d 4 (va % 2 ^ 64 + dom % 4096 * 2 ^ 64)

/-! ## Refills (R399, R401) -/

def rangeBase (r : Nat) : Nat := r % 2 ^ 41 * 65536
def rangePsz (r : Nat) : Nat := r / 2 ^ 46 % 4
def rangePages (r : Nat) : Nat := let n := r / 2 ^ 48 % 65536; if n = 0 then 65536 else n
def rangeHas (r va : Nat) : Bool := decide (rangeBase r ≤ va ∧ va < rangeBase r + rangePages r * pageBytes (rangePsz r))

/-- A range record is well formed: reserved bits zero, VBASE aligned to PSZ. -/
def rangeOk (r : Nat) : Bool :=
  decide (r / 2 ^ 69 = 0 ∧ r / 2 ^ 41 % 32 = 0 ∧ rangeBase r % pageBytes (rangePsz r) = 0)

/-- The records of a list. -/
def rangeList (s : State) (fa n : Nat) : List Nat := (List.range n).map (fun i => cohRead s (fa + 16 * i) 16)

/-- The rules of a list hold around record `i` (R399): those before it lie below, those after it above. -/
def rangeSorted (l : List Nat) (i : Nat) : Bool :=
  let r := l.getD i 0
  let top := rangeBase r + rangePages r * pageBytes (rangePsz r)
  (l.take i).all (fun q => decide (rangeBase q + rangePages q * pageBytes (rangePsz q) ≤ rangeBase r)) &&
  (l.drop (i + 1)).all (fun q => decide (top ≤ rangeBase q))

/-- What a refill finds: a range, none, or a broken list. -/
inductive Found where
  | range (r : Nat)
  | none
  | broken
  deriving DecidableEq, Repr

/-- The search of a domain's range list for an address. A word in error reads as malformed (log entry 29). -/
def findRange (s : State) (d dom va : Nat) : Found :=
  let dd := (s.die d).ddir.toNat
  if dd = 0 then .none
  else
    let e := cohRead s (dd + 16 * dom) 16
    let list := e % 2 ^ 64
    let cnt := e / 2 ^ 64 % 2048
    if cohBad s (dd + 16 * dom) 16 then .broken
    else if e / 2 ^ 127 = 0 then .none
    else if e / 2 ^ 75 % 2 ^ 52 ≠ 0 ∨ 1024 < cnt ∨ list % 16 ≠ 0 ∨ ¬(faClass list = 2 ∨ faClass list = 3) then .broken
    else
      let l := rangeList s list cnt
      if (List.range cnt).any (fun i => cohBad s (list + 16 * i) 16) then .broken else
      match (List.range cnt).find? (fun i => rangeHas (l.getD i 0) va) with
      | some i => if rangeOk (l.getD i 0) && rangeSorted l i then .range (l.getD i 0) else .broken
      | none => .none

/-- The entry a refill installs. -/
def rangeEntry (r : Nat) (dom : BitVec 12) : PlbEntry :=
  let b : Nat → Bool := fun i => r.testBit i
  { v := true, dom := dom, r := b 68, w := b 67, x := b 66, e := b 65, k := b 64, psz := BitVec.ofNat 2 (rangePsz r),
    pcnt := BitVec.ofNat 16 (r / 2 ^ 48), base := BitVec.ofNat 64 (rangeBase r) }

/-- The entry a refill takes (R401): the lowest invalid of 16 to 63, else the one matched least recently; of those that nothing has matched
since they were written, the lowest. -/
def refillSlot (k : Core) : Nat :=
  match (List.range 48).find? (fun i => !(tget {} k.plb (16 + i)).v) with
  | some i => 16 + i
  | none =>
    match (List.range 48).find? (fun i => !k.plbUse.contains (16 + i)) with
    | some i => 16 + i
    | none => k.plbUse.getLastD 16

/-- PLB_REFILL (R401). -/
def execPlbRefill (a : Agent) (s : State) : Host.Outcome State Fault Refusal :=
  match (s.pend a).ask with
  | .plb va =>
    let dom := s.domOf a
    let k := s.core a.die a.core
    let miss := fun (s : State) => s.setPend a { s.pend a with ask := .idle, ans := .noRange va }
    .next (match findRange s a.die dom.toNat va with
      | .range r =>
        let i := refillSlot k
        let s := s.setCore a.die a.core { k with
          plb := tset {} k.plb i (rangeEntry r dom), plbUse := k.plbUse.filter (fun j => decide (j ≠ i)) }
        s.setPend a { s.pend a with ask := .idle }
      | .none => miss s
      | .broken => miss (malformed s a.die va dom.toNat))
  | _ => .next s

/-! ## Walks (R394, R395, R404) -/

/-- The index field of a level: lowest bit and width. -/
def levelBits : Nat → Nat × Nat
  | 0 => (44, 13)
  | 1 => (31, 13)
  | 2 => (26, 5)
  | 3 => (21, 5)
  | _ => (16, 5)

/-- Bytes of a level's table. -/
def tableBytes (level : Nat) : Nat := if level ≤ 1 then 65536 else 256

/-- PSZ of a leaf of a level. -/
def leafPsz (level : Nat) : Nat := 4 - level

/-- A leaf names a range that its class allows (R227, R395). -/
def leafOk (fa size : Nat) : Bool :=
  decide (fa % size = 0 ∧ faClass fa ≠ 1 ∧ faClass fa ≠ 7 ∧ faOff fa + size ≤ 2 ^ 38) && faOk fa && faOk (fa + (size - 1))

/-- How a walk ends: a page, an invalid entry, a malformed one. -/
inductive Walked where
  | page (psz fa : Nat)
  | invalid
  | malformed
  deriving DecidableEq, Repr

/-- A walk from the table of a level on. A reserved bit makes an entry malformed whatever V is (R395), and
so does a word in error (log entry 29). -/
def walkFrom (s : State) (va : Nat) : Nat → Nat → Nat → Walked
  | 0, _, _ => .invalid
  | n + 1, level, table =>
    let (lo, w) := levelBits level
    let e := cohRead s (table + 8 * (va / 2 ^ lo % 2 ^ w)) 8
    let fa := e / 256 * 256
    if e / 4 % 64 ≠ 0 ∨ cohBad s (table + 8 * (va / 2 ^ lo % 2 ^ w)) 8 then .malformed
    else if e % 2 = 0 then .invalid
    else if e / 2 % 2 = 1 then
      if level = 0 ∨ ¬leafOk fa (pageBytes (leafPsz level)) then .malformed else .page (leafPsz level) fa
    else if level = 4 ∨ ¬(faClass fa = 2 ∨ faClass fa = 3) ∨ fa % tableBytes (level + 1) ≠ 0 then .malformed
    else walkFrom s va n (level + 1) fa

/-- The walk of an address at a die. -/
def walk (s : State) (d va : Nat) : Walked :=
  let root := (s.die d).root.toNat
  if root = 0 then .invalid else walkFrom s va 5 0 root

/-- A leaf joins the die's cached translations; a full cache drops one first (log entry 4). -/
def cacheLeaf (s : State) (d va psz fa : Nat) : State :=
  let v := s.die d
  let t := if v.tlb.length < 16384 then v.tlb else v.tlb.eraseIdx (Config.freePick (s.tick * 65536) % 16384)
  s.setDie d { v with tlb := tins t (va / pageBytes psz * pageBytes psz / 65536) { psz := BitVec.ofNat 2 psz, fa := fa } }

/-- TABLE_WALK (R404). -/
def execTableWalk (a : Agent) (s : State) : Host.Outcome State Fault Refusal :=
  match (s.pend a).ask with
  | .walk va =>
    let miss := fun (s : State) => s.setPend a { s.pend a with ask := .idle, ans := .noPage va }
    .next (match walk s a.die va with
      | .page psz fa => let s := cacheLeaf s a.die va psz fa
                        s.setPend a { s.pend a with ask := .idle }
      | .invalid => miss s
      | .malformed => miss (malformed s a.die va (s.domOf a).toNat))
  | _ => .next s

/-! ## Shootdowns (R406) -/

/-- The dies in scope. -/
def shootDies (s : State) (d : Nat) (v : W64) : List Nat := if shootScope v = 0 then [d] else (s.dies.map (·.1))

/-- The prefetched code lines of the range leave a set; a block keeps the line it was delivered. -/
def shootCode (v : W64) (a : SetState) : SetState :=
  { a with slots := a.slots.map (fun q =>
      match q.2.line with
      | some (va, _) =>
        if inShoot v va 64 && !decide (q.2.mode = .block ∨ (q.2.mode = .parked ∧ q.2.from_ = .block)) then (q.1, { q.2 with line := none })
        else q
      | none => q) }

/-- A core's copies of the range leave both its sets. -/
def shootCore (v : W64) (d c : Nat) (s : State) : State :=
  let k := s.core d c
  let gone := ((k.act.lines ++ k.shd.lines).filter (fun l => inShoot v l.2.va 64)).map (·.1)
  let s := gone.foldl (fun s f =>
    let s := cleanLine s f
    movePtr (s.setCore d c (dropLine (s.core d c) f)) f d c none) s
  let k := s.core d c
  let k := if bit v 60 then
      { k with plb := k.plb.filter (fun p => !(p.2.v && decide (p.2.dom.toNat = fld v 59 48) &&
        meets p.2.base.toNat ((if p.2.pcnt = 0 then 65536 else p.2.pcnt.toNat) * pageBytes p.2.psz.toNat) (shootBase v) (shootBytes v))) }
    else k
  s.setCore d c { k with act := shootCode v k.act, shd := shootCode v k.shd }

/-- A die's translations, fabric cache and cores lose the range. -/
def shootDie (v : W64) (s : State) (d : Nat) : State :=
  let x := s.die d
  let s := s.setDie d { x with
    tlb := x.tlb.filter (fun t => !inShoot v (t.1 * 65536) (pageBytes t.2.psz.toNat))
    fab := x.fab.filter (fun l => !inShoot v l.1 64) }
  (x.cores.map (·.1)).foldl (fun s c => shootCore v d c s) s

/-- SHOOTDOWN (R406): a write of SHOOT; GO with a scope of 0 or 1 starts one. A write while one is under way changes no field, RW ones
included: the model's choice (log entry 28). -/
def execShootdown (d : Nat) (w : BitVec 64) (s : State) : Host.Outcome State Fault Refusal :=
  let v := s.die d
  if bit v.shoot 63 then .next s
  else
    let go := bit w 63 && decide (shootScope w < 2)
    let kept : W64 := BitVec.ofNat 64 (putFld (putFld w.toNat 63 1 (b2n go)) 41 5 0)
    let s := s.setDie d { v with shoot := kept }
    .next (if go then (shootDies s d w).foldl (shootDie w) s else s)

/-- A walk of a command that uses pages of the range. -/
def Walk.inShoot (v : W64) (w : Option Walk) : Bool :=
  match w with
  | some w => decide (w.space = 3) && w.pages.any (fun p => Machine.inShoot v (p.1 * 65536) 65536)
  | none => false

/-- What an agent asks for that lies in the range. -/
def Ask.inShoot (v : W64) : Ask → Bool
  | .line va _ => Machine.inShoot v (va / 64 * 64) 64
  | .keep va _ _ => Machine.inShoot v (va / 64 * 64) 64
  | .fill va _ _ _ => Machine.inShoot v (va / 64 * 64) 64
  | .fab va _ => Machine.inShoot v (va / 64 * 64) 64
  | .atomic x => Machine.inShoot v x.va x.size
  | .remote x => Machine.inShoot v x.va x.size
  | .counter x => Machine.inShoot v x.va x.size
  | .hostAtomic x => Machine.inShoot v x.va x.size
  | .walk va => Machine.inShoot v va 1
  | _ => false

/-- Does a command's result address lie in the range (R354)? -/
def CmdOp.inShoot (v : W64) : CmdOp → Bool
  | .smig _ _ _ _ va => Machine.inShoot v va 8
  | _ => false

/-- A core still uses an old translation of the range: a command, a buffered store, an access under way. -/
def shootBusy (v : W64) (k : Core) : Bool :=
  let set := fun (a : SetState) =>
    a.post.any (fun p => Walk.inShoot v p.2.src || Walk.inShoot v p.2.dst || p.2.op.inShoot v) ||
    a.halves.any (fun h => (h.2.signal.isSome && Walk.inShoot v h.2.src) || h.2.replay.any (fun r => Walk.inShoot v r.src))
  set k.act || set k.shd || k.sb.any (fun e => inShoot v e.va 256) || k.pend.any (fun p => p.2.ask.inShoot v)

/-- SHOOTDOWN_COMPLETE (R406). -/
def execShootdownComplete (d : Nat) (s : State) : Host.Outcome State Fault Refusal :=
  let v := s.die d
  if bit v.shoot 63 && (shootDies s d v.shoot).all (fun j => (s.die j).cores.all (fun k => !shootBusy v.shoot k.2)) then
    .next (s.setDie d { v with shoot := BitVec.ofNat 64 (v.shoot.toNat % 2 ^ 63) })
  else .next s

end Sys2Proof.Machine
end

