-- ==== Sys2Proof/Machine/Streams.lean ====
section
/-! DEFINITION. Stream instructions other than the engine commands: chapter 14 (R341 to R353). -/

namespace Sys2Proof.Machine

/-! ## Requests to a stream processor (R333, R342) -/

/-- Is every earlier store of the context performed? An instruction of this chapter is a release (R333). -/
def released (s : State) (e : Env) : Bool := decide (lastStore (s.core e.d e.c) e.ix (s.ctx e).inc = 0)

/-- The instruction completes with a value in wD, and nothing pending. -/
def answer (s : State) (e : Env) (d : BitVec 7) (v : Nat) : State :=
  endAccess (s.setAct e.d e.c (regWrite (s.act e.d e.c) e.ix d.toNat v allBytes)) (agentOf e)

/-- The slot stalls in place (R333). -/
def stall {α : Type} (s : State) : Res α := .error (.stall s)

/-- The handle a request names, as forwarded after a migration (R340). -/
def forwarded (s : State) (e : Env) (h : BitVec 32) : BitVec 32 := (s.pend (agentOf e)).fwd.getD h

/-- A request on a stream: `st` builds the result of a status. A MIGRATING stream holds it, or answers BUSY. Another package's stream
answers with a free status, of which `away` makes the result (log entry 25). A descriptor in error is freed, and its handle is then
STALE (R465). -/
def streamReqOr (s : State) (e : Env) (h : BitVec 32) (busy : Bool) (d : BitVec 7) (st : Nat → Nat)
    (away : BitVec 32 → Nat → Res State) (f : Nat → Nat → Res State) : Res State :=
  if !released s e then stall s
  else
    let h := forwarded s e h
    if s.streamAway h then away h (awayStatus s)
    else match s.streamOf h with
      | none => .ok (answer s e d (st 1))
      | some (sd, si) =>
        let x := s.stream sd si
        match streamError s sd si false with
        | some w => .ok (answer (loseStream s sd si w) e d (st 1))
        | none =>
          if x.dom ≠ (s.ctx e).dom then .ok (answer s e d (st 5))
          else if x.st = .migrating then
            if busy then .ok (answer s e d (st 4)) else stall (s.ask (agentOf e) (.migrating h))
          else if x.posting then stall s
          else f sd si

/-- A request whose result is its status alone. -/
def streamReq (s : State) (e : Env) (h : BitVec 32) (busy : Bool) (d : BitVec 7) (st : Nat → Nat) (f : Nat → Nat → Res State) :
    Res State :=
  streamReqOr s e h busy d st (fun _ n => .ok (answer s e d (st n))) f

/-- The request reads the stream's tables: a node in error frees the stream (R465). -/
def withNodes (s : State) (e : Env) (d : BitVec 7) (sd si : Nat) (r : Res State) : Res State :=
  match streamError s sd si true with
  | some w => .ok (answer (loseStream s sd si w) e d 1)
  | none => r

/-- A request that needs frames, at another package: none may be free there (R329, log entry 25). -/
def awayFrames (s : State) (e : Env) (d : BitVec 7) (so : Nat) (h : BitVec 32) (n : Nat) : Res State :=
  if Config.freePick (s.tick * 65536 + 1) % 2 = 0 then .ok (answer s e d n)
  else .error (.faultIn { code := streamFault, faddr := some so, tok := h.toNat } s)

/-- What an operation that needs frames makes of its failure: a status, or WAIT_PAGE and a STREAM fault (R329). -/
def frameFail {α : Type} (s : State) (e : Env) (d : BitVec 7) (sd si so : Nat) (err : SErr) (k : State → Res α) : Res α :=
  match err with
  | .status n => k (answer s e d n)
  | .noFrame =>
    let x := s.stream sd si
    let s := if x.st = .waitPage then s
      else s.setDie sd ((dqDrop (s.die sd) si).setStream si { x with st := .waitPage, pst := x.st })
    .error (.faultIn { code := streamFault, faddr := some so, tok := (s.streamHandle sd si).toNat } s)

/-- Has an operation taken a frame of a die? -/
def tookFrame (s t : State) (d : Nat) : Bool := (t.die d).frames.any (fun f => (tfind (s.die d).frames f.1).isNone)

/-- A stream leaves WAIT_PAGE where the operation that led from `s0` to `s` has taken a frame for it: a clone has succeeded (R329). -/
def cloned (s0 s : State) (sd si : Nat) : State :=
  let x := s.stream sd si
  if x.st = .waitPage && tookFrame s0 s sd then s.setSt sd si x.pst else s

/-- The state offset of a fault that has none (log entry 3). -/
def anySo (s : State) : Nat := (s.free 0).toNat % 2 ^ 57

def vBC (d : BitVec 7) (t : TailV) (fm : Nat) (c : Bool) : Use :=
  { legal := vOnly t true c false false false fm && decide (t.f.toNat / 8 = fm / 8)
    regs := [(d.toNat, 1), (t.b.toNat, 1)] ++ (if c then [(t.c.toNat, 1)] else [])
    srcs := [t.b.toNat] ++ (if c then [t.c.toNat] else []) }

/-! ## SFORK (R343) -/

/-- The 64 KiB pages of a range with rights and translation: none where a right is missing or the class is barred. -/
def rangeFas (s : State) (a : Agent) (n : Need) (acc : Nat) (ok : Nat → Bool) : List Nat → Res (Option (List Nat))
  | [] => .ok (some [])
  | va :: vs =>
    match rightsAt (s.core a.die a.core) (s.pend a) (s.domOf a) n va with
    | .ok _ =>
      match transAt (s.die a.die) (s.pend a) va with
      | .ok fa => if ok fa then do
            let r ← rangeFas s a n acc ok vs
            pure (r.map (fun l => fa :: l))
          else .ok none
      | l => lookFail s a va acc 0 l
    | .prot => .ok none
    | l => lookFail s a va acc 0 l

/-- The action queue of R343: none for BADQ, else its fabric address, 0 for none. -/
def queueFa (s : State) (e : Env) (die va aqn : Nat) : Res (Option Nat) :=
  if 12 < aqn then .ok none
  else if va = 0 then .ok (some 0)
  else if va % 64 ≠ 0 then .ok none
  else do
    let r ← rangeFas s (agentOf e) { r := true, w := true } 3
      (fun fa => decide (faClass fa = 2 ∧ faDie fa = die ∧ faPkg fa = s.pkg.toNat) && faOk fa) (pagesOf va (64 * 2 ^ aqn))
    pure (match r with
      | some (fa :: _) => some fa
      | _ => none)

def useSfork (d : BitVec 7) (t : TailV) : Use := vBC d t 0 true

/-- The result word of SFORK, JOPEN and SMIG: handle and status. -/
def handleStatus (h : BitVec 32) (st : Nat) : Nat := h.toNat + st * 2 ^ 32

/-- A fork's child, in the fields that the parent gives (R332). -/
def forkChild (s : State) (sd si : Nat) : Stream :=
  let p := s.stream sd si
  let t := if p.spec then p.cctr else p.ctr
  { parent := s.streamHandle sd si, jg := p.jg, croot := p.croot, pen := if p.spec then p.penc else p.pen,
    key := BitVec.ofNat 64 (philoxBlock p.key.toNat (p.forks.toNat * 2 ^ 96 + t.toNat % 2 ^ 96)),
    layers := p.layers, wbase := p.wbase, cur := p.cur, hor := p.hor, stage := p.stage, dom := p.dom }

/-- A root stream (R343). -/
def rootStream (dom : BitVec 12) : Stream := { parent := noHandle, jg := noHandle, dom := dom }

/-- Places a new stream by its specification; the child's frames are already counted. -/
def placeStream (s : State) (e : Env) (d : BitVec 7) (sd : Nat) (x : Stream) (spec : W128) (aqb : Nat) (s0 : State) : State :=
  match s.allocStream sd with
  | none => answer s0 e d (handleStatus noHandle 2)
  | some (i, s) =>
    let x := { x with gen := (s.stream sd i).gen, prio := BitVec.ofNat 3 (fld spec 54 52), aqb := BitVec.ofNat 64 aqb,
                      aqn := BitVec.ofNat 4 (fld spec 63 60), st := .idle,
                      jg := if fld spec 31 0 = noHandle.toNat then x.jg else BitVec.ofNat 32 (fld spec 31 0) }
    let s := s.setStream sd i x
    let h := s.streamHandle sd i
    let s := if bit spec 55 then s.setSt sd i .ready else s
    answer s e d (handleStatus h 0)

/-- SFORK. -/
def execSfork (d : BitVec 7) (t : TailV) (s : State) : Host.Outcome State Fault Refusal :=
  ctxRun (useSfork d t) (fun e s => do
    let a := s.act e.d e.c
    let b ← regRead a e.ix t.b.toNat
    let c ← regRead a e.ix t.c.toNat
    if fld c 59 56 ≠ 0 ∨ fld c 51 32 ≠ 0 then raise illegalOp
    else
      let h : BitVec 32 := b.setWidth 32
      if h = noHandle then
        if !released s e then stall s
        else match ← queueFa s e e.d (fld c 127 64) (fld c 63 60) with
          | none => pure (answer s e d (handleStatus noHandle 9))
          | some q => pure (placeStream s e d e.d (rootStream (s.ctx e).dom) c q s)
      else
        streamReqOr s e h true d (handleStatus noHandle) (fun h n =>
          .ok (answer s e d (if n = 0 then handleStatus (awayHandle s (hPkg h) (hDie h)) 0 else handleStatus noHandle n))) (fun sd si => do
          if (s.stream sd si).wpins ≠ 0 then stall s
          else match ← queueFa s e sd (fld c 127 64) (fld c 63 60) with
            | none => pure (answer s e d (handleStatus noHandle 9))
            | some q =>
              let x := forkChild s sd si
              match (do let s ← entryUp s sd x.croot
                        entryUp s sd x.pen : SRes State) with
              | .error _ => pure (answer s e d (handleStatus noHandle 3))
              | .ok s' =>
                if freeStreams (s.die sd) = 0 then pure (answer s e d (handleStatus noHandle 2))
                else
                  let s' := s'.modStream sd si (fun p => { p with forks := p.forks + 1 })
                  pure (placeStream s' e d sd x c q s))) s

/-! ## SPRUNE, SRET, SADV (R344 to R346) -/

def useSprune (d : BitVec 7) (t : TailV) : Use := vBC d t 0x10 false

/-- SPRUNE. -/
def execSprune (d : BitVec 7) (t : TailV) (s : State) : Host.Outcome State Fault Refusal :=
  ctxRun (useSprune d t) (fun e s => do
    let b ← regRead (s.act e.d e.c) e.ix t.b.toNat
    streamReq s e (b.setWidth 32) true d id (fun sd si => .ok (answer (freeStream s sd si) e d 0))) s

/-- A post leaves for the join unit of a group; the poster's slot waits for the answer (R345, R379). -/
def sendPost (s : State) (e : Env) (die : Nat) (g : BitVec 32) (w : W128) (stream : Option (BitVec 32)) : State :=
  let s := sendPacket s
    { cls := 1, src := { senderOf s e with die := die }, pkg := hPkg g, die := hDie g, core := 0, loc := die,
      body := .post g (w.setWidth 64) (BitVec.ofNat 64 (fld w 127 64)) stream (agentOf e) }
  s.ask (agentOf e) .post

/-- A refused post counts JOIN_REFUSED at the issuing core. -/
def countRefused (s : State) (e : Env) : State := s.setCore e.d e.c ((s.core e.d e.c).count 3 1)

/-- A post of a stream and what follows its answer: `fin` is applied when the post is accepted, if the stream is still
current. -/
def postThen (s : State) (e : Env) (d : BitVec 7) (h : BitVec 32) (w : W128) (fin : State → Nat → Nat → State) :
    Res State :=
  match (s.pend (agentOf e)).ask, (s.pend (agentOf e)).status with
  | .post, none => stall s
  | .post, some st =>
    let h := forwarded s e h
    let s := match s.streamOf h with
      | some (sd, si) =>
        let s := s.modStream sd si (fun x => { x with posting := false })
        if st = 0 then fin s sd si else s
      | none => s
    if st = 0 then .ok (answer s e d 0) else .ok (answer (countRefused s e) e d 10)
  | _, _ =>
    streamReq s e h false d id (fun sd si =>
      let x := s.stream sd si
      if x.jg = noHandle then .ok (answer s e d 10)
      else
        let s := s.modStream sd si (fun x => { x with posting := true })
        stall (sendPost s e sd x.jg w (some (s.streamHandle sd si))))

def useSret (d : BitVec 7) (t : TailV) : Use := vBC d t 0x09 true

/-- SRET (R345). -/
def execSret (d : BitVec 7) (t : TailV) (s : State) : Host.Outcome State Fault Refusal :=
  ctxRun (useSret d t) (fun e s => do
    let a := s.act e.d e.c
    let b ← regRead a e.ix t.b.toNat
    let c ← regRead a e.ix t.c.toNat
    postThen s e d (b.setWidth 32) c (fun s sd si => if t.f.getLsbD 0 then s.setSt sd si .done else s)) s

/-- The cursor after one layer: none when the step ends the horizon (R339). -/
def advanceCur (x : Stream) : Option Stream :=
  let c := x.cur + 1
  if c = x.layers then
    if x.hor = 1 then none else some { x with cur := 0, hor := if 1 < x.hor.toNat then x.hor - 1 else x.hor }
  else some { x with cur := c }

/-- A stream at its new cursor: DROVED ones become READY, READY ones take the queue of their new entry. -/
def moveCur (s : State) (sd si : Nat) (y : Stream) : State :=
  (s.setStream sd si ((s.stream sd si).unstage y)).setSt sd si (if y.st = .droved then .ready else y.st)

def useSadv (d : BitVec 7) (t : TailV) : Use := vBC d t 0x18 true

/-- SADV (R339, R346). The end of the horizon posts W(C) first, when JG is valid. -/
def execSadv (d : BitVec 7) (t : TailV) (s : State) : Host.Outcome State Fault Refusal :=
  ctxRun (useSadv d t) (fun e s => do
    let a := s.act e.d e.c
    let b ← regRead a e.ix t.b.toNat
    let c ← regRead a e.ix t.c.toNat
    let h : BitVec 32 := b.setWidth 32
    let last := fun (s : State) (sd si : Nat) =>
      (s.modStream sd si (fun x => x.unstage { x with cur := 0, hor := 0 })).setSt sd si .done
    if (s.pend (agentOf e)).ask = .post then postThen s e d h c last
    else
      streamReq s e h false d id (fun sd si =>
        let x := s.stream sd si
        if x.layers = 0 ∨ ¬(x.st = .idle ∨ x.st = .ready ∨ x.st = .droved) then .ok (answer s e d 6)
        else match advanceCur x with
          | some y => .ok (answer (moveCur s sd si y) e d 0)
          | none =>
            if x.jg = noHandle then .ok (answer (last s sd si) e d 0)
            else postThen s e d h c last)) s

/-! ## SACT (R347) -/

def useSact (d : BitVec 7) (t : TailV) (op : BitVec 7) (src : Bool) : Use :=
  { legal := vOnly t true true false false false 0x23 && t.f = 0x20 + op && t.c.toNat % 4 = 0
    regs := [(d.toNat, 1), (t.b.toNat, 1), (t.c.toNat, 4)]
    srcs := [t.b.toNat] ++ (if src then (List.range 4).map (fun k => t.c.toNat + k) else []) }

/-- A request on a stream's action queue. -/
def sactOn (s : State) (e : Env) (d : BitVec 7) (b : W128) (away : Nat → Res State) (f : Nat → Nat → Stream → Res State) : Res State :=
  streamReqOr s e (b.setWidth 32) false d id (fun _ n => away n) (fun sd si =>
    let x := s.stream sd si
    if x.aqb = 0 then .ok (answer s e d 6) else f sd si x)

/-- Records queued. -/
def Stream.queued (x : Stream) : Nat := (x.aqt - x.aqh).toNat

/-- Fabric address of ring record `i`. -/
def Stream.record (x : Stream) (i : BitVec 16) : Nat := x.aqb.toNat + 64 * (i.toNat % 2 ^ x.aqn.toNat)

def useSactPush (d : BitVec 7) (t : TailV) : Use := useSact d t 0 true

/-- A whole line of memory written as a store that performs at once: every copy is invalidated first (R236, R347). -/
def storeLine (s : State) (fa : Nat) (l : Line) : State := setMemLine (dropAllCopies s fa) fa l

/-- SACT.push. -/
def execSactPush (d : BitVec 7) (t : TailV) (s : State) : Host.Outcome State Fault Refusal :=
  ctxRun (useSactPush d t) (fun e s => do
    let b ← regRead (s.act e.d e.c) e.ix t.b.toNat
    let v ← regsRead (s.act e.d e.c) e.ix t.c.toNat 4
    sactOn s e d b (fun n => .ok (answer s e d n)) (fun sd si x =>
      if x.queued = 2 ^ x.aqn.toNat then .ok (answer s e d 7)
      else
        let s := storeLine s (x.record x.aqt) (BitVec.ofNat 512 v)
        .ok (answer (s.modStream sd si (fun y => { y with aqt := y.aqt + 1 })) e d 0))) s

/-- A record of 64 bytes reaches wC to wC+3, and status OK wD. -/
def takeRecord (s : State) (e : Env) (d : BitVec 7) (t : TailV) (v : Nat) : State :=
  answer (s.setAct e.d e.c (regsWrite (s.act e.d e.c) e.ix t.c.toNat v (2 ^ 64 - 1) 4)) e d 0

/-- SACT.pop and SACT.peek. -/
def sactHead (pop : Bool) (u : Use) (t : TailV) (d : BitVec 7) (s : State) : Host.Outcome State Fault Refusal :=
  ctxRun u (fun e s => do
    let b ← regRead (s.act e.d e.c) e.ix t.b.toNat
    sactOn s e d b (fun n => .ok (if n = 0 then takeRecord s e d t (awayWord s * (2 ^ 384 + 2 ^ 256 + 2 ^ 128 + 1)) else answer s e d n))
      (fun sd si x =>
        if x.queued = 0 then .ok (answer s e d 8)
        else
          let v := (lineValue s (x.record x.aqh)).toNat
          let s := if pop then s.modStream sd si (fun y => { y with aqh := y.aqh + 1 }) else s
          .ok (takeRecord s e d t v))) s

def useSactPop (d : BitVec 7) (t : TailV) : Use := useSact d t 1 false
/-- SACT.pop. -/
def execSactPop (d : BitVec 7) (t : TailV) (s : State) : Host.Outcome State Fault Refusal :=
  sactHead true (useSactPop d t) t d s

def useSactPeek (d : BitVec 7) (t : TailV) : Use := useSact d t 2 false
/-- SACT.peek. -/
def execSactPeek (d : BitVec 7) (t : TailV) (s : State) : Host.Outcome State Fault Refusal :=
  sactHead false (useSactPeek d t) t d s

/-! ## SCOMMIT (R331, R350) -/

def useScommit (d : BitVec 7) (t : TailV) (op : BitVec 7) : Use :=
  let u := vBC d t 0x3B false
  { u with legal := u.legal && t.f = 0x38 + op }

/-- The three SCOMMIT operations share their waits and states; `f` acts on the stream. -/
def scommitRun (u : Use) (d : BitVec 7) (t : TailV) (spec frames : Bool) (f : State → Nat → Nat → Stream → SRes State) (s : State) :
    Host.Outcome State Fault Refusal :=
  ctxRun u (fun e s => do
    let b ← regRead (s.act e.d e.c) e.ix t.b.toNat
    streamReqOr s e (b.setWidth 32) false d id
      (fun h n => if frames then awayFrames s e d (anySo s) h n else .ok (answer s e d n)) (fun sd si =>
      withNodes s e d sd si (
        let x := s.stream sd si
        if x.wpins ≠ 0 then stall s
        else if x.spec ≠ spec then .ok (answer s e d 6)
        else match f s sd si x with
          | .ok t => .ok (answer (cloned s t sd si) e d 0)
          | .error err => frameFail s e d sd si (anySo s) err .ok))) s

def useScommitBegin (d : BitVec 7) (t : TailV) : Use := useScommit d t 2
/-- SCOMMIT.begin. -/
def execScommitBegin (d : BitVec 7) (t : TailV) (s : State) : Host.Outcome State Fault Refusal :=
  scommitRun (useScommitBegin d t) d t false true (fun s sd si x => do
    let s ← entryUp s sd x.pen
    let (s, r) ← allocFrame s sd true
    pure (s.setStream sd si { x with spec := true, cctr := x.ctr, penc := x.pen, oroot := r })) s

/-- One valid overlay page installed in the committed table: it takes over the overlay's reference. -/
def installPage (s : State) (sd : Nat) (root omid : W64) (ri mi : Nat) (p : W64) : SRes (State × W64) := do
  let (s, r, m) ← exclNodes s sd root (ri * 2 ^ 25)
  let old := nodeEntry s sd m mi
  let s := setNodeEntry s sd m mi p
  let s := setNodeEntry s sd omid mi 0
  pure (entryDown s sd old, r)

/-- The overlay pages under one middle node. -/
def installMid (sd : Nat) (omid : W64) (ri : Nat) : List (Nat × W64) → State → W64 → SRes (State × W64)
  | [], s, root => .ok (s, root)
  | (mi, p) :: t, s, root => do
    let (s, root) ← installPage s sd root omid ri mi p
    installMid sd omid ri t s root

/-- The overlay pages of a whole overlay. -/
def installAll (sd : Nat) : List (Nat × W64) → State → W64 → SRes (State × W64)
  | [], s, root => .ok (s, root)
  | (ri, m) :: t, s, root => do
    let (s, root) ← installMid sd m ri (nodeEntries s sd m) s root
    installAll sd t s root

def useScommitCommit (d : BitVec 7) (t : TailV) : Use := useScommit d t 0
/-- SCOMMIT.commit. -/
def execScommitCommit (d : BitVec 7) (t : TailV) (s : State) : Host.Outcome State Fault Refusal :=
  scommitRun (useScommitCommit d t) d t true true (fun s sd si x => do
    let (s, root) ← installAll sd (nodeEntries s sd x.oroot) s x.croot
    let s := entryDown (entryDown s sd x.oroot) sd x.penc
    pure (s.modStream sd si (fun y => { y with croot := root, oroot := 0, penc := 0, spec := false }))) s

def useScommitDiscard (d : BitVec 7) (t : TailV) : Use := useScommit d t 1
/-- SCOMMIT.discard. -/
def execScommitDiscard (d : BitVec 7) (t : TailV) (s : State) : Host.Outcome State Fault Refusal :=
  scommitRun (useScommitDiscard d t) d t true false (fun s sd si x =>
    let s := entryDown (entryDown s sd x.oroot) sd x.pen
    .ok (s.modStream sd si (fun y => { y with oroot := 0, pen := x.penc, penc := 0, ctr := x.cctr, spec := false }))) s

/-! ## SSTAT (R322, R351) -/

def StSt.code : StSt → Nat
  | .free => 0 | .idle => 1 | .ready => 2 | .droved => 3 | .waitPage => 4 | .migrating => 5 | .done => 6

/-- The descriptor's 1,024 bits. -/
def Stream.pack (x : Stream) : Nat :=
  x.pst.code * 2 ^ 125 + b2n x.stage * 2 ^ 129 + b2n x.spec * 2 ^ 130 + x.forks.toNat * 2 ^ 131 + x.dom.toNat * 2 ^ 163 +
  x.prio.toNat * 2 ^ 175 + x.tb.toNat * 2 ^ 178 + x.penc.toNat * 2 ^ 188 + x.pen.toNat * 2 ^ 252 + x.cctr.toNat * 2 ^ 316 +
  x.ctr.toNat * 2 ^ 444 + x.key.toNat * 2 ^ 572 + x.aqt.toNat * 2 ^ 636 + x.aqh.toNat * 2 ^ 652 + x.aqn.toNat * 2 ^ 668 +
  x.aqb.toNat * 2 ^ 672 + x.wbase.toNat * 2 ^ 736 + x.layers.toNat * 2 ^ 748 + x.cur.toNat * 2 ^ 764 +
  x.hor.toNat * 2 ^ 780 + x.oroot.toNat * 2 ^ 812 + x.croot.toNat * 2 ^ 876 + x.jg.toNat * 2 ^ 940 +
  x.parent.toNat * 2 ^ 972 + x.gen.toNat * 2 ^ 1004 + x.st.code * 2 ^ 1020

def useSstat (d : BitVec 7) (t : TailV) : Use :=
  { legal := vOnly t true true false false false 0x40 && decide (t.f = 0x40) && t.c.toNat ≤ 8
    regs := [(d.toNat, 1), (t.b.toNat, 1)], srcs := [t.b.toNat] }

/-- The free counts that SSTAT 8 returns. -/
def poolCounts (v : Die) : Nat :=
  poolFree v 0 false + poolFree v 1 false * 2 ^ 32 + poolFree v 2 false * 2 ^ 64 + freeStreams v * 2 ^ 96

/-- SSTAT: all ones for a stale handle or another domain's stream; another package's answer is free (log entry 25). -/
def execSstat (d : BitVec 7) (t : TailV) (s : State) : Host.Outcome State Fault Refusal :=
  ctxRun (useSstat d t) (fun e s => do
    let b ← regRead (s.act e.d e.c) e.ix t.b.toNat
    let h := forwarded s e (b.setWidth 32)
    if !released s e then stall s
    else if s.streamAway h then pure (answer s e d (awayWord s))
    else if t.c = 8 then
      pure (answer s e d (if hDie h < 12 ∧ hPkg h = s.pkg.toNat then poolCounts (s.die (hDie h)) else 2 ^ 128 - 1))
    else match s.streamOf h with
      | none => pure (answer s e d (2 ^ 128 - 1))
      | some (sd, si) =>
        let x := s.stream sd si
        if let some w := streamError s sd si false then pure (answer (loseStream s sd si w) e d (2 ^ 128 - 1))
        else if x.dom ≠ (s.ctx e).dom then pure (answer s e d (2 ^ 128 - 1))
        else if x.st = .migrating then stall (s.ask (agentOf e) (.migrating h))
        else pure (answer s e d ((x.pack >>> (128 * t.c.toNat)) % 2 ^ 128))) s

/-! ## SSET (R352) -/

def useSset (d : BitVec 7) (t : TailV) (op : BitVec 7) : Use :=
  let u := vBC d t 0x4F true
  { u with legal := u.legal && t.f = 0x48 + op }

/-- An SSET of the stream: `mask` holds the bits of W(C) that the operation has. -/
def ssetRun (u : Use) (d : BitVec 7) (t : TailV) (mask : Nat) (frames : W128 → Bool) (f : Env → State → Nat → Nat → Stream → W128 → Res State) (s : State) :
    Host.Outcome State Fault Refusal :=
  ctxRun u (fun e s => do
    let a := s.act e.d e.c
    let b ← regRead a e.ix t.b.toNat
    let c ← regRead a e.ix t.c.toNat
    if c.toNat &&& (2 ^ 128 - 1 - mask) ≠ 0 then raise illegalOp
    else
      streamReqOr s e (b.setWidth 32) false d id
        (fun h n => if frames c then awayFrames s e d (anySo s) h n else .ok (answer s e d n))
        (fun sd si => f e s sd si (s.stream sd si) c)) s

def useSsetBind (d : BitVec 7) (t : TailV) : Use :=
  { legal := vOnly t true false false false false 0x48 && t.f = 0x48
    regs := [(d.toNat, 1), (t.b.toNat, 1)], srcs := [t.b.toNat] }

/-- SSET.bind: the issuer's stream. -/
def execSsetBind (d : BitVec 7) (t : TailV) (s : State) : Host.Outcome State Fault Refusal :=
  ctxRun (useSsetBind d t) (fun e s => do
    let b ← regRead (s.act e.d e.c) e.ix t.b.toNat
    let h : BitVec 32 := b.setWidth 32
    if h = noHandle then pure (answer (s.setCtx e { s.ctx e with stream := h }) e d 0)
    else
      let bind := fun (h : BitVec 32) (n : Nat) => .ok (answer (if n = 0 then s.setCtx e { s.ctx e with stream := h } else s) e d n)
      streamReqOr s e h false d id bind (fun _ _ => bind (forwarded s e h) 0)) s

def useSsetPrio (d : BitVec 7) (t : TailV) : Use := useSset d t 1
/-- SSET.prio: a queued stream moves within its queue. -/
def execSsetPrio (d : BitVec 7) (t : TailV) (s : State) : Host.Outcome State Fault Refusal :=
  ssetRun (useSsetPrio d t) d t 7 (fun _ => false) (fun e s sd si x c =>
    let s := s.setStream sd si { x with prio := BitVec.ofNat 3 (fld c 2 0) }
    let v := s.die sd
    let q := tget [] v.dq x.entry
    let s := match q.find? (fun p => decide (p.1 = si)) with
      | some (_, w) =>
        let v := dqDrop v si
        s.setDie sd { v with dq := tset [] v.dq x.entry (dqInsert v (tget [] v.dq x.entry) si w) }
      | none => s
    .ok (answer s e d 0)) s

def useSsetModel (d : BitVec 7) (t : TailV) : Use := useSset d t 2
/-- SSET.model: a READY stream queues again. -/
def execSsetModel (d : BitVec 7) (t : TailV) (s : State) : Host.Outcome State Fault Refusal :=
  ssetRun (useSsetModel d t) d t (0xFFF * 2 ^ 16 + 0xFFFF + 0x1FFFF * 2 ^ 32) (fun _ => false) (fun e s sd si x c =>
    let layers := fld c 15 0
    let cur := fld c 47 32
    if x.spec ∨ 4096 < layers ∨ (layers ≠ 0 ∧ layers ≤ cur) then .ok (answer s e d 6)
    else
      let s := s.setStream sd si <| x.unstage { x with
        layers := BitVec.ofNat 16 layers, wbase := BitVec.ofNat 12 (fld c 27 16), cur := BitVec.ofNat 16 cur, stage := bit c 48 }
      .ok (answer (if x.st = .ready then s.setSt sd si .ready else s) e d 0)) s

def useSsetJoin (d : BitVec 7) (t : TailV) : Use := useSset d t 3
/-- SSET.join. -/
def execSsetJoin (d : BitVec 7) (t : TailV) (s : State) : Host.Outcome State Fault Refusal :=
  ssetRun (useSsetJoin d t) d t 0xFFFFFFFF (fun _ => false) (fun e s sd si x c =>
    .ok (answer (s.setStream sd si { x with jg := c.setWidth 32 }) e d 0)) s

def useSsetRun (d : BitVec 7) (t : TailV) : Use := useSset d t 4
/-- SSET.run. -/
def execSsetRun (d : BitVec 7) (t : TailV) (s : State) : Host.Outcome State Fault Refusal :=
  ssetRun (useSsetRun d t) d t 1 (fun _ => false) (fun e s sd si x c =>
    let ok := if bit c 0 then x.st = .idle ∨ x.st = .done ∨ x.st = .droved else x.st = .ready ∨ x.st = .droved
    if ok then
      .ok (answer (s.setSt sd si (if bit c 0 then .ready else .idle)) e d 0)
    else .ok (answer s e d 6)) s

def useSsetRng (d : BitVec 7) (t : TailV) : Use := useSset d t 5
/-- SSET.rng. -/
def execSsetRng (d : BitVec 7) (t : TailV) (s : State) : Host.Outcome State Fault Refusal :=
  ssetRun (useSsetRng d t) d t (2 ^ 128 - 1) (fun _ => false) (fun e s sd si x c =>
    if x.spec then .ok (answer s e d 6)
    else
      let n : W128 := BitVec.ofNat 128 (fld c 127 64)
      .ok (answer (s.setStream sd si { x with key := c.setWidth 64, ctr := n, cctr := n }) e d 0)) s

def useSsetQueue (d : BitVec 7) (t : TailV) : Use := useSset d t 6
/-- SSET.queue. -/
def execSsetQueue (d : BitVec 7) (t : TailV) (s : State) : Host.Outcome State Fault Refusal :=
  ssetRun (useSsetQueue d t) d t ((2 ^ 64 - 1) * 2 ^ 64 + 0xF * 2 ^ 60) (fun _ => false) (fun e s sd si x c => do
    match ← queueFa s e sd (fld c 127 64) (fld c 63 60) with
    | none => pure (answer s e d 9)
    | some q =>
      pure (answer (s.setStream sd si { x with
        aqb := BitVec.ofNat 64 q, aqn := BitVec.ofNat 4 (fld c 63 60), aqh := 0, aqt := 0 }) e d 0)) s

def useSsetPen (d : BitVec 7) (t : TailV) : Use := useSset d t 7
/-- SSET.pen. -/
def execSsetPen (d : BitVec 7) (t : TailV) (s : State) : Host.Outcome State Fault Refusal :=
  ssetRun (useSsetPen d t) d t 1 (bit · 0) (fun e s sd si x c =>
    if x.spec then .ok (answer s e d 6)
    else if bit c 0 then
      match allocFrame s sd false with
      | .error err => frameFail s e d sd si (anySo s) err .ok
      | .ok (s', p) =>
        .ok (answer (cloned s ((entryDown s' sd x.pen).modStream sd si (fun y => { y with pen := p })) sd si) e d 0)
    else .ok (answer ((entryDown s sd x.pen).modStream sd si (fun y => { y with pen := 0 })) e d 0)) s

/-! ## SHOR (R353) -/

def useShor (d : BitVec 7) (t : TailV) : Use :=
  let u := vBC d t 0x51 (t.f.getLsbD 0)
  { u with legal := u.legal && t.f.toNat / 2 = 0x28 }

/-- SHOR: a request that fails writes its status alone (R342). -/
def execShor (d : BitVec 7) (t : TailV) (s : State) : Host.Outcome State Fault Refusal :=
  ctxRun (useShor d t) (fun e s => do
    let a := s.act e.d e.c
    let b ← regRead a e.ix t.b.toNat
    let c ← if t.f.getLsbD 0 then regRead a e.ix t.c.toNat else pure 0
    streamReqOr s e (b.setWidth 32) false d (fun n => n)
      (fun _ n => .ok (answer s e d (if n = 0 then (s.free 21).toNat else n))) (fun sd si =>
      let x := s.stream sd si
      let v := x.hor.toNat + x.cur.toNat * 2 ^ 32 + x.layers.toNat * 2 ^ 48
      let s := if t.f.getLsbD 0 then s.setStream sd si { x with hor := c.setWidth 32 } else s
      .ok (answer s e d v))) s

end Sys2Proof.Machine
end

