-- ==== Sys2Proof/Machine/Trees.lean ====
section
/-! DEFINITION. The token-tree file: chapter 15 (R357 to R370). -/

namespace Sys2Proof.Machine

/-! ## Trees -/

def SetState.tree (a : SetState) (n : Nat) : Tree := tget {} a.trees n
def SetState.setTree (a : SetState) (n : Nat) (x : Tree) : SetState := { a with trees := tset {} a.trees n x }

abbrev TNode : Type := BitVec 8 × BitVec 8 × BitVec 32

/-- Parent, depth and token of a node. -/
def Tree.node (x : Tree) (n : Nat) : TNode := tget (0, 0, 0) x.nodes n
def Tree.parent (x : Tree) (n : Nat) : Nat := (x.node n).1.toNat
def Tree.depth (x : Tree) (n : Nat) : Nat := (x.node n).2.1.toNat
def Tree.token (x : Tree) (n : Nat) : Nat := (x.node n).2.2.toNat
def Tree.setNode (x : Tree) (n parent depth token : Nat) : Tree :=
  { x with nodes := tset (0, 0, 0) x.nodes n (BitVec.ofNat 8 parent, BitVec.ofNat 8 depth, BitVec.ofNat 32 token) }

/-- Is node `j` reached from `i` by following parents at most `k` times? -/
def Tree.reaches (x : Tree) (i j : Nat) : Nat → Bool
  | 0 => decide (i = j)
  | k + 1 => decide (i = j) || x.reaches (x.parent i) j k

/-- Ancestor-or-self (R358). -/
def Tree.above (x : Tree) (j i : Nat) : Bool := decide (j < x.cnt ∧ i < x.cnt) && x.reaches i j 255

/-- The ancestor `k` steps above a node. -/
def Tree.up (x : Tree) (n : Nat) : Nat → Nat
  | 0 => n
  | k + 1 => x.up (x.parent n) k

/-- path(k) of R367: the ancestor of `n` at depth k. -/
def Tree.path (x : Tree) (n k : Nat) : Nat := x.up n (x.depth n - k)

/-- A pending MMA of this core holds the tree (R370). -/
def treeHeld (a : SetState) (n : Nat) : Bool :=
  a.mcmds.any (fun m => !m.2.started && match m.2.op with
    | .mma _ _ _ ctl _ _ w => w.isSome && bit ctl 34 && decide (fld ctl 36 35 = n)
    | .mmz _ => false)

/-- The tree an instruction names. -/
def ttN (t : TailV) : Nat := t.f.toNat % 4

def ttUse (d : BitVec 7) (t : TailV) (c : Bool) (fm sub : Nat) : Use :=
  { legal := vOnly t true c false false false (8 * sub + fm) && decide (t.f.toNat / 8 = sub)
    regs := [(d.toNat, 1), (t.b.toNat, 1)] ++ (if c then [(t.c.toNat, 1)] else [])
    srcs := [t.b.toNat] ++ (if c then [t.c.toNat] else []) }

/-! ## TTRESET and TTADD (R361 to R363) -/

def useTtreset (d : BitVec 7) (t : TailV) : Use := ttUse d t false 7 0

/-- The binding of R362: a status, or the stream's TB and the tree's new BV and STRM. -/
def ttBind (s : State) (e : Env) (n : Nat) (h : Option (BitVec 32)) : Except Nat State :=
  let x := (s.act e.d e.c).tree n
  let mine : BitVec 10 := BitVec.ofNat 10 (512 + e.c % 128 * 4 + n)
  let clear := fun (s : State) =>
    if x.bv then match s.streamOf x.strm with
      | some (sd, si) => s.modStream sd si (fun y => if y.tb = mine then { y with tb := 0 } else y)
      | none => s
    else s
  let put := fun (s : State) (bv : Bool) (h : BitVec 32) =>
    s.setAct e.d e.c ((s.act e.d e.c).setTree n { x with bv := bv, strm := h })
  match h with
  | none => .ok (put (clear s) false noHandle)
  | some h =>
    match s.streamOf h with
    | none => .error 3
    | some (sd, si) =>
      let y := s.stream sd si
      if y.dom ≠ (s.ctx e).dom then .error 4
      else if sd ≠ e.d then .error 7
      else if y.st = .migrating then .error 6
      else .ok (put ((clear s).modStream sd si (fun y => { y with tb := mine })) true h)

/-- The status of a TTRESET that binds another package's stream: STALE, DOMAIN or FAR (R362, log entry 25). -/
def awayBind (s : State) : Nat := [3, 4, 7].getD (Config.freePick (s.tick * 65536 + 1) % 3) 7

/-- TTRESET (R361). The step that binds or unbinds is one operation at the stream processor (R362). -/
def execTtreset (d : BitVec 7) (t : TailV) (s : State) : Host.Outcome State Fault Refusal :=
  ctxRun (useTtreset d t) (fun e s => do
    let a := s.act e.d e.c
    let n := ttN t
    let b ← regRead a e.ix t.b.toNat
    let base := fld b 31 0
    if treeHeld a n then stall s
    else if 0xFFFFFF < base then raiseAt posrange base
    else
      let h : BitVec 32 := BitVec.ofNat 32 (fld b 95 64)
      let bind := if t.f.getLsbD 2 ∧ h ≠ noHandle then some h else none
      if (bind.isSome || (a.tree n).bv) && !released s e then stall s
      else if bind.isSome && s.streamAway h then pure (answer s e d (awayBind s))
      else match ttBind s e n bind with
        | .error st => pure (answer s e d st)
        | .ok s =>
          let a := s.act e.d e.c
          let x : Tree := { a.tree n with cnt := 1, base := BitVec.ofNat 24 base, nodes := [] }
          pure (answer (s.setAct e.d e.c (a.setTree n (x.setNode 0 0 0 (fld b 63 32)))) e d 0)) s

def useTtadd (d : BitVec 7) (t : TailV) : Use := ttUse d t false 3 1

/-- TTADD (R363). -/
def execTtadd (d : BitVec 7) (t : TailV) (s : State) : Host.Outcome State Fault Refusal :=
  ctxRun (useTtadd d t) (fun e s => do
    let a := s.act e.d e.c
    let x := a.tree (ttN t)
    let b ← regRead a e.ix t.b.toNat
    let p := fld b 7 0
    if treeHeld a (ttN t) then stall s
    else if x.cnt ≤ p then pure (answer s e d (2 * 256))
    else if x.cnt = 256 then pure (answer s e d (1 * 256))
    else if 0xFFFFFF < x.base.toNat + x.depth p + 1 then raiseAt posrange (x.base.toNat + x.depth p + 1)
    else
      let y := { x.setNode x.cnt p (x.depth p + 1) (fld b 63 32) with cnt := x.cnt + 1 }
      pure (answer (s.setAct e.d e.c (a.setTree (ttN t) y)) e d x.cnt)) s

/-! ## TTMASK, TTPOS, TTANC, TTPATH (R364 to R367) -/

def useTtmask (d : BitVec 7) (t : TailV) : Use :=
  let u := ttUse d t false 3 2
  { u with legal := u.legal && d.toNat % 2 = 0, regs := [(d.toNat, 2), (t.b.toNat, 1)] }

/-- The mask of node i, as a number. -/
def Tree.mask (x : Tree) (i : Nat) : Nat := elems 1 (fun j => b2n (x.above j i)) 256

/-- TTMASK: two beats. -/
def execTtmask (d : BitVec 7) (t : TailV) (s : State) : Host.Outcome State Fault Refusal :=
  multiSet 2 (useTtmask d t) (fun e a => do
    let b ← regRead a e.ix t.b.toNat
    pure (regsWrite a e.ix d.toNat ((treeSeen a (a.ctx e.ix) (ttN t)).mask (fld b 7 0)) (2 ^ 32 - 1) 2)) s

def useTtpos (d : BitVec 7) (t : TailV) : Use :=
  { legal := vOnly t true false false true true 0x1B && decide (t.f.toNat / 4 = 6) && grpOk t.sh d
    regs := [grp t.sh d, (t.b.toNat, 1)], srcs := [t.b.toNat] }

/-- TTPOS. -/
def execTtpos (d : BitVec 7) (t : TailV) (s : State) : Host.Outcome State Fault Refusal :=
  multiSet (shRegs t.sh.toNat) (useTtpos d t) (fun e a => do
    let x := treeSeen a (a.ctx e.ix) (ttN t)
    let b ← regRead a e.ix t.b.toNat
    let v := elems 32 (fun k => let n := fld b 7 0 + k
      if n < x.cnt then x.base.toNat + x.depth n else 0xFFFFFFFF) (shElems t.sh.toNat 32)
    pure (grpWrite a e.ix t.sh d 32 (predOf a (a.ctx e.ix) t) t.pn v)) s

def useTtposHdr (d : BitVec 7) (t : TailV) : Use :=
  { legal := vOnly t false false false false false 0x1F && decide (t.f.toNat / 4 = 7), regs := [(d.toNat, 1)] }

/-- TTPOS.hdr. -/
def execTtposHdr (d : BitVec 7) (t : TailV) (s : State) : Host.Outcome State Fault Refusal :=
  setRun (useTtposHdr d t) (fun e a =>
    let x := a.tree (ttN t)
    .ok (regWrite a e.ix d.toNat
      (x.base.toNat + x.cnt * 2 ^ 24 + x.strm.toNat * 2 ^ 40 + b2n x.bv * 2 ^ 72) allBytes)) s

def useTtanc (d : BitVec 7) (t : TailV) : Use :=
  let u := ttUse d t true 7 4
  if t.f.getLsbD 2 then { u with legal := u.legal && d.toNat < 8, regs := [(t.b.toNat, 1), (t.c.toNat, 1)] } else u

/-- TTANC. -/
def execTtanc (d : BitVec 7) (t : TailV) (s : State) : Host.Outcome State Fault Refusal :=
  setRun (useTtanc d t) (fun e a => do
    let x := a.tree (ttN t)
    let b ← regRead a e.ix t.b.toNat
    let c ← regRead a e.ix t.c.toNat
    let r := x.above (fld b 7 0) (fld c 7 0)
    pure (if t.f.getLsbD 2 then predWrite a e.ix d.toNat (if r then 2 ^ 64 - 1 else 0)
          else regWrite a e.ix d.toNat (b2n r) allBytes)) s

def useTtpath (d : BitVec 7) (t : TailV) : Use :=
  { legal := vOnly t true false false true true 0x2F && decide (t.f.toNat / 8 = 5) && t.sh ≠ 0 && grpOk t.sh d
    regs := [grp t.sh d, (t.b.toNat, 1)], srcs := [t.b.toNat] }

/-- TTPATH. -/
def execTtpath (d : BitVec 7) (t : TailV) (s : State) : Host.Outcome State Fault Refusal :=
  multiSet (shRegs t.sh.toNat) (useTtpath d t) (fun e a => do
    let x := treeSeen a (a.ctx e.ix) (ttN t)
    let b ← regRead a e.ix t.b.toNat
    let n := fld b 7 0
    let k0 := fld b 15 8
    let tok := t.f.getLsbD 2
    let w := if tok then 32 else 8
    let v := elems w (fun k =>
      if n < x.cnt ∧ k0 + k ≤ x.depth n then (if tok then x.token (x.path n (k0 + k)) else x.path n (k0 + k))
      else if tok then 0 else 0xFF) (shElems t.sh.toNat w)
    pure (grpWrite a e.ix t.sh d w (predOf a (a.ctx e.ix) t) t.pn v)) s

/-! ## TTPRUNE (R368) -/

def useTtprune (d : BitVec 7) (t : TailV) : Use := ttUse d t true 3 6

/-- The tree of the kept nodes: new node k was path(c + k). -/
def Tree.kept (x : Tree) (a c : Nat) : Nat → Tree
  | 0 => { x with nodes := [], cnt := 0 }
  | k + 1 => (x.kept a c k).setNode k (k - 1) k (x.token (x.path a (c + k)))

/-- TTPRUNE: the statuses come before the map's checks. -/
def execTtprune (d : BitVec 7) (t : TailV) (s : State) : Host.Outcome State Fault Refusal :=
  ctxRun (useTtprune d t) (fun e s => do
    let a := s.act e.d e.c
    let x := a.tree (ttN t)
    let b ← regRead a e.ix t.b.toNat
    let c ← regRead a e.ix t.c.toNat
    let n := fld b 7 0
    let k := fld b 15 8
    let m := fld c 19 0
    if fld c 127 20 ≠ 0 then raise illegalOp
    else if treeHeld a (ttN t) then stall s
    else if x.cnt ≤ n then pure (answer s e d 2)
    else
      let dp := x.depth n
      if dp < k then pure (answer s e d 5)
      else
        let a ← padWr a (a.ctx e.ix) m m (dp + 1) (elems 8 (fun j => x.path n j) (dp + 1))
        let y := x.kept n k (dp - k + 1)
        let y : Tree := { y with cnt := dp - k + 1, base := x.base + BitVec.ofNat 24 k }
        let s := s.setAct e.d e.c (a.setTree (ttN t) y)
        pure (answer s e d (dp * 256 + k * 65536 + y.base.toNat * 2 ^ 24))) s

end Sys2Proof.Machine
end

