-- ==== Sys2Proof/Machine/LaunchUnit.lean ====
section
/-! DEFINITION. What the launch unit reads and checks: memory under a packet's domain, images (R75, R76, R415), packets (R413),
patch entries (R77, R78), shapes (R417), completion words (R414). -/

namespace Sys2Proof.Machine

/-! ## Memory under a domain -/

/-- A fabric address for an access of the launch unit of a die under a domain: the range's right, then the walk. A malformed
entry is reported (R459). -/
def unitFa (s : State) (d dom va : Nat) (write : Bool) : State × Option Nat :=
  if 2 ^ 57 ≤ va then (s, none)
  else
    match findRange s d dom va with
    | .none => (s, none)
    | .broken => (malformed s d va dom, none)
    | .range r =>
      if !r.testBit (if write then 67 else 68) then (s, none)
      else
        match walk s d va with
        | .page psz fa => (s, some (fa + va % pageBytes psz))
        | .invalid => (s, none)
        | .malformed => (malformed s d va dom, none)

/-- The pages of a range, as (virtual page, fabric page); none when one cannot be read or lies outside classes 2 and 3. -/
def unitPages (d dom : Nat) (cls : List Nat) : List Nat → State → State × Option (List (Nat × Nat))
  | [], s => (s, some [])
  | va :: vs, s =>
    match unitFa s d dom va false with
    | (s, some fa) =>
      if cls.contains (faClass fa) then
        let (s, r) := unitPages d dom cls vs s
        (s, r.map (fun l => (va / 65536, fa / 65536 * 65536) :: l))
      else (s, none)
    | (s, none) => (s, none)

/-- The fabric address of a virtual one under a list of pages. -/
def pageFa (l : List (Nat × Nat)) (va : Nat) : Nat :=
  ((l.find? (fun p => decide (p.1 = va / 65536))).map (fun p => p.2 + va % 65536)).getD 0

/-- `n` bytes read under a domain in classes 2 and 3; a word in error makes them unreadable (log entry 29). -/
def unitRead (s : State) (d dom : Nat) (cls : List Nat) (va n : Nat) : State × Option (List Byte) :=
  let (s, r) := unitPages d dom cls (pagesOf va n) s
  (s, r.bind (fun l =>
    if (List.range n).any (fun i => cohBad s (pageFa l (va + i)) 1) then none
    else some ((List.range n).map (fun i => BitVec.ofNat 8 (cohRead s (pageFa l (va + i)) 1)))))

/-- The bytes at the addresses of a list of pages, in any class a domain may read (R228). -/
def pageBytesAt (s : State) (dom : BitVec 12) (l : List (Nat × Nat)) (va : Nat) : Nat → Nat → Except Got (List Byte)
  | _, 0 => .ok []
  | i, k + 1 =>
    match fabricByte s dom (pageFa l (va + i)) (va + i) i with
    | .byte b => (pageBytesAt s dom l va (i + 1) k).map (fun r => BitVec.ofNat 8 b :: r)
    | g => .error g

/-! ## Image headers (R75, R76) -/

/-- `n` bytes at an offset of a header or packet. -/
def fieldAt {w : Nat} (b : BitVec w) (o n : Nat) : Nat := fld b (8 * (o + n) - 1) (8 * o)

def hFlags (h : BitVec 1024) : Nat := fieldAt h 0x06 2
def hGang (h : BitVec 1024) : Bool := (hFlags h).testBit 0
def hEntry (h : BitVec 1024) : Nat := fieldAt h 0x08 8
def hWsz (h : BitVec 1024) : Nat := fieldAt h 0x10 2
def hAcc (h : BitVec 1024) : Nat := fieldAt h 0x12 2
def hChunk (h : BitVec 1024) : Nat := fieldAt h 0x14 2
def hTree (h : BitVec 1024) : Nat := fieldAt h 0x16 1
def hScratch (h : BitVec 1024) : Nat := fieldAt h 0x18 4
def hPatches (h : BitVec 1024) : Nat := fieldAt h 0x1C 4
def hPatchOff (h : BitVec 1024) : Nat := fieldAt h 0x20 4
def hCodeOff (h : BitVec 1024) : Nat := fieldAt h 0x24 4
def hCodeLen (h : BitVec 1024) : Nat := fieldAt h 0x28 4
def hLayout (h : BitVec 1024) : Nat := fieldAt h 0x30 8
def hCounter (h : BitVec 1024) : Nat := fieldAt h 0x38 32

/-- The image declares some per-core entry, or gangs (R429). -/
def hDeclares (h : BitVec 1024) : Bool :=
  hGang h || decide (hAcc h ≠ 0 ∨ hChunk h ≠ 0 ∨ hTree h ≠ 0 ∨ hLayout h ≠ 0 ∨ hCounter h ≠ 0)

/-- Two images' masks intersect. -/
def masksMeet (g h : BitVec 1024) : Bool :=
  decide (hAcc g &&& hAcc h ≠ 0 ∨ hChunk g &&& hChunk h ≠ 0 ∨ hTree g &&& hTree h ≠ 0 ∨ hLayout g &&& hLayout h ≠ 0 ∨
    hCounter g &&& hCounter h ≠ 0)

/-- The conditions of R76 on a header, its CRC apart. That the offset of an empty patch table may be any multiple of 8 is the model's
choice (log entry 28). -/
def headerOk (h : BitVec 1024) : Bool :=
  decide (fieldAt h 0 4 = 0x4C454B4D ∧ fieldAt h 4 2 = 1 ∧ hFlags h < 8 ∧ hEntry h < 2 ^ 32 ∧ 16 ≤ hWsz h ∧ hWsz h ≤ 1024 ∧
    hTree h < 16 ∧ fieldAt h 0x17 1 = 0 ∧ hScratch h % 16 = 0 ∧ hScratch h ≤ 0x100000 ∧ hPatchOff h % 8 = 0 ∧
    hCodeOff h % 64 = 0 ∧ hCodeLen h % 64 = 0 ∧ 64 ≤ hCodeLen h ∧ fieldAt h 0x2C 4 = 0 ∧ fieldAt h 0x58 36 = 0) &&
  ((hFlags h).testBit 1 == decide (hTree h ≠ 0)) &&
  decide (hPatches h = 0 ∨ (0x80 ≤ hPatchOff h ∧ hPatchOff h + 8 * hPatches h ≤ hCodeOff h))

/-- CRC-32C: one bit, one byte, a list of bytes. -/
def crcBits : Nat → Nat → Nat
  | 0, c => c
  | n + 1, c => crcBits n (if c % 2 = 1 then (c / 2) ^^^ 0x82F63B78 else c / 2)
def crcByte (c : Nat) (b : Byte) : Nat := crcBits 8 (c ^^^ b.toNat)
def crc32c (l : List Byte) : Nat := (l.foldl crcByte 0xFFFFFFFF) ^^^ 0xFFFFFFFF

/-- An image read and checked at REGISTER (R415); none when it is not readable or breaks R76. -/
def readImage (s : State) (d : Nat) (dom : BitVec 12) (va : Nat) : State × Option Image :=
  match unitRead s d dom.toNat [2, 3] va 128 with
  | (s, none) => (s, none)
  | (s, some hb) =>
    let h : BitVec 1024 := BitVec.ofNat 1024 (ofBytes hb)
    if !headerOk h then (s, none)
    else
      match unitRead s d dom.toNat [2, 3] va (Nat.max 128 (hCodeOff h + hCodeLen h)) with
      | (s, none) => (s, none)
      | (s, some b) =>
        if crc32c (b.take 0x7C ++ b.drop 0x80) ≠ fieldAt h 0x7C 4 then (s, none)
        else
          let table := b.drop (hPatchOff h)
          (s, some { va := va, dom := dom, hdr := h,
                     patches := (List.range (hPatches h)).map (fun i => BitVec.ofNat 64 (ofBytes ((table.drop (8 * i)).take 8))) })

/-! ## Packets (R413) -/

abbrev Rec := BitVec 2048

def pType (w : Rec) : Nat := fieldAt w 0 1
def pInl (w : Rec) : Bool := bit w 8
def pPrio (w : Rec) : Nat := fieldAt w 2 1
def pPart (w : Rec) : Nat := fieldAt w 3 1
def pNum (w : Rec) : Nat := fieldAt w 4 2
def pDom (w : Rec) : Nat := fieldAt w 6 2
def pShape (w : Rec) : List Nat := (List.range 6).map (fun i => fieldAt w (8 + 2 * i) 2)
def pPkgb (w : Rec) : Nat := fieldAt w 0x14 2
def pPlen (w : Rec) : Nat := fieldAt w 0x16 2
def pPaddr (w : Rec) : Nat := fieldAt w 0x18 8
def pCaddr (w : Rec) : Nat := fieldAt w 0x20 8
def pCookie (w : Rec) : Nat := fieldAt w 0x28 4
def pCk (w : Rec) : Nat := fieldAt w 0x2C 1
def pCi (w : Rec) : Int := sext 8 (fieldAt w 0x2D 1)
def pNode (w : Rec) : Nat := fieldAt w 0x2E 2
def pPoff (w : Rec) : Nat := fieldAt w 0x30 2
def pInline (w : Rec) : Nat := w.toNat >>> 512

/-- Fields of a type that names no shape. -/
def noShape (w : Rec) : Bool := (pShape w).all (fun n => decide (n = 0)) && decide (pPkgb w = 0)

/-- A packet of types 1 to 5 whose reserved bits are zero and whose fields are in range, unused ones zero. -/
def packetOk (w : Rec) (host : Bool) : Bool :=
  decide (fieldAt w 1 1 < 2 ∧ pPrio w < 8 ∧ pPart w < 64 ∧ pDom w < 4096 ∧ pPkgb w < 4096 ∧ fieldAt w 0x32 14 = 0 ∧
    pCaddr w % 8 = 0) && (!host || decide (fieldAt w 0x2C 2 = 0)) &&
  (match pType w with
   | 1 => decide (pNum w < 1024 ∧ pPlen w ≤ 4096 ∧ pNode w = 0 ∧ pPoff w = 0) &&
          (if pInl w then decide (pPlen w ≤ 192 ∧ pPaddr w = 0) else decide (pInline w = 0))
   | 2 => !pInl w && noShape w && decide (pPrio w = 0 ∧ pNum w < 64 ∧ pPlen w = 0 ∧ 1 ≤ pNode w ∧ pNode w ≤ 4096 ∧ pPoff w = 0 ∧
          pInline w = 0)
   | 3 => !pInl w && noShape w && decide (pPrio w = 0 ∧ pNum w < 64 ∧ pPlen w = 0 ∧ pPaddr w = 0 ∧ pNode w = 0 ∧ pPoff w = 0 ∧
          pInline w = 0)
   | 4 => !pInl w && noShape w && decide (pPrio w = 0 ∧ pNum w < 64 ∧ 1 ≤ pPlen w ∧ pPlen w ≤ 192 ∧ pPaddr w = 0 ∧
          pPoff w + pPlen w ≤ 192)
   | 5 => !pInl w && noShape w && decide (pPrio w = 0 ∧ pPart w = 0 ∧ pNum w < 1024 ∧ pPlen w = 0 ∧ pNode w = 0 ∧ pPoff w = 0 ∧
          pInline w = 0)
   | _ => false)

/-- The status codes of R414. -/
abbrev lsDone : Nat := 0
abbrev lsBadPacket : Nat := 1
abbrev lsBadImage : Nat := 2
abbrev lsBadPatch : Nat := 3
abbrev lsBadShape : Nat := 4
abbrev lsDomain : Nat := 5
abbrev lsBadParam : Nat := 6
abbrev lsBadGraph : Nat := 7
abbrev lsBusy : Nat := 8

/-! ## Completion words (R414) -/

/-- The completion word of a packet. -/
def completion (r : Reply) (st : Nat) : Nat := b2n r.lro * 2 ^ 23 + st * 2 ^ 24 + r.cookie.toNat * 2 ^ 32

/-- A refusal or a failed write is reported (R414, R459). -/
def launchReport (s : State) (d : Nat) (r : Reply) (st : Nat) : State := s.report d 3 (completion r st)

/-- The home die of a packet: the one that carries its port, or the issuer's. -/
def PktFrom.home : PktFrom → Nat
  | .host port _ => portDie port
  | .device d _ _ _ _ => d
  | .node _ _ _ => 0

/-- A device record's completion word is written under its domain, in the counter window as a set (R213); none while the line is pending. -/
def deviceWord (s : State) (d : Nat) (r : Reply) (st : Nat) : Option State :=
  match unitFa s d r.dom.toNat r.caddr true with
  | (s, none) => some (launchReport s d r st)
  | (s, some fa) =>
    if faClass fa = 4 ∧ !s.here fa then some (if s.unreachable (faPkg fa) then launchReport s d r st else s)
    else if faClass fa = 4 then
      match windowCounter fa, logicalOf (s.die (faDie fa)) (faUnit fa) with
      | some k, some c => some ((remoteUpd s (faDie fa) c r.dom.toNat (.set k (completion r st % 2 ^ 16))).getD (launchReport s d r st))
      | _, _ => some (launchReport s d r st)
    else if [0, 2, 3, 6].contains (faClass fa) then
      match putFabrics r.dom (fun _ => false) fa r.caddr (completion r st) 8 s with
      | .ok s => some s
      | .error .held => none
      | .error _ => some (launchReport s d r st)
    else some (launchReport s d r st)

/-- The answer to a packet: the completion word, then for a device record its signal; none while its write is held. -/
def reply (s : State) (r : Reply) (st : Nat) : Option State :=
  let d := r.src.home
  match r.src with
  | .host _ _ =>
    if r.caddr = 0 then some (if st = 0 then s else launchReport s d r st)
    else if r.caddr % 8 ≠ 0 then some (launchReport s d r st)
    else some { s with host := memWrite s.host r.caddr 8 (completion r st) }
  | .device _ c dom ck ci =>
    let w := if r.caddr = 0 then some (if st = 0 then s else launchReport s d r st)
      else if r.caddr % 8 ≠ 0 then some (launchReport s d r st)
      else deviceWord s d r st
    w.map (fun s => if ci = 0 then s else (remoteUpd s d c dom.toNat (.signal ck ci)).getD s)
  | .node _ _ _ => some s

/-! ## Checks of a launch (R76 to R78, R414 to R417) -/

/-- Does a head have form I or K (WID 1), or Q (WID 2) (R78)? That a head whose opcode has such a form but whose TL does not match it has
none is the model's choice (log entry 28). -/
def patchable (head wid : Nat) : Bool :=
  if wid = 1 then decide (head / 16384 = 2) && [0x26, 0x27, 0x70, 0x72, 0x73, 0x74].contains (headOp head)
  else if wid = 2 then decide (head / 16384 = 3 ∧ headOp head = 0x28)
  else false

/-- One patch entry, decoded: line, head, offset, width code. -/
def patchEntry (e : W64) : Nat × Nat × Nat × Nat := (fld e 63 38, fld e 37 33, fld e 32 17, fld e 16 15)

/-- Every patch entry of a launch is good (R78); lines are read under the image's domain. That a line which cannot be read so is a bad
patch is the model's choice (log entry 28). -/
def patchesOk (d dom code len plen : Nat) : List W64 → List (Nat × Nat) → State → State × Bool
  | [], _, s => (s, true)
  | e :: t, seen, s =>
    let (line, slot, off, wid) := patchEntry e
    if fld e 14 0 ≠ 0 ∨ seen.contains (line, slot) ∨ len ≤ 64 * line ∨ plen < off + (if wid = 2 then 8 else 4) then (s, false)
    else
      match unitRead s d dom [2, 3] (code + 64 * line) 64 with
      | (s, none) => (s, false)
      | (s, some b) =>
        let l : Line := BitVec.ofNat 512 (ofBytes b)
        if lineNH l ≠ 0 ∧ lineOk l ∧ 1 ≤ slot ∧ slot ≤ lineNH l ∧ patchable (half l slot) wid then
          patchesOk d dom code len plen t ((line, slot) :: seen) s
        else (s, false)

/-- Cores of a quad that belong to a partition. -/
def partQuad (v : Die) (p q : Nat) : List Nat :=
  ((List.range 4).map (fun i => 4 * q + i)).filter (fun c => partCore (v.part p) c)

/-- Quads that hold at least `ncore` cores of a partition. -/
def eligibleQuads (v : Die) (p ncore : Nat) : List Nat :=
  (List.range 24).filter (fun q => decide (ncore ≤ (partQuad v p q).length))

/-- The counts of a shape. -/
def shapeAt (l : List Nat) (i : Nat) : Nat := l.getD i 0

/-- Is this package among those of a shape, and at what ordinal? -/
def pkgOrd (s : State) (pkgb npkg : Nat) : Option Nat :=
  let p := (s.pkg.toNat + 4096 - pkgb) % 4096
  if p < npkg then some p else none

/-- The dies of this package that a shape names (R417). -/
def shapeDies (s : State) (p : Nat) (shape : List Nat) : List Nat :=
  ((List.range 12).filter (fun d => decide (shapeAt shape 3 ≤ (eligibleQuads (s.die d) p (shapeAt shape 4)).length))).take
    (shapeAt shape 2)

/-- The limits of a shape, and what the partition can supply here (R417). -/
def shapeOk (s : State) (p pkgb : Nat) (gang : Bool) (shape : List Nat) : Bool :=
  decide (shapeAt shape 0 = 1 ∧ 1 ≤ shapeAt shape 1 ∧ shapeAt shape 1 ≤ 4096 ∧ 1 ≤ shapeAt shape 2 ∧ shapeAt shape 2 ≤ 12 ∧
    1 ≤ shapeAt shape 3 ∧ shapeAt shape 3 ≤ 24 ∧ 1 ≤ shapeAt shape 4 ∧ shapeAt shape 4 ≤ 4 ∧ 1 ≤ shapeAt shape 5 ∧
    shapeAt shape 5 ≤ 64 ∧ (gang = false ∨ shapeAt shape 4 = 4)) &&
  ((List.range (shapeAt shape 1)).all (fun i => !s.unreachable ((pkgb + i) % 4096))) &&
  ((pkgOrd s pkgb (shapeAt shape 1)).isNone || decide ((shapeDies s p shape).length = shapeAt shape 2))

/-- Bytes of an inline block. -/
def inlineBytes (w : Rec) : List Byte := bytesOf (pPlen w) (pInline w)

/-- The parameter block of a LAUNCH record, read at its home under its domain (R416): in class 0, 2, 3 or 6 (R228). It is held where
such a read is; any other end of a read means that the block cannot be read. -/
def readParams (s : State) (d : Nat) (w : Rec) : State × Except Got (List Byte) :=
  if pInl w then (s, .ok (inlineBytes w))
  else
    match unitPages d (pDom w) [0, 2, 3, 6] (pagesOf (pPaddr w) (pPlen w)) s with
    | (s, some l) => (s, pageBytesAt s (BitVec.ofNat 12 (pDom w)) l (pPaddr w) 0 (pPlen w))
    | (s, none) => (s, .error (.fails (pPaddr w)))

/-- Is a read held? -/
def readHeld {α : Type} : Except Got α → Bool
  | .error .held => true
  | _ => false

/-- A LAUNCH record checked at its home, with its parameter block: the launch it makes, or its status. -/
def checkLaunch (s : State) (d : Nat) (w : Rec) (r : Reply) (params : Except Got (List Byte)) : State × Except Nat Launch :=
  match tfind s.images (pNum w) with
  | none => (s, .error lsBadImage)
  | some im =>
    if im.dom.toNat ≠ pDom w then (s, .error lsBadImage)
    else
      let h := im.hdr
      match patchesOk d (pDom w) (im.va + hCodeOff h) (hCodeLen h) (pPlen w) im.patches [] s with
      | (s, false) => (s, .error lsBadPatch)
      | (s, true) =>
        let shape := pShape w
        if !shapeOk s (pPart w) (pPkgb w) (hGang h) shape then (s, .error lsBadShape)
        else
          let ord := pkgOrd s (pPkgb w) (shapeAt shape 1)
          let dies := if ord.isSome then shapeDies s (pPart w) shape else []
          if !(if dies.isEmpty then [d] else dies).all (fun j => (s.die j).permits (some (pPart w)) (pDom w)) then (s, .error lsDomain)
          else
            match params with
            | .error _ => (s, .error lsBadParam)
            | .ok ps =>
              (s, .ok { code := im.va + hCodeOff h, codeLen := hCodeLen h, patches := im.patches.map patchEntry, params := ps
                        hdr := h, dom := BitVec.ofNat 12 (pDom w), prio := pPrio w, part := pPart w, shape := shape
                        pkgb := pPkgb w, away := decide (1 < shapeAt shape 1 ∨ ord = none)
                        shares := dies.zipIdx.map (fun p => { die := p.1, ord := p.2 }), reply := r })

/-! ## Accepting a launch (R416, R419) -/

/-- The place of a launch in its partition's copy area: the lowest that no launch of the partition holds. -/
def copySlot (s : State) (p : Nat) : Nat :=
  let used := (s.launches.filter (fun l => decide (l.2.part = p))).map (fun l => l.2.slot)
  ((List.range (used.length + 1)).find? (fun i => !used.contains i)).getD 0

/-- Virtual and fabric address of a launch's parameter copy on a die. -/
def copyVa (v : Die) (l : Launch) : Nat := (tget (0, 0, 0) v.pcopy l.part).1.toNat + 4096 * l.slot
def copyFa (v : Die) (l : Launch) : Nat := (tget (0, 0, 0) v.pcopy l.part).2.1.toNat + 4096 * l.slot

/-- A launch is entered: its parameter copies written, its shares queued. -/
def enterLaunch (s : State) (l : Launch) : State :=
  let n := s.nextLaunch
  let l := { l with slot := copySlot s l.part }
  let s := { s with launches := tins s.launches n l, nextLaunch := n + 1 }
  l.shares.foldl (fun s h =>
    let v := s.die h.die
    let key := 8 * l.part + l.prio
    let s := s.setDie h.die { v with lq := tset [] v.lq key (tget [] v.lq key ++ [n]) }
    if (tfind v.pcopy l.part).isSome then storeBytes s (copyFa v l) l.params else s) s

end Sys2Proof.Machine
end

