-- ==== Sys2Proof/Machine/Launches.lean ====
section
/-! DEFINITION. Launch packets, images, placement, task creation, completion and task graphs: chapter 18 (R411 to R424). -/

namespace Sys2Proof.Machine

/-! ## Submitting packets (R411, R412) -/

/-- The function record of a PCIe function (R412): LEN and PMASK. -/
def fnLen (s : State) (port fn : Nat) : Bool := bit ((s.die (portDie port)).reg (0x70010 + 32 * fn)) 0
def fnMask (s : State) (port fn : Nat) : W64 := (s.die (portDie port)).reg (0x70008 + 32 * fn)
def fnFrozen (s : State) (port fn : Nat) : Bool := s.fnFrz.getLsbD (8 * port + fn)

/-- A PCIe function freezes for a reason (R439 reason 4, R440, R441). -/
def freezeFn (s : State) (port fn odom addr : Nat) : State :=
  let s := { s with fnFrz := s.fnFrz ||| (1#16 <<< (8 * port + fn)) }
  freezeReport s (portDie port) 3 4 (port + fn * 256) odom 0xFFF addr false

/-- Body of an OVERRUN report: port, function and slot. -/
def overrun (s : State) (port fn slot : Nat) : State := s.report (portDie port) 2 (port + fn * 256 + slot * 65536)

/-- The number of an aperture slot. -/
def apKey (port fn slot : Nat) : Nat := 128 * port + 16 * fn + slot

/-- A submission through a slot: the packet is taken from it, and the slot is BUSY; into a BUSY slot it is an OVERRUN (R411). -/
def submitSlot (s : State) (port fn slot : Nat) (w : Rec) (relaxed : Bool) : State :=
  if (tfind s.aper (apKey port fn slot)).isSome then overrun s port fn slot
  else { s with
    aper := tins s.aper (apKey port fn slot) (w, relaxed)
    apAt := tins s.apAt (apKey port fn slot) (s.die (portDie port)).dcyc }

/-- What a submission comes to: a state in which nothing more happens, or the packet taken from its slot or queue. -/
inductive Taken where
  | stop (s : State)
  | took (s : State) (home : Nat) (r : Reply)

/-- A packet on its way to the launch unit. From a slot that is not BUSY, the host writes its 256 bytes at once, which submits the
packet; a BUSY slot gives up the packet it holds into the queue, and another packet there is an OVERRUN. (A host's writes of fewer
bytes, and a second write of the same packet, are turns of the host, R411.) A device record is the oldest of its die. -/
def takePacket (s : State) (src : PktSrc) (w : Rec) (relaxed : Bool) : Taken :=
  let r : Reply := { dom := BitVec.ofNat 12 (pDom w), cookie := BitVec.ofNat 32 (pCookie w), caddr := pCaddr w, lro := relaxed }
  match src with
  | .host port fn slot =>
    if 2 ≤ port ∨ 8 ≤ fn ∨ 16 ≤ slot then .stop s
    else
      let key := apKey port fn slot
      if fnFrozen s port fn then .stop { s with aper := tdel s.aper key }
      else if !fnLen s port fn then .stop s
      else
        match tfind s.aper key with
        | none => .stop (submitSlot { s with slots := tins s.slots key w } port fn slot w relaxed)
        | some x =>
          if x = (w, relaxed) then
            .took { s with aper := tdel s.aper key } (portDie port) { r with src := .host port fn }
          else .stop (overrun s port fn slot)
  | .device d =>
    let v := s.die d
    match v.lrecs with
    | [] => .stop s
    | (x, c, dom) :: t =>
      if x = w then .took (s.setDie d { v with lrecs := t }) d { r with src := .device d c dom (pCk w) (pCi w), lro := false }
      else .stop s

/-- Is the submitter a PCIe function? -/
def PktFrom.isHost : PktFrom → Bool
  | .host _ _ => true
  | _ => false

/-- A partition that system software has not bound to the submitting function is a violation (R414). -/
def unbound (s : State) (r : Reply) (p : Nat) : Option (Nat × Nat) :=
  match r.src with
  | .host port fn => if (fnMask s port fn).getLsbD p then none else some (port, fn)
  | _ => none

/-- A state after an answer, or the state before while its write is held. -/
def orHeld (s : State) : Option State → Host.Outcome State Fault Refusal
  | some s' => .next s'
  | none => .next s

/-- A packet of a type runs `f` once taken, legal and allowed. -/
def packetRun (src : PktSrc) (w : Rec) (relaxed : Bool) (ty : Nat) (f : State → Nat → Reply → Option State) (s : State) :
    Host.Outcome State Fault Refusal :=
  if pType w ≠ ty then .next s
  else
    match takePacket s src w relaxed with
    | .stop s' => .next s'
    | .took s' home r =>
      if !packetOk w r.src.isHost then orHeld s (reply s' r lsBadPacket)
      else
        match (if ty = 5 then none else unbound s' r (pPart w)) with
        | some (port, fn) => .next (freezeFn s' port fn (pDom w) 0)
        | none => orHeld s (f s' home r)

/-- RESERVED_PACKET_TYPE (R414): BAD_PACKET, and nothing else. -/
def execReservedPacketType (src : PktSrc) (w : BitVec 2048) (relaxed : Bool) (s : State) : Host.Outcome State Fault Refusal :=
  if 1 ≤ pType w ∧ pType w ≤ 5 then .next s
  else
    match takePacket s src w relaxed with
    | .stop s' => .next s'
    | .took s' _ r => orHeld s (reply s' r lsBadPacket)

/-- LAUNCH_PACKET (R416). -/
def execLaunchPacket (src : PktSrc) (w : BitVec 2048) (relaxed : Bool) (s : State) : Host.Outcome State Fault Refusal :=
  packetRun src w relaxed 1 (fun s home r =>
    let (s, ps) := readParams s home w
    if readHeld ps then none else
    match checkLaunch s home w r ps with
    | (s, .ok l) => some (enterLaunch s l)
    | (s, .error st) => reply s r st) s

/-- REGISTER_PACKET (R415): an image that fails its checks is not entered. -/
def execRegisterPacket (src : PktSrc) (w : BitVec 2048) (relaxed : Bool) (s : State) : Host.Outcome State Fault Refusal :=
  packetRun src w relaxed 5 (fun s home r =>
    match readImage s home (BitVec.ofNat 12 (pDom w)) (pPaddr w) with
    | (s, some im) => reply { s with images := tins s.images (pNum w) im } r lsDone
    | (s, none) => reply s r lsBadImage) s

/-! ## Placing a share (R15, R75, R417 to R419) -/

/-- Ready depth of a core, as mk_load holds it. -/
def loadDepth (v : Die) (c : Nat) : Nat := fld (v.core c).load 6 0

/-- Least-first order by a measure, the lower number first on a tie. -/
def orderInsert (f : Nat → Nat) (x : Nat) : List Nat → List Nat
  | [] => [x]
  | y :: t => if f x < f y ∨ (f x = f y ∧ x < y) then x :: y :: t else y :: orderInsert f x t
def orderBy (f : Nat → Nat) (l : List Nat) : List Nat := l.foldl (fun r x => orderInsert f x r) []

/-- The quads a share uses now, in ascending number. -/
def shareQuads (v : Die) (l : Launch) : List Nat :=
  let depth := fun q => ((partQuad v l.part q).map (loadDepth v)).sum
  orderBy id ((orderBy depth (eligibleQuads v l.part (shapeAt l.shape 4))).take (shapeAt l.shape 3))

/-- The cores a share uses in a quad, in ascending number. -/
def shareCores (v : Die) (l : Launch) (q : Nat) : List Nat :=
  orderBy id ((orderBy (loadDepth v) (partQuad v l.part q)).take (shapeAt l.shape 4))

/-- Launch coordinates of a task (R112, R418). -/
def lcoOf (ctx core quad die pkg : Nat) : BitVec 128 :=
  BitVec.ofNat 128 (ctx + core * 2 ^ 16 + quad * 2 ^ 32 + die * 2 ^ 48 + pkg * 2 ^ 64)

/-- The tasks of a share, by core, with their coordinates. -/
def shareTasks (v : Die) (l : Launch) (ord pkg : Nat) : List (Nat × BitVec 128) :=
  (shareQuads v l).zipIdx.flatMap (fun q =>
    (shareCores v l q.1).zipIdx.flatMap (fun c =>
      (List.range (shapeAt l.shape 5)).map (fun i => (c.1, lcoOf i c.2 q.2 ord pkg))))

/-- Places dealt out to tasks: a WP each, and the first byte of region 1 where the image has scratch. -/
def dealPlaces (scratch : Bool) : List (Nat × BitVec 128) → List Nat → Option (List Task)
  | [], [] => some []
  | (c, lco) :: t, wp :: rest =>
    if scratch then
      match rest with
      | b :: rest => (dealPlaces scratch t rest).map (fun l => { core := c, lco := lco, wp := wp, base := b } :: l)
      | [] => none
    else (dealPlaces scratch t rest).map (fun l => { core := c, lco := lco, wp := wp, base := 0 } :: l)
  | _, _ => none

/-- The byte ranges a task of a launch takes. -/
def taskRanges (h : BitVec 1024) (t : Task) : List (Nat × Nat) :=
  (t.wp - 128, 128 + 16 * hWsz h) :: (if hScratch h = 0 then [] else [(t.base, hScratch h)])

/-- A task's places are aligned and free; they are then reserved, with an entry of the context table. -/
def reserveTask (h : BitVec 1024) (k : Core) (t : Task) : Option Core :=
  if t.wp % 64 = 0 ∧ 128 ≤ t.wp ∧ t.base % 16 = 0 then
    (taskRanges h t).foldl (fun k r => k.bind (fun k =>
      if placeFree k r.1 r.2 then some { k with act := { k.act with resv := k.act.resv ++ [r] } } else none))
      (some { k with act := { k.act with owed := k.act.owed + 1 } })
  else none

/-- Can a core take tasks of a launch: its active set is the partition's, it has context-table entries, and no other live launch
placed there shares a mask (R75)? -/
def coreTakes (s : State) (d c n : Nat) (l : Launch) (id : Nat) : Bool :=
  let k := s.core d c
  decide (k.act.part = some l.part) && !k.halted &&
  decide (n + k.act.owed ≤ (freeIxs k.act).length) &&
  s.launches.all (fun m => decide (m.1 = id ∨ m.2.part ≠ l.part) ||
    m.2.shares.all (fun h => decide (h.die ≠ d) || !h.cores.contains c || !masksMeet m.2.hdr l.hdr))

/-- The entries of a launch's masks reset on a core (R210, R221, R298, R357). -/
def resetMasks (h : BitVec 1024) (k : Core) : Core :=
  let a := k.act
  let ks := (List.range 256).filter (fun i => (hCounter h).testBit i)
  let a := { a with
    counters := ks.foldl (fun t i => tset {} t i {}) a.counters
    chunk := ((List.range 16).filter (fun i => (hChunk h).testBit i)).foldl (fun t i => tset 0 t i 0) a.chunk
    acc := ((List.range 16).filter (fun i => (hAcc h).testBit i)).foldl (fun m i => memZero m (i * 0x4000) 0x4000) a.acc
    trees := ((List.range 4).filter (fun i => (hTree h).testBit i)).foldl
      (fun t i => tset {} t i { tget {} t i with cnt := 0, bv := false, nodes := [] }) a.trees }
  { k with
    act := wakeAll a
    arr := k.arr.filter (fun x => match x with
      | .trigger i => !ks.contains i
      | _ => true) }

/-- A share changed in a launch. -/
def Launch.setShare (l : Launch) (d : Nat) (f : Share → Share) : Launch :=
  { l with shares := l.shares.map (fun h => if h.die = d then f h else h) }

/-- A share may be considered: at the head of its queue, with no share of a higher priority waiting (R419). -/
def shareFirst (v : Die) (l : Launch) (id : Nat) : Bool :=
  decide ((tget [] v.lq (8 * l.part + l.prio)).head? = some id) &&
  (List.range l.prio).all (fun p => (tget [] v.lq (8 * l.part + p)).isEmpty)

/-- Every task's places reserved, die by cores; none when one does not fit. -/
def reserveAll (h : BitVec 1024) (v : Die) : List Task → Option Die
  | [] => some v
  | t :: ts =>
    match reserveTask h (v.core t.core) t with
    | some k => reserveAll h (v.setCore t.core k) ts
    | none => none

/-- SHARE_PLACE (R417): a die places its whole share at once, in the places named. -/
def execSharePlace (id d : Nat) (wps : List Nat) (s : State) : Host.Outcome State Fault Refusal :=
  match tfind s.launches id with
  | none => .next s
  | some l =>
    let v := s.die d
    match l.shares.find? (fun h => decide (h.die = d) && !h.placed), pkgOrd s l.pkgb (shapeAt l.shape 1) with
    | some h, some pkg =>
      if !shareFirst v l id then .next s
      else
        let ts := shareTasks v l h.ord pkg
        let cores := (ts.map (·.1)).eraseDups
        if ts.length ≠ shapeAt l.shape 3 * shapeAt l.shape 4 * shapeAt l.shape 5 then .next s
        else if !cores.all (fun c => coreTakes s d c (shapeAt l.shape 5) l id) then .next s
        else
          match dealPlaces (decide (hScratch l.hdr ≠ 0)) ts wps with
          | none => .next s
          | some todo =>
            match reserveAll l.hdr v todo with
            | none => .next s
            | some v =>
              let v := cores.foldl (fun v c => v.setCore c (resetMasks l.hdr (v.core c))) v
              let key := 8 * l.part + l.prio
              let v := { v with lq := tset [] v.lq key ((tget [] v.lq key).tail) }
              let l := l.setShare d (fun h => { h with placed := true, cores := cores, todo := todo })
              .next { s.setDie d v with launches := tins s.launches id l }
    | _, _ => .next s

/-- A task's places found by first fit, reserved. -/
def fitTask (h : BitVec 1024) (k : Core) : Option Core :=
  let take := fun (k : Core) (r : Nat × Nat) => ({ k with act := { k.act with resv := k.act.resv ++ [r] } } : Core)
  (movePlaces k (hWsz h)).head?.bind (fun wp =>
    let k := take k (wp - 128, 128 + 16 * hWsz h)
    if hScratch h = 0 then some k
    else (((List.range 65536).map (fun i => 16 * i)).find? (fun b => placeFree k b (hScratch h))).map (fun b => take k (b, hScratch h)))

/-- Room on a core for so many tasks. -/
def fitTasks (h : BitVec 1024) : Nat → Core → Bool
  | 0, _ => true
  | n + 1, k => (fitTask h k).any (fitTasks h n)

/-- Does a share that its die could place now take core `c` (R430)? -/
def sharePending (s : State) (d c : Nat) : Bool :=
  let v := s.die d
  s.launches.any (fun l => l.2.shares.any (fun h => decide (h.die = d) && !h.placed && shareFirst v l.2 l.1 &&
    (let cores := (shareQuads v l.2).flatMap (fun q => shareCores v l.2 q)
     cores.contains c && cores.all (fun j => coreTakes s d j (shapeAt l.2.shape 5) l.2 l.1 &&
       fitTasks l.2.hdr (shapeAt l.2.shape 5) (v.core j)))))

/-! ## Creating tasks (R92, R147, R418) -/

/-- The launched task as a context (R418). -/
def launchTask (id : Nat) (l : Launch) (t : Task) : Ctx :=
  let p : BitVec 3 := BitVec.ofNat 3 l.prio
  { blankCtx with
    wp := BitVec.ofNat 20 t.wp, wsz := BitVec.ofNat 11 (hWsz l.hdr), ip := BitVec.ofNat 64 (l.code + hEntry l.hdr)
    prio := p, eprio := p, dom := l.dom, state := .ready, launch := some id, lco := t.lco }

/-- The generation of a task's workspace: drawn before, or now; the core while Alloc stalls. -/
def drawnGen (k : Core) (t : Task) : Except Core (Core × BitVec 10) :=
  match t.gen with
  | some g => .ok (k, g)
  | none => if allocStalls k then .error k.allocWait else .ok (k.allocDone, k.next)

/-- A placed task is created on its core, in an entry reserved for it, its workspace's generation drawn before that of its scratch; or it
waits, with the core as it then stands and what it has drawn (R147). -/
def createTask (k : Core) (id : Nat) (l : Launch) (t : Task) (w0 : W128) : Except (Core × Option (BitVec 10)) Core :=
  let rs := taskRanges l.hdr t
  match (freeIxs k.act).head?, wakeFor k rs with
  | none, _ => .error (k, t.gen)
  | _, some k => .error (k, t.gen)
  | some ix, none =>
    match drawnGen k t with
    | .error k => .error (k, none)
    | .ok (k, g) =>
      let place := fun (k : Core) (r1 : Region) =>
        let a : SetState := { k.act with resv := rs.foldl (fun m r => m.erase r) k.act.resv, owed := k.act.owed - 1 }
        let a := placeCtx a ix { launchTask id l t with wgen := g, r1 := r1 }
        runqTail (regWrite a ix 0 w0.toNat allBytes) ix
      if hScratch l.hdr = 0 then .ok { k with act := place k {} }
      else if allocStalls k then .error (k.allocWait, some g)
      else
        let r : Region := { base := BitVec.ofNat 16 (t.base / 16), size := BitVec.ofNat 17 (hScratch l.hdr / 16), gen := k.next }
        .ok ({ k with act := place k r }).allocDone

/-- TASK_CREATE (R418): the next task of a placed share on a core. -/
def execTaskCreate (id d c : Nat) (s : State) : Host.Outcome State Fault Refusal :=
  match tfind s.launches id with
  | none => .next s
  | some l =>
    match (l.shares.find? (fun h => decide (h.die = d))).bind (fun h => h.todo.find? (fun t => decide (t.core = c))) with
    | none => .next s
    | some t =>
      let v := s.die d
      let k := v.core c
      if k.act.part ≠ some l.part ∨ k.halted then .next s
      else
        let w0 : W128 := BitVec.ofNat 128 (copyVa v l % 2 ^ 64 + l.params.length * 2 ^ 64)
        match createTask k id l t w0 with
        | .error (k, g) =>
          let l := l.setShare d (fun h => { h with todo := h.todo.map (fun u => if u = t then { t with gen := g } else u) })
          .next { s.setCore d c k with launches := tins s.launches id l }
        | .ok k =>
          let l := l.setShare d (fun h => { h with todo := h.todo.erase t })
          .next { s.setCore d c k with launches := tins s.launches id l }

/-! ## Task graphs (R421 to R424) -/

/-- A node record as loaded (R421): DEP, the first NSUCC successors; none when NSUCC is out of range or an unused entry is not
zero. -/
def nodeOf (b : List Byte) : Option Node :=
  let at2 := fun o => ofBytes ((b.drop o).take 2)
  let n := at2 0x102
  let succ := (List.range 126).map (fun i => at2 (0x104 + 2 * i))
  if n ≤ 126 ∧ (succ.drop n).all (fun x => decide (x = 0)) ∧ at2 0x100 ≤ 4095 then
    some { rcd := BitVec.ofNat 2048 (ofBytes (b.take 256)), dep := at2 0x100, succ := succ.take n }
  else none

/-- All node records of an area. -/
def nodesOf : Nat → List Byte → Option (List Node)
  | 0, _ => some []
  | n + 1, b =>
    match nodeOf (b.take 512), nodesOf n (b.drop 512) with
    | some x, some l => some (x :: l)
    | _, _ => none

/-- A node's record without the fields that GLOAD ignores. -/
def nodeRec (w : Rec) : Rec := BitVec.ofNat 2048 (putFld w.toNat 256 112 0)

/-- One round of removing nodes that no remaining node names. -/
def peel (l : List Node) (left : List Nat) : List Nat :=
  left.filter (fun i => left.any (fun j => (l.getD j {}).succ.contains i))

/-- Rounds of peeling. -/
def peels (l : List Node) : Nat → List Nat → List Nat
  | 0, left => left
  | n + 1, left => peels l n (peel l left)

/-- The structural conditions of R422. -/
def graphOk (l : List Node) : Bool :=
  let n := l.length
  let names := l.flatMap (·.succ)
  names.all (fun i => decide (i < n)) &&
  l.zipIdx.all (fun p => decide (names.count p.2 = p.1.dep)) &&
  (peels l n (List.range n)).isEmpty

/-- Every node's record passes the checks that do not depend on room. -/
def recordsOk (home : Nat) (r : Reply) : List Node → State → State × Bool
  | [], s => (s, true)
  | x :: t, s =>
    let w := nodeRec x.rcd
    if pType w ≠ 1 ∨ !packetOk w false then (s, false)
    else
      let (s, ps) := readParams s home w
      match checkLaunch s home w r (if readHeld ps then .ok [] else ps) with
      | (s, .ok _) => recordsOk home r t s
      | (s, .error _) => (s, false)

/-- GLOAD_PACKET (R421, R422); a graph with replays queued or running is loaded again only after them. -/
def execGloadPacket (src : PktSrc) (w : BitVec 2048) (relaxed : Bool) (s : State) : Host.Outcome State Fault Refusal :=
  packetRun src w relaxed 2 (fun s home r =>
    let key := 64 * pPart w + pNum w
    let old := tget {} s.graphs key
    if !old.queue.isEmpty || old.running.isSome then none
    else if !(s.die home).permits (some (pPart w)) (pDom w) then reply s r lsDomain
    else
      match unitRead s home (pDom w) [2] (pPaddr w) (512 * pNode w) with
      | (s, none) => reply s r lsBadGraph
      | (s, some b) =>
        match nodesOf (pNode w) b with
        | none => reply s r lsBadGraph
        | some l =>
          match recordsOk home r l s with
          | (s, false) => reply s r lsBadGraph
          | (s, true) =>
            if graphOk l then
              let g : Graph := { va := pPaddr w, dom := BitVec.ofNat 12 (pDom w), nodes := l }
              reply { s with graphs := tins s.graphs key g } r lsDone
            else reply s r lsBadGraph) s

/-- No other BUSY slot holds a REPLAY of the same graph that goes first: one submitted in an earlier cycle, or in the same one through a lower
slot (R430). -/
def replayFirst (s : State) (src : PktSrc) (w : Rec) : Bool :=
  match src with
  | .device _ => true
  | .host port fn slot =>
    let key := apKey port fn slot
    let at' := fun k => (tget 0 s.apAt k).toNat
    s.aper.all (fun q => !(decide (q.1 ≠ key ∧ pType q.2.1 = 3 ∧ pPart q.2.1 = pPart w ∧ pNum q.2.1 = pNum w) &&
      decide (at' q.1 < at' key ∨ (at' q.1 = at' key ∧ q.1 < key))))

/-- REPLAY_PACKET (R423): a place in the graph's queue of 8; a graph that is not loaded is BAD_GRAPH. -/
def execReplayPacket (src : PktSrc) (w : BitVec 2048) (relaxed : Bool) (s : State) : Host.Outcome State Fault Refusal :=
  packetRun src w relaxed 3 (fun s home r =>
    let key := 64 * pPart w + pNum w
    match tfind s.graphs key with
    | none => reply s r lsBadGraph
    | some g =>
      if !(s.die home).permits (some (pPart w)) (pDom w) then reply s r lsDomain
      else if !replayFirst s src w then none
      else if 8 ≤ g.queue.length then reply s r lsBusy
      else some { s with graphs := tins s.graphs key { g with queue := g.queue ++ [(home, r)] } }) s

/-- A record with `n` bytes of its inline block replaced at an offset. -/
def patchRec (w : Rec) (off n v : Nat) : Rec := BitVec.ofNat 2048 (putFld w.toNat (512 + 8 * off) (8 * n) v)

/-- PATCH_PACKET (R424): the node's inline block, in the loaded graph and in its area. A replay that is due takes its snapshot first, and
the patch applies to the next (R430). -/
def execPatchPacket (src : PktSrc) (w : BitVec 2048) (relaxed : Bool) (s : State) : Host.Outcome State Fault Refusal :=
  packetRun src w relaxed 4 (fun s home r =>
    let key := 64 * pPart w + pNum w
    match tfind s.graphs key with
    | none => reply s r lsBadGraph
    | some g =>
      match g.nodes[pNode w]? with
      | none => reply s r lsBadPacket
      | some x =>
        if !(s.die home).permits (some (pPart w)) (pDom w) then reply s r lsDomain
        else if !pInl x.rcd then reply s r lsBadPacket
        else if g.running.isNone && !g.queue.isEmpty then none
        else
          let bytes := bytesOf (pPlen w) (pInline w)
          let y := { x with rcd := patchRec x.rcd (pPoff w) (pPlen w) (pInline w) }
          let s := { s with graphs := tins s.graphs key { g with nodes := g.nodes.set (pNode w) y } }
          let va := g.va + 512 * pNode w + 0x40 + pPoff w
          let (s, l) := unitPages home g.dom.toNat [2] (pagesOf va (pPlen w)) s
          let s := match l with
            | some l => bytes.zipIdx.foldl (fun s b => storeBytes s (pageFa l (va + b.2)) [b.1]) s
            | none => s
          reply s r lsDone) s

/-- The parameter blocks of a graph's nodes, read in one step; none while a read is held. -/
def snapshot (home : Nat) : List Node → State → State × Option (List (Option (List Byte)))
  | [], s => (s, some [])
  | x :: t, s =>
    let (s, p) := readParams s home x.rcd
    let (s, l) := snapshot home t s
    (s, if readHeld p then none else l.map (fun l => p.toOption :: l))

/-- One node of a running replay launched, or its refusal. -/
def launchNode (s : State) (key : Nat) (g : Graph) (p : Replay) (n : Nat) : State × Option Nat :=
  let w := nodeRec (g.nodes.getD n {}).rcd
  let params : Except Got (List Byte) := match p.snap.getD n none with
    | some l => .ok l
    | none => .error (.fails 0)
  match checkLaunch s p.home w { src := .node key p.id n } params with
  | (s, .ok l) => (enterLaunch s l, none)
  | (s, .error st) => (s, some st)

/-- Nodes launched in ascending order until one is refused. -/
def launchNodes (key : Nat) (g : Graph) (p : Replay) : List Nat → State → State × Option Nat
  | [], s => (s, none)
  | n :: t, s =>
    match launchNode s key g p n with
    | (s, none) => launchNodes key g p t s
    | (s, some st) => (s, some st)

/-- The running replay of a graph ends with a status: its completion word is written. -/
def endReplayRun (s : State) (key : Nat) (p : Replay) (st : Nat) : Option State :=
  let g := tget {} s.graphs key
  reply { s with graphs := tins s.graphs key { g with running := none } } p.reply st

/-- After nodes have been launched: a refusal ends the replay with its status. -/
def afterNodes (key : Nat) (p : Replay) (q : State × Option Nat) : Option State :=
  match q.2 with
  | some st => endReplayRun q.1 key p st
  | none => some q.1

/-- REPLAY_START (R423): counters set to DEP, the parameter blocks snapshotted, nodes with counter 0 launched. -/
def execReplayStart (part g : Nat) (s : State) : Host.Outcome State Fault Refusal :=
  let key := 64 * part + g
  match tfind s.graphs key with
  | none => .next s
  | some x =>
    match x.running, x.queue with
    | none, (home, r) :: rest =>
      match snapshot home x.nodes s with
      | (_, none) => .next s
      | (s', some snap) =>
      let p : Replay := { id := s'.nextReplay, home := home, reply := r, snap := snap,
                          left := x.nodes.zipIdx.map (fun n => (n.2, n.1.dep)) }
      let x := { x with queue := rest, running := some p }
      let s' := { s' with graphs := tins s'.graphs key x, nextReplay := s'.nextReplay + 1 }
      let roots := (x.nodes.zipIdx.filter (fun n => decide (n.1.dep = 0))).map (·.2)
      orHeld s (afterNodes key p (launchNodes key x p roots s'))
    | _, _ => .next s

/-- Counters of a node's successors lowered; those that reach 0 are to be launched. -/
def lowerSucc : List Nat → Sparse Nat → Sparse Nat × List Nat
  | [], left => (left, [])
  | i :: t, left =>
    let n := tget 0 left i - 1
    let (left, l) := lowerSucc t (tins left i n)
    (left, if n = 0 then i :: l else l)

/-- Node `n` of a replay has completed (R423 steps 3 and 4). -/
def nodeDone (s : State) (key id n : Nat) : Option State :=
  match tfind s.graphs key with
  | none => some s
  | some g =>
    match g.running with
    | none => some s
    | some p =>
      if p.id ≠ id then some s
      else
        let (left, go) := lowerSucc (g.nodes.getD n {}).succ p.left
        let p := { p with left := left, done := p.done + 1 }
        let g := { g with running := some p }
        let s := { s with graphs := tins s.graphs key g }
        if p.done = g.nodes.length then endReplayRun s key p lsDone
        else afterNodes key p (launchNodes key g p go s)

/-! ## Completion (R420) -/

/-- Has every task of a launch been created and retired? -/
def launchOver (s : State) (id : Nat) (l : Launch) : Bool :=
  l.shares.all (fun h => h.placed && h.todo.isEmpty) &&
  s.allCtxs.all (fun x => decide (x.launch ≠ some id ∨ x.state = .free))

/-- LAUNCH_COMPLETE (R420): the reservations are released, then the completion word is written. -/
def execLaunchComplete (id : Nat) (s : State) : Host.Outcome State Fault Refusal :=
  match tfind s.launches id with
  | none => .next s
  | some l =>
    if !launchOver s id l then .next s
    else
      let s' := { s with launches := tdel s.launches id }
      orHeld s (match l.reply.src with
        | .node key rid n => nodeDone s' key rid n
        | _ => reply s' l.reply lsDone)

end Sys2Proof.Machine
end

