-- ==== Sys2Proof/Machine/Balance.lean ====
section
/-! DEFINITION. Ready depths (R126), moves of contexts between cores (R265, R429; MK.MIGR of R135), the shearer (R148),
renewal (R149) and waking banks (R151). -/

namespace Sys2Proof.Machine

/-! ## mk_load (R126) -/

/-- The core of least ready depth among those listed, the lowest-numbered on a tie, with its depth. -/
def leastOf (f : Nat → Nat) : List Nat → Option (Nat × Nat)
  | [] => none
  | c :: t =>
    match leastOf f t with
    | some (d, m) => if m < f c then some (d, m) else some (c, f c)
    | none => some (c, f c)

/-- READY contexts in a core's run queue, at most 64. -/
def Die.depth (v : Die) (c : Nat) : Nat := (v.core c).act.runq.length % 128

/-- mk_load of a core as a refresh sets it. -/
def loadValue (v : Die) (c : Nat) : W64 :=
  let idle := (leastOf v.depth (List.range 96)).getD (0, 0)
  let quad := (leastOf v.depth ((List.range 4).map (fun i => c / 4 * 4 + i))).getD (0, 0)
  BitVec.ofNat 64 (v.depth c + quad.2 * 2 ^ 8 + idle.2 * 2 ^ 16 + idle.1 * 2 ^ 24)

/-- LOAD_REFRESH: every 64 cc. -/
def execLoadRefresh (d c : Nat) (s : State) : Host.Outcome State Fault Refusal :=
  let v := s.die d
  let k := v.core c
  if k.cyc.toNat % 64 = 0 then .next (s.setCore d c { k with load := loadValue v c }) else .next s

/-! ## Moving a context (R152, R265, R429) -/

/-- The live registers of a context, by number. -/
def liveRegs (a : SetState) (x : Ctx) : Sparse W128 :=
  (List.range x.wsz.toNat).filterMap (fun i =>
    if granLive a.pad (x.gran i) x.wgen then some (i, regRaw a x i) else none)

/-- The predicates p1 to p7 of a context that do not read zero. -/
def livePreds (a : SetState) (x : Ctx) : Sparse W64 :=
  ((List.range 8).drop 1).filterMap (fun i => let v := predRead a x i; if v = 0 then none else some (i, BitVec.ofNat 64 v))

/-- IP and live registers fit in 1 KiB. -/
def movesFit (a : SetState) (x : Ctx) : Bool := decide (8 + 16 * (liveRegs a x).length ≤ 1024)

/-- No channel binding. -/
def unboundChan (x : Ctx) : Bool := (List.range 8).all (fun b => (x.binding b).isNone)

/-- No scratch region. -/
def noScratch (x : Ctx) : Bool := decide (x.r1.size = 0 ∧ x.r2.size = 0 ∧ x.r3.size = 0)

/-- Every store-buffer entry a context made has performed (R265). -/
def storesGone (k : Core) (ix : Nat) (inc : BitVec 10) : Bool := decide (lastStore k ix inc = 0)

/-- May balancing move this READY context (R429)? -/
def movable (s : State) (k : Core) (ix : Nat) : Bool :=
  let x := k.act.ctx ix
  decide (x.state = .ready) && !x.pin && unboundChan x && noScratch x && decide (x.stream = 0xFFFFFFFF) && movesFit k.act x &&
  (match x.launch with
   | some l => !hDeclares (tget {} s.launches l).hdr
   | none => true)

/-- The move: the target has reserved the area at `wp`, the source releases its own, the context travels (R429). -/
def moveCtx (s : State) (d c ix tc wp : Nat) : State :=
  let k := s.core d c
  let a := k.act
  let x := a.ctx ix
  let src : Sender := { die := d, core := c, ix := ix, inc := x.inc, dom := x.dom }
  let p : Packet :=
    { cls := 1, src := src, pkg := s.pkg.toNat, die := d, core := tc,
      body := .context x (liveRegs a x) (livePreds a x) (BitVec.ofNat 20 wp) }
  let t := s.core d tc
  let s := s.setCore d tc { t with act := { t.act with resv := t.act.resv ++ [(wp - 128, 128 + 16 * x.wsz.toNat)] } }
  sendPacket (s.setCore d c (freeCtx (s.core d c) ix false)) p

/-- Can a core take a moved context, and where: its table has a free entry and its scratch a free place. -/
def moveRoom (k : Core) (wsz tick : Nat) : Option Nat :=
  if (freeIx k.act).isSome then movePlace k wsz tick else none

/-- BALANCE_MOVE (R429): at most one per 64 cc, on the depths of the last refresh. The context chosen waits to be packed until its stores
have performed (R265); a share that can be placed on the target core goes first (R430). -/
def execBalanceMove (d c : Nat) (s : State) : Host.Outcome State Fault Refusal :=
  let v := s.die d
  let k := v.core c
  let own := loadDepth v c
  if k.cyc.toNat % 64 ≠ 0 ∨ k.moved = some k.cyc ∨ own ≤ k.hwm.toNat ∨ k.halted ∨ k.act.part.isNone then .next s
  else
    let mates := (List.range 96).filter (fun i => decide (i ≠ c ∧ (v.core i).act.part = k.act.part))
    match (k.act.runq.filter (movable s k)).getLast?, leastOf (loadDepth v) mates with
    | some ix, some (tc, n) =>
      if own < n + 2 ∨ !storesGone k ix (k.act.ctx ix).inc ∨ sharePending s d tc then .next s
      else
        match moveRoom (v.core tc) (k.act.ctx ix).wsz.toNat s.tick with
        | some wp =>
          let s := moveCtx s d c ix tc wp
          .next (s.setCore d c { s.core d c with moved := some k.cyc })
        | none => .next s
    | _, _ => .next s

/-- MK.MIGR (R135): moves a READY context of the hart's domain. -/
def execMkMigr (r : RType) (s : State) : Host.Outcome State Fault Refusal :=
  hartRun .u 1 6 r { rd := true, rs1 := true, rs2 := true } (fun d c v w s =>
    if 95 < w.toNat then status s stRange
    else
      match handleArg s d c v with
      | .error n => status s n
      | .ok ix =>
        let k := s.core d c
        let x := k.act.ctx ix
        if x.state ≠ .ready then status s stBadstate
        else if x.pin || !unboundChan x then status s stPinned
        else if !noScratch x || !movesFit k.act x then status s stRange
        else if !storesGone k ix x.inc then .error (.stall s)
        else
          match moveRoom (s.core d w.toNat) x.wsz.toNat s.tick with
          | some wp => .ok (moveCtx s d c ix w.toNat wp, 0)
          | none => status s stNoroom) s

/-- A moved context as it is created: PRIO, DOM, STRICT, OVFE and %fpc kept, EPRIO := PRIO. -/
def movedCtx (x : Ctx) (wp : BitVec 20) : Ctx := { x with wp := wp, eprio := x.prio, state := .ready, age := 0, frame := none }

/-- CONTEXT_MIGRATE_ARRIVAL (R429): the context is created READY in the area reserved for it. -/
def execContextMigrateArrival (n : Nat) (s : State) : Host.Outcome State Fault Refusal :=
  match s.ready n with
  | some p =>
    match p.body with
    | .context x regs preds wp =>
      let k := s.core p.die p.core
      let r := (wp.toNat - 128, 128 + 16 * x.wsz.toNat)
      if !k.act.resv.contains r then .next s
      else
        match freeIx k.act, createWait k [r] with
        | none, _ => .next s
        | _, some k => .next (s.setCore p.die p.core k)
        | some ix, none =>
          let k := createAt { k with act := { k.act with resv := k.act.resv.erase r } } ix (movedCtx x wp) regs
          let a := preds.foldl (fun a q => predWrite a ix q.1 q.2.toNat) k.act
          .next ((s.dropPkt n).setCore p.die p.core { k with act := a })
    | _ => .next s
  | none => .next s

/-! ## Live regions and the shearer (R148) -/

/-- A live region that holds generations: first byte, length, generation. A workspace's includes its predicates. -/
def Ctx.genAreas (x : Ctx) : List (Nat × Nat × BitVec 10) :=
  (x.area.1, x.area.2, x.wgen) :: [1, 2, 3].map (fun r => x.region r)

/-- The generation-bearing regions of a set, the save region first. -/
def SetState.genAreas (a : SetState) : List (Nat × Nat × BitVec 10) :=
  (0, 0x2000, a.saveGen) :: a.ctxs.flatMap (fun p => if p.2.state = .free then [] else p.2.genAreas)

/-- Is a granule stale: no live region that holds it carries its tag? -/
def granStale (a : SetState) (g : Nat) (t : BitVec 10) : Bool :=
  a.genAreas.all (fun r => !(decide (t = r.2.2) && meets (16 * g) 16 r.1 r.2.1))

/-- Tags of granules in [lo, lo+n) that are stale, cleared. -/
def shearRange (a : SetState) (lo n : Nat) : SetState :=
  { a with pad := a.pad.filterMap (fun g =>
      if lo ≤ g.1 ∧ g.1 < lo + n ∧ granStale a g.1 g.2.tag then
        voidGran g
      else some g) }

/-- The set of a core that is A (false) or B (true): is it the shadow one? -/
def Core.isShadow (k : Core) (setB : Bool) : Bool := setB != k.setB

/-- The shearer has examined four granules of a bank; a sweep that ends turns to the other set. -/
def Shearer.examined (h : Shearer) (bank : Nat) : Shearer :=
  let pos := tset 0 h.pos bank (tget 0 h.pos bank + 4)
  if (List.range 16).all (fun b => decide (4096 ≤ tget 0 pos b)) then { h with setB := !h.setB, pos := [] } else { h with pos := pos }

/-- SHEARER_SCAN: four granules of a bank of the set under sweep. -/
def execShearerScan (d c bank : Nat) (s : State) : Host.Outcome State Fault Refusal :=
  let k := s.core d c
  let p := tget 0 k.shear.pos bank
  if 16 ≤ bank ∨ 4096 ≤ p then .next s
  else
    let sh := k.isShadow k.shear.setB
    let k := k.putSet sh (shearRange (k.set sh) (4096 * bank + p) 4)
    .next (s.setCore d c { k with shear := k.shear.examined bank })

/-- SHEAR_FORCED_RATE: an Alloc has stalled for 4,096 cc. -/
def execShearForcedRate (d c : Nat) (s : State) : Host.Outcome State Fault Refusal :=
  let k := s.core d c
  if k.shear.waiting ∧ 4096 ≤ k.shear.stalled then .next (s.setCore d c { k with shear := { k.shear with forced := true } })
  else .next s

/-! ## Renewal (R149) -/

/-- The generations of the due regions of a set. -/
def dueGens (next : BitVec 10) (a : SetState) : List (BitVec 10) :=
  (a.genAreas.filter (fun r => decide (r.2.1 ≠ 0) && inLead next r.2.2)).map (fun r => r.2.2)

/-- Region `g` of context `ix`, or the save region (64): first byte, length, generation; none when not live. -/
def liveRegion (a : SetState) (ix g : Nat) : Option (Nat × Nat × BitVec 10) :=
  if ix = 64 then some (0, 0x2000, a.saveGen)
  else
    let x := a.ctx ix
    let r := if g = 0 then (x.area.1, x.area.2, x.wgen) else x.region g
    if x.state = .free ∨ 3 < g ∨ r.2.1 = 0 then none else some r

/-- The granules of a region that carry its generation take another. -/
def retag (p : Sparse Gran) (lo n : Nat) (old new : BitVec 10) : Sparse Gran :=
  p.map (fun q => if meets (16 * q.1) 16 lo n && decide (q.2.tag = old) then (q.1, { q.2 with tag := new }) else q)

/-- The new generation in the descriptor, or in the save-region entry. -/
def setRegionGen (a : SetState) (ix g : Nat) (new : BitVec 10) : SetState :=
  if ix = 64 then { a with saveGen := new } else a.setCtx ix ((a.ctx ix).setGen g new)

/-- REGION_RENEW: a due region takes a fresh generation. -/
def execRegionRenew (d c : Nat) (shadow : Bool) (ix g : Nat) (s : State) : Host.Outcome State Fault Refusal :=
  let k := s.core d c
  let a := k.set shadow
  match liveRegion a ix g with
  | none => .next s
  | some (lo, n, old) =>
    if !inLead k.next old then .next s
    else
      let skip := dueGens k.next k.act ++ dueGens k.next k.shd
      if leadBusy k.next skip k.act.pad || leadBusy k.next skip k.shd.pad then .next (s.setCore d c k.allocWait)
      else
        let a := setRegionGen { a with pad := retag a.pad lo n old k.next } ix g k.next
        .next (s.setCore d c (k.putSet shadow a).allocDone)

/-! ## Waking banks (R151) -/

/-- BANK_WAKE: the banks that a creation waits for wake together. -/
def execBankWake (d c : Nat) (s : State) : Host.Outcome State Fault Refusal :=
  let k := s.core d c
  if k.wake = 0 then .next s
  else .next (s.setCore d c { k with act := { k.act with gated := k.act.gated &&& ~~~k.wake }, wake := 0 })

end Sys2Proof.Machine
end

