-- ==== Sys2Proof/Machine/Approx.lean ====
section
/-! DEFINITION. The approximated functions of chapter 08 (R192, R193, R204): exact cases and special values, and the bound
that the free value of `Config.approx` must keep. A value (n, e) stands for n · 2^e. -/

namespace Sys2Proof.Machine

/-! ## Enclosures: dyadic values close to the exact result -/

/-- Fraction bits of the fixed-point reckonings: of the element functions, and of LSE, whose result may lie near 0 (R382). -/
abbrev fxBits : Nat := 320
abbrev lseBits : Nat := 1500

/-- ln 2, log2 e and 2π with 1,600 fraction bits. -/
def bigLn2 : Nat := 0xB17217F7D1CF79ABC9E3B39803F2F6AF40F343267298B62D8A0D175B8BAAFA2BE7B876206DEBAC98559552FB4AFA1B10ED2EAE35C138214427573B291169B8253E96CA16224AE8C51ACBDA11317C387EB9EA9BC3B136603B256FA0EC7657F74B72CE87B19D6548CAF5DFA6BD38303248655FA1872F20E3A2DA2D97C50F3FD5C607F4CA11FB5BFB90610D30F88FE551A2EE569D6DFC1EFA157D2E23DE1400B39617460775DB8990E5C943E732B479CD33CCCC4E659393514C4C1A1E0BD1D6095D25669B333564A337
def bigLog2e : Nat := 0x171547652B82FE1777D0FFDA0D23A7D11D6AEF551BAD2B4B1164A2CD9A342648FBC3887EEAA2ED9AC49B25EEB82D7C167D52173CC1895213F897F5E06A7BE73665FC529264C2FB3AB643687AAF3AB440C16BD777E75050A8D1A39E8AF56C64A7833352906DEB692CE4F199E108CF392819CFC406B19ABB71EC25E11F75C6142E64CA16DA20B1D74A12C719098B4040CBE82351BD8BD422427231F9EE25BD0C470FE2464B892824C120F2D07DB43448B6BDD358165F1A2B3D8675F9EE1D8D19CE22ECE1D8E1CF2ED95
def bigTwoPi : Nat := 0x6487ED5110B4611A62633145C06E0E68948127044533E63A0105DF531D89CD9128A5043CC71A026EF7CA8CD9E69D218D98158536F92F8A1BA7F09AB6B6A8E122F242DABB312F3F637A262174D31BF6B585FFAE5B7A035BF6F71C35FDAD44CFD2D74F9208BE258FF324943328F6722D9EE1003E5C50B1DF82CC6D241B0E2AE9CD348B1FD47E9267AFC1B2AE91EE51D6CB0E3179AB1042A95DCF6A9483B84B4B36B3861AA7255E4C0278BA3604650C10BE19482F23171B671DF1CF3B960C074301CD93C1D17603D147D

/-- A constant of 1,600 fraction bits with `p` of them. -/
def fxOf (c p : Nat) : Nat := c >>> (1600 - p)

/-- Σ y^k/k! from term `t` of index `k`, `p` fraction bits. -/
def expSeries (p y : Nat) : Nat → Nat → Nat → Nat
  | 0, _, _ => 0
  | n + 1, k, t => t + expSeries p y n (k + 1) (t * y / 2 ^ p / (k + 1))

/-- 2^(f/2^p), `p` fraction bits. -/
def exp2Frac (p f : Nat) : Nat := expSeries p (f * fxOf bigLn2 p / 2 ^ p) (p / 5 + 10) 0 (2 ^ p)

/-- Fixed-point reading of (m, e) with `p` fraction bits, rounded toward -∞. -/
def toFx (p : Nat) (m : Int) (e : Int) : Int :=
  if -(p : Int) ≤ e then m * (2 ^ (e + p).toNat : Nat) else m.fdiv ((2 ^ (-(p : Int) - e).toNat : Nat) : Int)

/-- 2^x. -/
def exp2Val (neg : Bool) (m : Nat) (e : Int) : Int × Int :=
  let x := toFx fxBits (if neg then -(m : Int) else m) e
  let n := x.fdiv ((2 ^ fxBits : Nat) : Int)
  (exp2Frac fxBits (x - n * ((2 ^ fxBits : Nat) : Int)).toNat, n - fxBits)

/-- The first `n` fraction bits of log2 y, y in [1, 2) with `p` fraction bits. -/
def log2Bits (p : Nat) : Nat → Nat → Nat
  | 0, _ => 0
  | n + 1, y =>
    let y := y * y / 2 ^ p
    if 2 ^ (p + 1) ≤ y then 2 ^ n + log2Bits p n (y / 2) else log2Bits p n y

/-- log2 of m · 2^e, m not 0: `p` fraction bits. -/
def log2At (p m : Nat) (e : Int) : Int :=
  let k := Nat.log2 m
  ((k : Int) + e) * ((2 ^ p : Nat) : Int) + (log2Bits (p + 96) p ((m <<< (p + 96)) >>> k) : Nat)

def log2Val (m : Nat) (e : Int) : Int × Int := (log2At fxBits m e, -fxBits)

/-- Alternating series of sine and cosine: term `t` of index `k`, t2 the squared angle. -/
def trigSeries (t2 : Int) : Nat → Nat → Int → Int
  | 0, _, _ => 0
  | n + 1, k, t =>
    t + trigSeries t2 n (k + 2) (-(t * t2).fdiv (((2 ^ fxBits : Nat) : Int) * ((k + 1) * (k + 2) : Nat)))

/-- Sine (or cosine) of a phase in units of 2^-fxBits turn. -/
def trigVal (sin : Bool) (phase : Nat) : Int × Int :=
  let one : Int := (2 ^ fxBits : Nat)
  let ph : Int := if phase < 2 ^ (fxBits - 1) then (phase : Int) else (phase : Int) - one
  let a := (ph * (fxOf bigTwoPi fxBits : Int)).fdiv one
  let t2 := (a * a).fdiv one
  (if sin then trigSeries t2 60 1 a else trigSeries t2 60 0 one, -fxBits)

/-- 1 / (m · 2^e). -/
def rcpVal (m : Nat) (e : Int) : Int × Int :=
  let k := fxBits + Nat.log2 m
  let q : Nat := 2 ^ k / m
  ((q : Int), -(k : Int) - e)

/-- 1 / sqrt (m · 2^e). -/
def rsqVal (m : Nat) (e : Int) : Int × Int :=
  let k := 2 * fxBits + 2 * Nat.log2 m
  let m : Nat := if e % 2 = 0 then m else 2 * m
  let e : Int := if e % 2 = 0 then e else e - 1
  let x : Nat := 2 ^ k / m
  let r : Nat := isqrt x (Nat.log2 x / 2 + 1) 0
  ((r : Int), -((k : Int) + e) / 2)

/-- tanh of a magnitude, always below 1: x - x³/3 of a small one, else (1 - E) / (1 + E) with E = 2^(-2x log2 e). -/
def tanhVal (m : Nat) (e : Int) : Int × Int :=
  let top := (Nat.log2 m : Int) + e
  let one : Nat := 2 ^ fxBits
  if top < -64 then (((m <<< (64 - 2 * e).toNat : Nat) : Int) - (((m ^ 3) <<< 64) / 3 : Nat), 3 * e - 64)
  else if 7 < top then (((one - 1 : Nat) : Int), -fxBits)
  else
    let y : Nat := ((toFx fxBits (2 * m) e).toNat * fxOf bigLog2e fxBits) / one
    let ex : Nat := exp2Frac fxBits (one - y % one) >>> (y / one + 1)
    let t : Nat := ((one - ex) * one) / (one + ex)
    ((Nat.min t (one - 1) : Nat), -fxBits)

/-! ## The bound -/

/-- Sum of two dyadic values. -/
def dAdd (a b : Int × Int) : Int × Int :=
  let q := if a.2 ≤ b.2 then a.2 else b.2
  (a.1 * (2 ^ (a.2 - q).toNat : Nat) + b.1 * (2 ^ (b.2 - q).toNat : Nat), q)

/-- a ≤ b. -/
def dLe (a b : Int × Int) : Bool := decide ((dAdd b (-a.1, a.2)).1 ≥ 0)

/-- A finite value as a dyadic. -/
def FVal.dyadic : FVal → Option (Int × Int)
  | .fin n m e => some (if n then -(m : Int) else m, e)
  | _ => none

/-- |r - v| ≤ tol. -/
def within (r : FVal) (v tol : Int × Int) : Bool :=
  match r.dyadic with
  | some x => let d := dAdd x (-v.1, v.2); dLe (d.1.natAbs, d.2) tol
  | none => false

/-- An element's bits with F19's low bits cleared, NaN canonical and, under FZ, a subnormal as a zero of its sign. -/
def cleanF (f : Fmt) (fz : Bool) (bits : Nat) : Nat :=
  match readF f fz bits with
  | .nan _ => canonNan f
  | .inf n => infBits f n
  | .fin n m _ => if m = 0 then packF f n 0 0 else ((bits >>> f.low) % 2 ^ (1 + f.ew + f.mw)) <<< f.low

/-- The spacing of the format at a value. -/
def ulpAt (f : Fmt) (v : Int × Int) : Int :=
  let q := if v.1 = 0 then minQuantum f else freeQuantum f v.1.natAbs v.2
  if q < minQuantum f then minQuantum f else q

/-- An approximated result: the free value where it keeps the bound `tol` around the exact result and satisfies `ok`, else that rounded to
nearest. The exact result lies within 2^16 units of `x`, some 2^-300 of it, by which the test is narrower (log entry 7). NX always; UF
when the result is tiny. -/
def approxTo (f : Fmt) (v : FpEnv) (free : Nat) (x tol : Int × Int) (ok : FVal → Bool) : Nat × Nat :=
  let r := cleanF f false free
  let tol := dAdd tol (-(2 ^ 16), x.2)
  let d := decodeF f r
  if within d x tol && ok d then
    match d with
    | .fin n m _ => if m < 2 ^ f.mw then (if v.fz then packF f n 0 0 else r, flUF + flNX) else (r, flNX)
    | _ => (r, flNX)
  else
    let (b, fl) := roundF f { v with mode := rne } (decide (x.1 < 0)) x.1.natAbs x.2 true
    (b, fl ||| flNX)

/-- Within one unit in the last place of the exact result (R192). -/
def approxUlp (f : Fmt) (v : FpEnv) (free : Nat) (x : Int × Int) : Nat × Nat := approxTo f v free x (1, ulpAt f x) (fun _ => true)

/-! ## The functions (R193), of an element decoded by R180 -/

/-- The exponent k of a magnitude 2^k. -/
def pow2Of (m : Nat) (e : Int) : Option Int := if m = 2 ^ Nat.log2 m then some ((Nat.log2 m : Int) + e) else none

/-- A power of two as a result; exact unless the format does not hold it. -/
def pow2To (f : Fmt) (v : FpEnv) (neg : Bool) (k : Int) : Nat × Nat := roundF f { v with mode := rne } neg 1 k false

/-- A NaN result with NV. -/
def badF (f : Fmt) : Nat × Nat := (canonNan f, flNV)

def nanIn (f : Fmt) (s : Bool) : Nat × Nat := (canonNan f, if s then flNV else 0)

/-- FRCP. -/
def frcpEl (f : Fmt) (v : FpEnv) (free : Nat) : FVal → Nat × Nat
  | .nan s => nanIn f s
  | .inf n => (packF f n 0 0, 0)
  | .fin n m e =>
    if m = 0 then (infBits f n, flDZ)
    else match pow2Of m e with
      | some k => pow2To f v n (-k)
      | none => let x := rcpVal m e; approxUlp f v free (if n then -x.1 else x.1, x.2)

/-- FRSQ. -/
def frsqEl (f : Fmt) (v : FpEnv) (free : Nat) : FVal → Nat × Nat
  | .nan s => nanIn f s
  | .inf n => if n then badF f else (packF f false 0 0, 0)
  | .fin n m e =>
    if m = 0 then (infBits f n, flDZ)
    else if n then badF f
    else match pow2Of m e with
      | some k => if k % 2 = 0 then pow2To f v false (-k / 2) else approxUlp f v free (rsqVal m e)
      | none => approxUlp f v free (rsqVal m e)

/-- FEXP2. -/
def fexp2El (f : Fmt) (v : FpEnv) (free : Nat) : FVal → Nat × Nat
  | .nan s => nanIn f s
  | .inf n => if n then (packF f false 0 0, 0) else (infBits f false, 0)
  | .fin n m e =>
    if m = 0 then pow2To f v false 0
    else if 15 < (Nat.log2 m : Int) + e then pow2To f v false (if n then -5000 else 5000)
    else if 0 ≤ e ∨ m % 2 ^ (-e).toNat = 0 then
      let k : Int := if 0 ≤ e then (m <<< e.toNat : Nat) else (m >>> (-e).toNat : Nat)
      pow2To f v false (if n then -k else k)
    else approxUlp f v free (exp2Val n m e)

/-- FLOG2. -/
def flog2El (f : Fmt) (v : FpEnv) (free : Nat) : FVal → Nat × Nat
  | .nan s => nanIn f s
  | .inf n => if n then badF f else (infBits f false, 0)
  | .fin n m e =>
    if m = 0 then (infBits f true, flDZ)
    else if n then badF f
    else match pow2Of m e with
      | some k => roundF f { v with mode := rne } (decide (k < 0)) k.natAbs 0 false
      | none => approxUlp f v free (log2Val m e)

/-- The phase of m · 2^e turns, in units of 2^-fxBits turn. -/
def phaseOf (neg : Bool) (m : Nat) (e : Int) : Nat := wrap fxBits (toFx fxBits (if neg then -(m : Int) else m) e)

/-- FSIN and FCOS of a finite nonzero argument in turns. -/
def trigEl (f : Fmt) (v : FpEnv) (free : Nat) (sin : Bool) (neg : Bool) (m : Nat) (e : Int) : Nat × Nat :=
  let p := phaseOf neg m e
  if -2 ≤ e ∨ m % 2 ^ (-2 - e).toNat = 0 then
    let q := (p / 2 ^ (fxBits - 2) + (if sin then 0 else 1)) % 4
    (if q % 2 = 0 then packF f false 0 0 else packF f (decide (q = 3)) f.bias 0, 0)
  else
    let x := trigVal sin p
    let tol : Int × Int := if f.w = 32 then (1, -22) else dAdd (1, -22) (1, ulpAt f x - 1)
    approxTo f v free x tol (fun _ => true)

/-- FSIN. -/
def fsinEl (f : Fmt) (v : FpEnv) (free : Nat) : FVal → Nat × Nat
  | .nan s => nanIn f s
  | .inf _ => badF f
  | .fin n m e => if m = 0 then (packF f n 0 0, 0) else trigEl f v free true n m e

/-- FCOS. -/
def fcosEl (f : Fmt) (v : FpEnv) (free : Nat) : FVal → Nat × Nat
  | .nan s => nanIn f s
  | .inf _ => badF f
  | .fin n m e => if m = 0 then pow2To f v false 0 else trigEl f v free false n m e

/-- FTANH. -/
def ftanhEl (f : Fmt) (v : FpEnv) (free : Nat) : FVal → Nat × Nat
  | .nan s => nanIn f s
  | .inf n => (packF f n f.bias 0, 0)
  | .fin n m e =>
    if m < 2 ^ f.mw then roundF f { v with mode := rne } n m e false
    else
      let x := tanhVal m e
      approxTo f v free (if n then -x.1 else x.1, x.2) (1, ulpAt f x)
        (fun d => match d.dyadic with | some y => dLe (y.1.natAbs, y.2) (1, 0) | none => false)

/-! ## Rotation (R204) -/

/-- Cosine or sine of a phase in units of 2^-32 turn: exact at quarter turns (R193), else the free value where it lies within
2^-22 of the exact one. -/
def ropeCs (sin : Bool) (phi : Nat) : FVal :=
  if phi % 2 ^ 30 = 0 then
    let q := (phi / 2 ^ 30 + (if sin then 0 else 1)) % 4
    if q % 2 = 0 then .fin false 0 0 else .fin (decide (q = 3)) 1 0
  else
    let x := trigVal sin (phi * 2 ^ (fxBits - 32))
    let (n, k) := Config.ropeTrig phi sin
    let y : FVal := .fin (decide (n < 0)) n.natAbs (-(k : Int))
    if within y x (dAdd (1, -22) (-(2 ^ 16), x.2)) then y else .fin (decide (x.1 < 0)) x.1.natAbs x.2

end Sys2Proof.Machine
end

