-- ==== Sys2Proof/Machine/Integer.lean ====
section
/-! DEFINITION. Integer, address and predicate operations: chapter 07 (R163 to R178). -/

namespace Sys2Proof.Machine

/-! ## Type classes (R163) -/

/-- The bit class. -/
def bitTy (ty : Nat) : Bool := decide (ty ≤ 0x0F ∨ ty = 0x13 ∨ ty = 0x14)

/-- The dot class. -/
def dotTy (ty : Nat) : Bool := [0x11, 0x12, 0x00, 0x01, 0x02, 0x03].contains ty

/-- ext(x) of R164. -/
def extTy (ty w x : Nat) : Int := if tySigned ty then sext w x else ((x % 2 ^ w : Nat) : Int)

/-- The element width and signedness that an operation is given, from TY. -/
structure Elt where
  w : Nat
  sg : Bool
  deriving DecidableEq, Repr

def eltOf (t : TailV) : Elt := { w := tyBits t.ty.toNat, sg := tySigned t.ty.toNat }

/-- An element as an integer. -/
def Elt.ext (e : Elt) (x : Nat) : Int := if e.sg then sext e.w x else ((x % 2 ^ e.w : Nat) : Int)

/-- A result clamped to the type's range. -/
def Elt.clamp (e : Elt) (x : Int) : Nat := wrap e.w (clampInt e.w e.sg x).1

/-! ## The element loop (R164) -/

/-- Legality of a packed form V instruction with groups D, B and, when `c` is set, C; function bits under `fm`. -/
def packedLegal (d : BitVec 7) (t : TailV) (cls : Nat → Bool) (c : Bool) (fm : Nat) : Bool :=
  vOnly t true c true true true fm && cls t.ty.toNat && grpOk t.sh d && grpOk t.sh t.b && (!c || grpOk t.sh t.c)

/-- What a packed instruction of groups D, B (and C) uses. -/
def packedUse (d : BitVec 7) (t : TailV) (cls : Nat → Bool) (c : Bool) (fm : Nat) (old : Bool) : Use :=
  { legal := packedLegal d t cls c fm
    regs := [grp t.sh d, grp t.sh t.b] ++ (if c then [grp t.sh t.c] else [])
    srcs := grpList t.sh t.b ++ (if c then grpList t.sh t.c else []) ++ (if old then grpList t.sh d else [])
    look := vLook d t (tyBits t.ty.toNat) }

/-- Runs a packed instruction: r[i] := f(b[i], c[i], d_old[i]) over the elements of the shape. -/
def packedRun (u : Use) (d : BitVec 7) (t : TailV) (c old : Bool) (f : Elt → Nat → Nat → Nat → Nat) (s : State) :
    Host.Outcome State Fault Refusal :=
  multiSet (shRegs t.sh.toNat) u (fun e a => do
    let k := eltOf t
    let b ← grpRead a e.ix t.sh t.b
    let cv ← if c then grpRead a e.ix t.sh t.c else pure 0
    let o ← if old then grpRead a e.ix t.sh d else pure 0
    let n := shElems t.sh.toNat k.w
    let r := elems k.w (fun i => f k (elem b k.w i) (elem cv k.w i) (elem o k.w i)) n
    pure (grpWrite a e.ix t.sh d k.w (predOf a (a.ctx e.ix) t) t.pn r)) s

/-! ## Binary arithmetic and logic (R165, R166) -/

/-- The form V tail a form S tail stands for (R56). -/
def tailSV (t : TailS) : TailV :=
  { b := t.b, c := t.c, ty := if t.w.getLsbD 0 then 0x06 else 0x04, sh := if t.w.getLsbD 1 then 1 else 0,
    p := 0, pn := false, f := 0 }

def useBin (d : BitVec 7) (t : TailV) (cls : Nat → Bool) (fm : Nat) : Use := packedUse d t cls true fm false

/-- A binary instruction without function bits. -/
def binRun (cls : Nat → Bool) (f : Elt → Nat → Nat → Nat) (d : BitVec 7) (t : TailV) (s : State) :
    Host.Outcome State Fault Refusal :=
  packedRun (useBin d t cls 0) d t true false (fun k b c _ => f k b c) s

/-- x + y or x - y, clamped with SAT. -/
def addOp (sub sat : Bool) (k : Elt) (b c : Nat) : Nat :=
  let r := if sub then k.ext b - k.ext c else k.ext b + k.ext c
  if sat then k.clamp r else wrap k.w r

/-- ADD and SUB, with SAT in F[0]. -/
def addRun (sub : Bool) (d : BitVec 7) (t : TailV) (s : State) : Host.Outcome State Fault Refusal :=
  packedRun (useBin d t isInt 1) d t true false (fun k b c _ => addOp sub (t.f.getLsbD 0) k b c) s

def mulOp (k : Elt) (b c : Nat) : Nat := wrap k.w (k.ext b * k.ext c)
def mulhOp (k : Elt) (b c : Nat) : Nat := wrap k.w ((k.ext b * k.ext c).fdiv ((2 ^ k.w : Nat) : Int))

/-- DIV of R44: truncating; division by zero gives all ones, the signed minimum by -1 itself. -/
def divOp (k : Elt) (b c : Nat) : Nat :=
  if k.ext c = 0 then 2 ^ k.w - 1 else wrap k.w ((k.ext b).tdiv (k.ext c))

/-- REM of R44: the remainder of zero divisors is the dividend. -/
def remOp (k : Elt) (b c : Nat) : Nat :=
  if k.ext c = 0 then b else wrap k.w ((k.ext b).tmod (k.ext c))

def andOp (_ : Elt) (b c : Nat) : Nat := b &&& c
def orOp (_ : Elt) (b c : Nat) : Nat := b ||| c
def xorOp (_ : Elt) (b c : Nat) : Nat := b ^^^ c
def andnOp (k : Elt) (b c : Nat) : Nat := b &&& (2 ^ k.w - 1 - c)
def minOp (k : Elt) (b c : Nat) : Nat := if k.ext b ≤ k.ext c then b else c
def maxOp (k : Elt) (b c : Nat) : Nat := if k.ext b ≤ k.ext c then c else b

/-- The shifts, by `n` below the width. -/
def shlOp (k : Elt) (b n : Nat) : Nat := b * 2 ^ n % 2 ^ k.w
def shrOp (_ : Elt) (b n : Nat) : Nat := b >>> n
def sraOp (k : Elt) (b n : Nat) : Nat := wrap k.w ((sext k.w b).fdiv ((2 ^ n : Nat) : Int))
def rotOp (k : Elt) (b n : Nat) : Nat := (b * 2 ^ n + b >>> (k.w - n)) % 2 ^ k.w

def useShift (d : BitVec 7) (t : TailV) : Use :=
  if t.f.getLsbD 0 then
    let u := packedUse d { t with c := 0 } isInt false 1 false
    u
  else packedUse d t isInt true 1 false

/-- A shift: the count is C's element, or C itself with IMM, modulo the width. -/
def shiftRun (f : Elt → Nat → Nat → Nat) (d : BitVec 7) (t : TailV) (s : State) : Host.Outcome State Fault Refusal :=
  if t.f.getLsbD 0 then
    packedRun (useShift d t) d t false false (fun k b _ _ => f k b (t.c.toNat % k.w)) s
  else packedRun (useShift d t) d t true false (fun k b c _ => f k b (c % k.w)) s

def useAddS (d : BitVec 7) (t : TailS) : Use := useBin d (tailSV t) isInt 1
/-- ADD, form S (R56). -/
def execAddS (d : BitVec 7) (t : TailS) (s : State) : Host.Outcome State Fault Refusal := addRun false d (tailSV t) s

def useAddV (d : BitVec 7) (t : TailV) : Use := useBin d t isInt 1
/-- ADD, form V (R166). -/
def execAddV (d : BitVec 7) (t : TailV) (s : State) : Host.Outcome State Fault Refusal := addRun false d t s

def useSubS (d : BitVec 7) (t : TailS) : Use := useBin d (tailSV t) isInt 1
/-- SUB, form S (R56). -/
def execSubS (d : BitVec 7) (t : TailS) (s : State) : Host.Outcome State Fault Refusal := addRun true d (tailSV t) s

def useSubV (d : BitVec 7) (t : TailV) : Use := useBin d t isInt 1
/-- SUB, form V (R166). -/
def execSubV (d : BitVec 7) (t : TailV) (s : State) : Host.Outcome State Fault Refusal := addRun true d t s

def useMulS (d : BitVec 7) (t : TailS) : Use := useBin d (tailSV t) isInt 0
/-- MUL, form S (R56). -/
def execMulS (d : BitVec 7) (t : TailS) (s : State) : Host.Outcome State Fault Refusal := binRun isInt mulOp d (tailSV t) s

def useMulV (d : BitVec 7) (t : TailV) : Use := useBin d t isInt 0
/-- MUL, form V (R166). -/
def execMulV (d : BitVec 7) (t : TailV) (s : State) : Host.Outcome State Fault Refusal := binRun isInt mulOp d t s

def useMulhS (d : BitVec 7) (t : TailS) : Use := useBin d (tailSV t) isInt 0
/-- MULH, form S (R56). -/
def execMulhS (d : BitVec 7) (t : TailS) (s : State) : Host.Outcome State Fault Refusal := binRun isInt mulhOp d (tailSV t) s

def useMulhV (d : BitVec 7) (t : TailV) : Use := useBin d t isInt 0
/-- MULH, form V (R166). -/
def execMulhV (d : BitVec 7) (t : TailV) (s : State) : Host.Outcome State Fault Refusal := binRun isInt mulhOp d t s

def useDivS (d : BitVec 7) (t : TailS) : Use := useBin d (tailSV t) isInt 0
/-- DIV, form S (R56). -/
def execDivS (d : BitVec 7) (t : TailS) (s : State) : Host.Outcome State Fault Refusal := binRun isInt divOp d (tailSV t) s

def useDivV (d : BitVec 7) (t : TailV) : Use := useBin d t isInt 0
/-- DIV, form V (R166). -/
def execDivV (d : BitVec 7) (t : TailV) (s : State) : Host.Outcome State Fault Refusal := binRun isInt divOp d t s

def useRemS (d : BitVec 7) (t : TailS) : Use := useBin d (tailSV t) isInt 0
/-- REM, form S (R56). -/
def execRemS (d : BitVec 7) (t : TailS) (s : State) : Host.Outcome State Fault Refusal := binRun isInt remOp d (tailSV t) s

def useRemV (d : BitVec 7) (t : TailV) : Use := useBin d t isInt 0
/-- REM, form V (R166). -/
def execRemV (d : BitVec 7) (t : TailV) (s : State) : Host.Outcome State Fault Refusal := binRun isInt remOp d t s

def useAndS (d : BitVec 7) (t : TailS) : Use := useBin d (tailSV t) bitTy 0
/-- AND, form S (R56). -/
def execAndS (d : BitVec 7) (t : TailS) (s : State) : Host.Outcome State Fault Refusal := binRun bitTy andOp d (tailSV t) s

def useAndV (d : BitVec 7) (t : TailV) : Use := useBin d t bitTy 0
/-- AND, form V (R166). -/
def execAndV (d : BitVec 7) (t : TailV) (s : State) : Host.Outcome State Fault Refusal := binRun bitTy andOp d t s

def useOrS (d : BitVec 7) (t : TailS) : Use := useBin d (tailSV t) bitTy 0
/-- OR, form S (R56). -/
def execOrS (d : BitVec 7) (t : TailS) (s : State) : Host.Outcome State Fault Refusal := binRun bitTy orOp d (tailSV t) s

def useOrV (d : BitVec 7) (t : TailV) : Use := useBin d t bitTy 0
/-- OR, form V (R166). -/
def execOrV (d : BitVec 7) (t : TailV) (s : State) : Host.Outcome State Fault Refusal := binRun bitTy orOp d t s

def useXorS (d : BitVec 7) (t : TailS) : Use := useBin d (tailSV t) bitTy 0
/-- XOR, form S (R56). -/
def execXorS (d : BitVec 7) (t : TailS) (s : State) : Host.Outcome State Fault Refusal := binRun bitTy xorOp d (tailSV t) s

def useXorV (d : BitVec 7) (t : TailV) : Use := useBin d t bitTy 0
/-- XOR, form V (R166). -/
def execXorV (d : BitVec 7) (t : TailV) (s : State) : Host.Outcome State Fault Refusal := binRun bitTy xorOp d t s

def useAndnS (d : BitVec 7) (t : TailS) : Use := useBin d (tailSV t) bitTy 0
/-- ANDN, form S (R56). -/
def execAndnS (d : BitVec 7) (t : TailS) (s : State) : Host.Outcome State Fault Refusal := binRun bitTy andnOp d (tailSV t) s

def useAndnV (d : BitVec 7) (t : TailV) : Use := useBin d t bitTy 0
/-- ANDN, form V (R166). -/
def execAndnV (d : BitVec 7) (t : TailV) (s : State) : Host.Outcome State Fault Refusal := binRun bitTy andnOp d t s

def useShlS (d : BitVec 7) (t : TailS) : Use := useShift d (tailSV t)
/-- SHL, form S (R56). -/
def execShlS (d : BitVec 7) (t : TailS) (s : State) : Host.Outcome State Fault Refusal := shiftRun shlOp d (tailSV t) s

def useShlV (d : BitVec 7) (t : TailV) : Use := useShift d t
/-- SHL, form V (R166). -/
def execShlV (d : BitVec 7) (t : TailV) (s : State) : Host.Outcome State Fault Refusal := shiftRun shlOp d t s

def useShrS (d : BitVec 7) (t : TailS) : Use := useShift d (tailSV t)
/-- SHR, form S (R56). -/
def execShrS (d : BitVec 7) (t : TailS) (s : State) : Host.Outcome State Fault Refusal := shiftRun shrOp d (tailSV t) s

def useShrV (d : BitVec 7) (t : TailV) : Use := useShift d t
/-- SHR, form V (R166). -/
def execShrV (d : BitVec 7) (t : TailV) (s : State) : Host.Outcome State Fault Refusal := shiftRun shrOp d t s

def useSraS (d : BitVec 7) (t : TailS) : Use := useShift d (tailSV t)
/-- SRA, form S (R56). -/
def execSraS (d : BitVec 7) (t : TailS) (s : State) : Host.Outcome State Fault Refusal := shiftRun sraOp d (tailSV t) s

def useSraV (d : BitVec 7) (t : TailV) : Use := useShift d t
/-- SRA, form V (R166). -/
def execSraV (d : BitVec 7) (t : TailV) (s : State) : Host.Outcome State Fault Refusal := shiftRun sraOp d t s

def useRotS (d : BitVec 7) (t : TailS) : Use := useShift d (tailSV t)
/-- ROT, form S (R56). -/
def execRotS (d : BitVec 7) (t : TailS) (s : State) : Host.Outcome State Fault Refusal := shiftRun rotOp d (tailSV t) s

def useRotV (d : BitVec 7) (t : TailV) : Use := useShift d t
/-- ROT, form V (R166). -/
def execRotV (d : BitVec 7) (t : TailV) (s : State) : Host.Outcome State Fault Refusal := shiftRun rotOp d t s

def useMinS (d : BitVec 7) (t : TailS) : Use := useBin d (tailSV t) isInt 0
/-- MIN, form S (R56). -/
def execMinS (d : BitVec 7) (t : TailS) (s : State) : Host.Outcome State Fault Refusal := binRun isInt minOp d (tailSV t) s

def useMinV (d : BitVec 7) (t : TailV) : Use := useBin d t isInt 0
/-- MIN, form V (R166). -/
def execMinV (d : BitVec 7) (t : TailV) (s : State) : Host.Outcome State Fault Refusal := binRun isInt minOp d t s

def useMaxS (d : BitVec 7) (t : TailS) : Use := useBin d (tailSV t) isInt 0
/-- MAX, form S (R56). -/
def execMaxS (d : BitVec 7) (t : TailS) (s : State) : Host.Outcome State Fault Refusal := binRun isInt maxOp d (tailSV t) s

def useMaxV (d : BitVec 7) (t : TailV) : Use := useBin d t isInt 0
/-- MAX, form V (R166). -/
def execMaxV (d : BitVec 7) (t : TailV) (s : State) : Host.Outcome State Fault Refusal := binRun isInt maxOp d t s

/-! ## Unary operations (R167) -/

/-- ABS accepts signed types only. -/
def signedInt (ty : Nat) : Bool := isInt ty && tySigned ty

def useUn (d : BitVec 7) (t : TailV) (cls : Nat → Bool) (fm : Nat) : Use := packedUse d t cls false fm false

def useAbs (d : BitVec 7) (t : TailV) : Use := useUn d t signedInt 1
/-- ABS. -/
def execAbs (d : BitVec 7) (t : TailV) (s : State) : Host.Outcome State Fault Refusal :=
  packedRun (useAbs d t) d t false false (fun k b _ _ =>
    let x : Int := (k.ext b).natAbs
    if t.f.getLsbD 0 then k.clamp x else wrap k.w x) s

def useNeg (d : BitVec 7) (t : TailV) : Use := useUn d t isInt 1
/-- NEG. -/
def execNeg (d : BitVec 7) (t : TailV) (s : State) : Host.Outcome State Fault Refusal :=
  packedRun (useNeg d t) d t false false (fun k b _ _ =>
    if t.f.getLsbD 0 then k.clamp (- k.ext b) else wrap k.w (- k.ext b)) s

/-- The number of leading zero bits among the low `w`. -/
def clzBits (b : Nat) : Nat → Nat
  | 0 => 0
  | w + 1 => if b.testBit w then 0 else 1 + clzBits b w

/-- The number of trailing zero bits among the low `w`. -/
def ctzBits (b : Nat) : Nat → Nat
  | 0 => 0
  | w + 1 => if b % 2 = 1 then 0 else 1 + ctzBits (b / 2) w

/-- The number of one bits among the low `w`. -/
def popBits (b : Nat) : Nat → Nat
  | 0 => 0
  | w + 1 => b % 2 + popBits (b / 2) w

def useClz (d : BitVec 7) (t : TailV) : Use := useUn d t isInt 1
/-- CLZ, with TZ from the other end. -/
def execClz (d : BitVec 7) (t : TailV) (s : State) : Host.Outcome State Fault Refusal :=
  packedRun (useClz d t) d t false false (fun k b _ _ => if t.f.getLsbD 0 then ctzBits b k.w else clzBits b k.w) s

def usePopc (d : BitVec 7) (t : TailV) : Use := useUn d t isInt 0
/-- POPC. -/
def execPopc (d : BitVec 7) (t : TailV) (s : State) : Host.Outcome State Fault Refusal :=
  packedRun (usePopc d t) d t false false (fun k b _ _ => popBits b k.w) s

/-! ## Compare and select (R168, R169) -/

/-- A predicate result: the bits of enabled elements set to the outcomes, of disabled ones kept, beyond the span cleared. -/
def predBits (pred : Nat) (pn : Bool) (w old : Nat) (out : Nat → Bool) : Nat → Nat
  | 0 => 0
  | n + 1 =>
    let es := w / 8
    let bits := if elemOn pred pn w n then (if out n then 2 ^ es - 1 else 0) else elem old es n
    predBits pred pn w old out n + bits * 2 ^ (es * n)

/-- Writes the outcomes of `n` elements to predicate register `d`; SH 0 with element 0 disabled writes nothing. -/
def cmpWrite (a : SetState) (ix : Nat) (t : TailV) (d w n : Nat) (out : Nat → Bool) : SetState :=
  let x := a.ctx ix
  let pred := predOf a x t
  if t.sh = 0 ∧ ¬elemOn pred t.pn w 0 then a
  else predWrite a ix d (predBits pred t.pn w (predRead a x d) out n)

/-- The conditions of CMP. -/
def cmpCond (cc : Nat) (k : Elt) (b c : Nat) : Bool :=
  let x := k.ext b
  let y := k.ext c
  match cc with
  | 0 => decide (b = c)
  | 1 => decide (b ≠ c)
  | 2 => decide (x < y)
  | 3 => decide (y ≤ x)
  | 4 => decide (x ≤ y)
  | 5 => decide (y < x)
  | _ => decide (b &&& c ≠ 0)

def useCmp (d : BitVec 7) (t : TailV) : Use :=
  { legal := vOnly t true true true true true 7 && isInt t.ty.toNat && grpOk t.sh t.b && grpOk t.sh t.c && d.toNat < 8 &&
             decide (t.f ≠ 7)
    regs := [grp t.sh t.b, grp t.sh t.c], srcs := grpList t.sh t.b ++ grpList t.sh t.c
    look := fun _ x => predGran x t.p.toNat ++ predGran x d.toNat }

/-- CMP (R168). -/
def execCmp (d : BitVec 7) (t : TailV) (s : State) : Host.Outcome State Fault Refusal :=
  multiSet (shRegs t.sh.toNat) (useCmp d t) (fun e a => do
    let k := eltOf t
    let b ← grpRead a e.ix t.sh t.b
    let c ← grpRead a e.ix t.sh t.c
    pure (cmpWrite a e.ix t d.toNat k.w (shElems t.sh.toNat k.w)
      (fun i => cmpCond t.f.toNat k (elem b k.w i) (elem c k.w i)))) s

def useSel (d : BitVec 7) (t : TailV) : Use := packedUse d t bitTy true 7 false

/-- SEL (R169): pS is F[2:0], read at issue. -/
def execSel (d : BitVec 7) (t : TailV) (s : State) : Host.Outcome State Fault Refusal :=
  multiSet (shRegs t.sh.toNat) (useSel d t) (fun e a => do
    let w := tyBits t.ty.toNat
    let x := a.ctx e.ix
    let b ← grpRead a e.ix t.sh t.b
    let c ← grpRead a e.ix t.sh t.c
    let ps := predRead a x (t.f.toNat % 8)
    let r := elems w (fun i => if ps.testBit (i * w / 8) then elem b w i else elem c w i) (shElems t.sh.toNat w)
    pure (grpWrite a e.ix t.sh d w (predOf a x t) t.pn r)) s

/-! ## Immediates and addresses (R170, R171) -/

def useAddi (d : BitVec 7) (t : TailI) : Use :=
  { legal := true, regs := [(d.toNat, 1), (t.b.toNat, 1)], srcs := [t.b.toNat] }

/-- ADDI. -/
def execAddi (d : BitVec 7) (t : TailI) (s : State) : Host.Outcome State Fault Refusal :=
  setRun (useAddi d t) (fun e a => do
    let b ← regRead a e.ix t.b.toNat
    pure (regWrite a e.ix d.toNat (wrap 64 ((fld b 63 0 : Int) + sext 25 t.imm.toNat)) allBytes)) s

def useMovi (d : BitVec 7) : Use := { legal := true, regs := [(d.toNat, 1)] }

/-- MOVI. -/
def execMovi (d : BitVec 7) (imm : BitVec 32) (s : State) : Host.Outcome State Fault Refusal :=
  setRun (useMovi d) (fun e a => .ok (regWrite a e.ix d.toNat imm.toNat allBytes)) s

def useMovq (d : BitVec 7) : Use := { legal := true, regs := [(d.toNat, 1)] }

/-- MOVQ. -/
def execMovq (d : BitVec 7) (imm : BitVec 64) (s : State) : Host.Outcome State Fault Refusal :=
  setRun (useMovq d) (fun e a => .ok (regWrite a e.ix d.toNat imm.toNat allBytes)) s

def useLea (d : BitVec 7) (t : TailV) : Use :=
  { legal := vOnly t true true true false true 7 && isInt t.ty.toNat
    regs := [(d.toNat, 1), (t.b.toNat, 1), (t.c.toNat, 1)], srcs := [t.b.toNat, t.c.toNat] }

/-- LEA (R171). -/
def execLea (d : BitVec 7) (t : TailV) (s : State) : Host.Outcome State Fault Refusal :=
  setRun (useLea d t) (fun e a => do
    let k := eltOf t
    let b ← regRead a e.ix t.b.toNat
    let c ← regRead a e.ix t.c.toNat
    if enabled a (a.ctx e.ix) t.p t.pn 0 then
      pure (regWrite a e.ix d.toNat
        (wrap 64 ((fld b 63 0 : Int) + k.ext (elem c.toNat k.w 0) * ((2 ^ (t.f.toNat % 8) : Nat) : Int))) allBytes)
    else pure a) s

/-! ## Bit fields (R172) -/

def useField (d : BitVec 7) (t : TailV) (old : Bool) : Use :=
  { legal := vOnly t true true true true true 0 && isInt t.ty.toNat && grpOk t.sh d && grpOk t.sh t.b
    regs := [grp t.sh d, grp t.sh t.b, (t.c.toNat, 1)]
    srcs := t.c.toNat :: (grpList t.sh t.b ++ (if old then grpList t.sh d else []))
    look := vLook d t (tyBits t.ty.toNat) }

/-- BEXT of one element. -/
def bextOp (k : Elt) (pos len b : Nat) : Nat :=
  let len := Nat.min len k.w
  if len = 0 then 0
  else
    let f := wrap len ((k.ext b).fdiv ((2 ^ pos : Nat) : Int))
    if k.sg then wrap k.w (sext len f) else f

/-- BINS of one element. -/
def binsOp (k : Elt) (pos len b old : Nat) : Nat :=
  let len := Nat.min len k.w
  let m := (2 ^ len - 1) * 2 ^ pos % 2 ^ k.w
  (old &&& (2 ^ k.w - 1 - m)) ||| (b * 2 ^ pos &&& m)

/-- BEXT and BINS: the control register gives POS and LEN. -/
def fieldRun (u : Use) (d : BitVec 7) (t : TailV) (old : Bool) (f : Elt → Nat → Nat → Nat → Nat → Nat) (s : State) :
    Host.Outcome State Fault Refusal :=
  multiSet (shRegs t.sh.toNat) u (fun e a => do
    let k := eltOf t
    let b ← grpRead a e.ix t.sh t.b
    let c ← regRead a e.ix t.c.toNat
    let o ← if old then grpRead a e.ix t.sh d else pure 0
    let r := elems k.w (fun i => f k (fld c 6 0) (fld c 14 8) (elem b k.w i) (elem o k.w i)) (shElems t.sh.toNat k.w)
    pure (grpWrite a e.ix t.sh d k.w (predOf a (a.ctx e.ix) t) t.pn r)) s

def useBext (d : BitVec 7) (t : TailV) : Use := useField d t false
/-- BEXT. -/
def execBext (d : BitVec 7) (t : TailV) (s : State) : Host.Outcome State Fault Refusal :=
  fieldRun (useBext d t) d t false (fun k pos len b _ => bextOp k pos len b) s

def useBins (d : BitVec 7) (t : TailV) : Use := useField d t true
/-- BINS. -/
def execBins (d : BitVec 7) (t : TailV) (s : State) : Host.Outcome State Fault Refusal :=
  fieldRun (useBins d t) d t true binsOp s

/-! ## MADD, DOTI, SATN, SHUF (R173 to R176) -/

def useMadd (d : BitVec 7) (t : TailV) : Use := packedUse d t isInt true 0 true
/-- MADD. -/
def execMadd (d : BitVec 7) (t : TailV) (s : State) : Host.Outcome State Fault Refusal :=
  packedRun (useMadd d t) d t true true (fun k b c o => (o + b * c) % 2 ^ k.w) s

/-- Lane width of DOTI. -/
def dotLane (ty : Nat) : Nat := if ty = 2 ∨ ty = 3 then 64 else 32

/-- The exact sum of the products of lane `j`: `n` of them from element `i`. -/
def dotSum (sb sc : Bool) (w b c : Nat) (i : Nat) : Nat → Int
  | 0 => 0
  | n + 1 =>
    let x : Int := if sb then sext w (elem b w i) else (elem b w i : Nat)
    let y : Int := if sc then sext w (elem c w i) else (elem c w i : Nat)
    x * y + dotSum sb sc w b c (i + 1) n

def useDoti (d : BitVec 7) (t : TailV) : Use := packedUse d t dotTy true 1 true
/-- DOTI: every step wraps, so the tree of R43 gives the exact sum modulo the lane width. -/
def execDoti (d : BitVec 7) (t : TailV) (s : State) : Host.Outcome State Fault Refusal :=
  multiSet (shRegs t.sh.toNat) (useDoti d t) (fun e a => do
    let ty := t.ty.toNat
    let w := tyBits ty
    let wa := dotLane ty
    let n := wa / w
    let sg := tySigned ty
    let b ← grpRead a e.ix t.sh t.b
    let c ← grpRead a e.ix t.sh t.c
    let o ← grpRead a e.ix t.sh d
    let sc := if t.f.getLsbD 0 then !sg else sg
    let r := elems wa (fun j => wrap wa ((elem o wa j : Int) + dotSum sg sc w b c (j * n) n)) (shElems t.sh.toNat wa)
    pure (grpWrite a e.ix t.sh d wa (predOf a (a.ctx e.ix) t) t.pn r)) s

/-- SATN accepts SI16 to UI64. -/
def satnTy (ty : Nat) : Bool := decide (2 ≤ ty ∧ ty ≤ 7)

def useSatn (d : BitVec 7) (t : TailV) : Use := useUn d t satnTy 127

/-- SATN of one element: the rounding shift, then the clamp to the half-width target. -/
def satnOp (k : Elt) (u : Bool) (n b : Nat) : Nat :=
  let x := k.ext b
  let x := if n = 0 then x else (x + ((2 ^ (n - 1) : Nat) : Int)).fdiv ((2 ^ n : Nat) : Int)
  wrap (k.w / 2) (clampInt (k.w / 2) (k.sg && !u) x).1

/-- SATN (R175): with SH 1 to 3 the upper half of the span is written as zero. -/
def execSatn (d : BitVec 7) (t : TailV) (s : State) : Host.Outcome State Fault Refusal :=
  multiSet (shRegs t.sh.toNat) (useSatn d t) (fun e a => do
    let k := eltOf t
    let pred := predOf a (a.ctx e.ix) t
    let b ← grpRead a e.ix t.sh t.b
    let n := shElems t.sh.toNat k.w
    let h := k.w / 2
    let r := elems h (fun i => satnOp k (t.f.getLsbD 0) (t.f.toNat / 2) (elem b k.w i)) n
    if t.sh = 0 then pure (grpWrite a e.ix t.sh d h pred t.pn r)
    else
      let half := shBytes t.sh.toNat / 2
      let m := enMask pred t.pn (elemBytes h) half + (2 ^ half - 1) * 2 ^ half
      pure (regsWrite a e.ix d.toNat r m (shRegs t.sh.toNat))) s

def useShuf (d : BitVec 7) (t : TailV) : Use :=
  let u := packedUse d t bitTy true 0 false
  { u with legal := u.legal && t.sh ≠ 0 }

/-- SHUF. -/
def execShuf (d : BitVec 7) (t : TailV) (s : State) : Host.Outcome State Fault Refusal :=
  multiSet (shRegs t.sh.toNat) (useShuf d t) (fun e a => do
    let w := tyBits t.ty.toNat
    let b ← grpRead a e.ix t.sh t.b
    let c ← grpRead a e.ix t.sh t.c
    let n := shElems t.sh.toNat w
    let r := elems w (fun i => let x := elem c w i; if x.testBit (w - 1) then 0 else elem b w (x % n)) n
    pure (grpWrite a e.ix t.sh d w (predOf a (a.ctx e.ix) t) t.pn r)) s

end Sys2Proof.Machine
end

