-- ==== Sys2Proof/Machine/Float.lean ====
section
/-! DEFINITION. Floating-point and special functions: chapter 08 (R179 to R206), apart from FCVT and RAND, which may draw from
a stream. -/

namespace Sys2Proof.Machine

/-! ## Type classes and %fpc (R37, R179, R180) -/

def floatTy (ty : Nat) : Bool := [0x08, 0x09, 0x13, 0x0A, 0x0B].contains ty
def shortTy (ty : Nat) : Bool := [0x09, 0x13, 0x0A, 0x0B].contains ty
def narrowTy (ty : Nat) : Bool := decide (0x0C ≤ ty ∧ ty ≤ 0x10)
def blockTy (ty : Nat) : Bool := narrowTy ty || ty = 0 || ty = 0x11
/-- F32, F16, BF16: the sources of QNT and targets of DQNT. -/
def quantTy (ty : Nat) : Bool := [0x09, 0x0A, 0x0B].contains ty

/-- The format of a floating TY. -/
def fmtTy (ty : Nat) : Fmt := (fmtOf ty).getD fmtF32

/-- Fields of %fpc. -/
def fpcRm (v : BitVec 11) : Nat := fld v 8 7
def fpcSatm (v : BitVec 11) : Bool := bit v 9
def fpcFz (v : BitVec 11) : Bool := bit v 10

/-- Rounding of a result of type `ty` that does not narrow, in mode `mode`. -/
def arithEnv (v : BitVec 11) (mode ty : Nat) : FpEnv := { mode := mode, fz := fpcFz v && fzTy ty }

/-- Rounding of a narrowing conversion (R34). -/
def narrowEnv (v : BitVec 11) (mode ty rnd : Nat) : FpEnv :=
  { mode := mode, fz := fpcFz v && fzTy ty, satm := fpcSatm v, rnd := rnd, narrow := true }

/-- An operand of type `ty` under FZ (R33). -/
def readTy (v : BitVec 11) (ty bits : Nat) : FVal := readF (fmtTy ty) (fpcFz v && fzTy ty) bits

/-- Flags ORed into %fpc (R36). -/
def orFlags (a : SetState) (ix fl : Nat) : SetState :=
  let x := a.ctx ix
  a.setCtx ix { x with fpc := x.fpc ||| BitVec.ofNat 11 (fl % 32) }

/-- The flags of the enabled elements. -/
def flagsOn (on : Nat → Bool) (f : Nat → Nat × Nat) : Nat → Nat
  | 0 => 0
  | n + 1 => flagsOn on f n ||| (if on n then (f n).2 else 0)

/-- What the steps of an element are given: the format, the type's reading under FZ, the rounding, %fpc and TY. -/
structure FpElt where
  f : Fmt
  ty : Nat
  fpc : BitVec 11
  env : FpEnv

def FpElt.rd (k : FpElt) (bits : Nat) : FVal := readTy k.fpc k.ty bits
def FpElt.fz (k : FpElt) : Bool := fpcFz k.fpc && fzTy k.ty
def FpElt.clean (k : FpElt) (bits : Nat) : Nat := cleanF k.f k.fz bits
def FpElt.round (k : FpElt) (r : FVal × Nat) : Nat × Nat :=
  let (b, fl) := roundVal k.f k.env r.1
  (b, fl ||| r.2)

/-- The setting of an instruction of type `ty` under %fpc. -/
def fpElt (v : BitVec 11) (ty : Nat) : FpElt := { f := fmtTy ty, ty := ty, fpc := v, env := arithEnv v (fpcRm v) ty }

/-- Runs a packed floating instruction: r[i] and its flags from b[i], c[i] and d_old[i] (R180). -/
def fpRun (u : Use) (d : BitVec 7) (t : TailV) (c old : Bool) (f : FpElt → Nat → Nat → Nat → Nat × Nat) (s : State) :
    Host.Outcome State Fault Refusal :=
  multiSet (shRegs t.sh.toNat) u (fun e a => do
    let x := a.ctx e.ix
    let k := fpElt x.fpc t.ty.toNat
    let w := tyBits t.ty.toNat
    let b ← grpRead a e.ix t.sh t.b
    let cv ← if c then grpRead a e.ix t.sh t.c else pure 0
    let o ← if old then grpRead a e.ix t.sh d else pure 0
    let n := shElems t.sh.toNat w
    let pred := predOf a x t
    let g := fun i => f k (elem b w i) (elem cv w i) (elem o w i)
    pure (orFlags (grpWrite a e.ix t.sh d w pred t.pn (elems w (fun i => (g i).1) n)) e.ix
      (flagsOn (elemOn pred t.pn w) g n))) s

def useF2 (d : BitVec 7) (t : TailV) (cls : Nat → Bool) (fm : Nat) : Use := packedUse d t cls true fm false
def useF1 (d : BitVec 7) (t : TailV) (cls : Nat → Bool) (fm : Nat) : Use := packedUse d t cls false fm false

/-! ## Arithmetic (R182) -/

def useFadd (d : BitVec 7) (t : TailV) : Use := useF2 d t floatTy 0
/-- FADD. -/
def execFadd (d : BitVec 7) (t : TailV) (s : State) : Host.Outcome State Fault Refusal :=
  fpRun (useFadd d t) d t true false (fun k b c _ => k.round (addF k.env.mode (k.rd b) (k.rd c))) s

def useFsub (d : BitVec 7) (t : TailV) : Use := useF2 d t floatTy 0
/-- FSUB. -/
def execFsub (d : BitVec 7) (t : TailV) (s : State) : Host.Outcome State Fault Refusal :=
  fpRun (useFsub d t) d t true false (fun k b c _ => k.round (addF k.env.mode (k.rd b) (k.rd c).neg)) s

def useFmul (d : BitVec 7) (t : TailV) : Use := useF2 d t floatTy 0
/-- FMUL. -/
def execFmul (d : BitVec 7) (t : TailV) (s : State) : Host.Outcome State Fault Refusal :=
  fpRun (useFmul d t) d t true false (fun k b c _ => k.round (mulF (k.rd b) (k.rd c))) s

def useFdiv (d : BitVec 7) (t : TailV) : Use := useF2 d t floatTy 0
/-- FDIV. -/
def execFdiv (d : BitVec 7) (t : TailV) (s : State) : Host.Outcome State Fault Refusal :=
  fpRun (useFdiv d t) d t true false (fun k b c _ => divF k.f k.env (k.rd b) (k.rd c)) s

def useFma (d : BitVec 7) (t : TailV) : Use := packedUse d t floatTy true 3 true
/-- FMA: one rounding, the addend from the destination. -/
def execFma (d : BitVec 7) (t : TailV) (s : State) : Host.Outcome State Fault Refusal :=
  fpRun (useFma d t) d t true true (fun k b c o =>
    let x := if t.f.getLsbD 0 then (k.rd b).neg else k.rd b
    let z := if t.f.getLsbD 1 then (k.rd o).neg else k.rd o
    k.round (fmaF k.env.mode x (k.rd c) z)) s

def useFsqrt (d : BitVec 7) (t : TailV) : Use := useF1 d t floatTy 0
/-- FSQRT (R192). -/
def execFsqrt (d : BitVec 7) (t : TailV) (s : State) : Host.Outcome State Fault Refusal :=
  fpRun (useFsqrt d t) d t false false (fun k b _ _ => sqrtF k.f k.env (k.rd b)) s

/-! ## Minimum, maximum, sign, comparison (R183 to R185) -/

/-- minimumNumber and maximumNumber of two elements (R183). -/
def pickNum (k : FpElt) (max : Bool) (x y : Nat) : Nat × Nat :=
  let vx := k.rd x
  let vy := k.rd y
  let fl := if vx.isSnan || vy.isSnan then flNV else 0
  let r := if vx.isNan then y
    else if vy.isNan then x
    else match cmpF vx vy with
      | some .lt => if max then y else x
      | some .gt => if max then x else y
      | _ => if vx.sign != max then x else y
  (k.clean r, fl)

def useFmin (d : BitVec 7) (t : TailV) : Use := useF2 d t floatTy 0
/-- FMIN. -/
def execFmin (d : BitVec 7) (t : TailV) (s : State) : Host.Outcome State Fault Refusal :=
  fpRun (useFmin d t) d t true false (fun k b c _ => pickNum k false b c) s

def useFmax (d : BitVec 7) (t : TailV) : Use := useF2 d t floatTy 0
/-- FMAX. -/
def execFmax (d : BitVec 7) (t : TailV) (s : State) : Host.Outcome State Fault Refusal :=
  fpRun (useFmax d t) d t true false (fun k b c _ => pickNum k true b c) s

/-- The sign bit of an element. -/
def signBit (f : Fmt) (bits : Nat) : Bool := bits.testBit (f.low + f.mw + f.ew)

/-- FSGN of one element (R184). -/
def fsgnEl (k : FpElt) (mode x y : Nat) : Nat × Nat :=
  match k.rd x with
  | .nan s => nanIn k.f s
  | _ =>
    let sg := if mode = 0 then signBit k.f y else if mode = 1 then !signBit k.f y else signBit k.f x != signBit k.f y
    let mag := (k.clean x >>> k.f.low) % 2 ^ (k.f.mw + k.f.ew)
    ((b2n sg * 2 ^ (k.f.mw + k.f.ew) + mag) <<< k.f.low, 0)

def useFsgn (d : BitVec 7) (t : TailV) : Use :=
  let u := useF2 d t floatTy 3
  { u with legal := u.legal && t.f ≠ 3 }
/-- FSGN. -/
def execFsgn (d : BitVec 7) (t : TailV) (s : State) : Host.Outcome State Fault Refusal :=
  fpRun (useFsgn d t) d t true false (fun k b c _ => fsgnEl k t.f.toNat b c) s

/-- FCMP of one element: the outcome and flags (R185). -/
def fcmpEl (cc : Nat) (x y : FVal) : Bool × Nat :=
  let un := x.isNan || y.isNan
  let q := if x.isSnan || y.isSnan then flNV else 0
  let s := if un then flNV else 0
  let o := cmpF x y
  match cc with
  | 0 => (decide (o = some .eq), q)
  | 1 => (decide (o ≠ some .eq), q)
  | 2 => (decide (o = some .lt), s)
  | 3 => (decide (o = some .lt ∨ o = some .eq), s)
  | 4 => (decide (o = some .gt), s)
  | 5 => (decide (o = some .gt ∨ o = some .eq), s)
  | 6 => (un, q)
  | _ => (!un, q)

def useFcmp (d : BitVec 7) (t : TailV) : Use :=
  { legal := vOnly t true true true true true 7 && floatTy t.ty.toNat && grpOk t.sh t.b && grpOk t.sh t.c && d.toNat < 8
    regs := [grp t.sh t.b, grp t.sh t.c], srcs := grpList t.sh t.b ++ grpList t.sh t.c
    look := fun _ x => predGran x t.p.toNat ++ predGran x d.toNat }

/-- FCMP. -/
def execFcmp (d : BitVec 7) (t : TailV) (s : State) : Host.Outcome State Fault Refusal :=
  multiSet (shRegs t.sh.toNat) (useFcmp d t) (fun e a => do
    let x := a.ctx e.ix
    let k := fpElt x.fpc t.ty.toNat
    let w := tyBits t.ty.toNat
    let b ← grpRead a e.ix t.sh t.b
    let c ← grpRead a e.ix t.sh t.c
    let n := shElems t.sh.toNat w
    let g := fun i => fcmpEl (t.f.toNat % 8) (k.rd (elem b w i)) (k.rd (elem c w i))
    let fl := flagsOn (elemOn (predOf a x t) t.pn w) (fun i => (0, (g i).2)) n
    pure (orFlags (cmpWrite a e.ix t d.toNat w n (fun i => (g i).1)) e.ix fl)) s

/-! ## Integral values, scaling, classes (R189 to R191) -/

/-- FRND of one element. -/
def frndEl (k : FpElt) (mode : Nat) (nx : Bool) (x : Nat) : Nat × Nat :=
  match k.rd x with
  | .nan s => nanIn k.f s
  | .inf n => (infBits k.f n, 0)
  | .fin n m e =>
    if m = 0 then (packF k.f n 0 0, 0)
    else
      let (i, inx) := roundInt mode 0 n m e
      ((roundF k.f {} n i.natAbs 0 false).1, if inx && nx then flNX else 0)

def useFrnd (d : BitVec 7) (t : TailV) : Use :=
  let u := useF1 d t floatTy 15
  { u with legal := u.legal && decide (t.f.toNat % 8 < 6) }
/-- FRND. -/
def execFrnd (d : BitVec 7) (t : TailV) (s : State) : Host.Outcome State Fault Refusal :=
  fpRun (useFrnd d t) d t false false (fun k b _ _ =>
    frndEl k (if t.f.toNat % 8 = 0 then k.env.mode else t.f.toNat % 8 - 1) (t.f.getLsbD 3) b) s

/-- An exponent beyond every format's reach is as good as the nearest that is. -/
def clampExp (m : Int) : Int := if m < -20000 then -20000 else if 20000 < m then 20000 else m

/-- x · 2^m. -/
def FVal.scale (m : Int) : FVal → FVal
  | .fin n k e => .fin n k (e + clampExp m)
  | v => v

/-- FSCL of one element. -/
def fsclEl (k : FpElt) (x : Nat) (m : Int) : Nat × Nat :=
  let v := k.rd x
  match v with
  | .nan s => nanIn k.f s
  | _ => roundVal k.f k.env (v.scale m)

def useFscl (d : BitVec 7) (t : TailV) : Use :=
  if t.f.getLsbD 0 then
    { legal := vOnly t true true true true true 1 && floatTy t.ty.toNat && grpOk t.sh d && grpOk t.sh t.b
      regs := [grp t.sh d, grp t.sh t.b, (t.c.toNat, 1)], srcs := grpList t.sh t.b ++ [t.c.toNat]
      look := vLook d t (tyBits t.ty.toNat) }
  else useF2 d t floatTy 1

/-- FSCL: with E8 the exponent is byte 0 of wC less 127, and 0xFF gives NaN and NV. -/
def execFscl (d : BitVec 7) (t : TailV) (s : State) : Host.Outcome State Fault Refusal :=
  if t.f.getLsbD 0 then
    multiSet (shRegs t.sh.toNat) (useFscl d t) (fun e a => do
      let x := a.ctx e.ix
      let k := fpElt x.fpc t.ty.toNat
      let w := tyBits t.ty.toNat
      let b ← grpRead a e.ix t.sh t.b
      let c ← regRead a e.ix t.c.toNat
      let n := shElems t.sh.toNat w
      let pred := predOf a x t
      let e8 := fld c 7 0
      let g := fun i => if e8 = 255 then badF k.f else fsclEl k (elem b w i) ((e8 : Int) - 127)
      pure (orFlags (grpWrite a e.ix t.sh d w pred t.pn (elems w (fun i => (g i).1) n)) e.ix
        (flagsOn (elemOn pred t.pn w) g n))) s
  else fpRun (useFscl d t) d t true false (fun k b c _ => fsclEl k b (sext (tyBits t.ty.toNat) c)) s

/-- FCLS of one element. -/
def fclsEl (k : FpElt) (x : Nat) : Nat :=
  match k.rd x with
  | .nan s => if s then 256 else 512
  | .inf n => if n then 1 else 128
  | .fin n m _ =>
    if m = 0 then (if n then 8 else 16) else if m < 2 ^ k.f.mw then (if n then 4 else 32) else if n then 2 else 64

def useFcls (d : BitVec 7) (t : TailV) : Use := useF1 d t floatTy 0
/-- FCLS. -/
def execFcls (d : BitVec 7) (t : TailV) (s : State) : Host.Outcome State Fault Refusal :=
  fpRun (useFcls d t) d t false false (fun k b _ _ => (fclsEl k b, 0)) s

/-! ## Approximated functions (R192, R193) -/

/-- The free value of function `fn` for an element: a function of the operand as it is read and of FZ and SATM; RM has no part in it
(R180, R192). -/
def freeApprox (fn : Nat) (k : FpElt) (bits : Nat) : Nat :=
  Config.approx fn k.ty (fld k.fpc 10 9) (bits >>> k.f.low <<< k.f.low) % 2 ^ k.f.w

def approxRun (u : Use) (fn : Nat) (g : Fmt → FpEnv → Nat → FVal → Nat × Nat) (d : BitVec 7) (t : TailV) (s : State) :
    Host.Outcome State Fault Refusal :=
  fpRun u d t false false (fun k b _ _ => g k.f k.env (freeApprox fn k b) (k.rd b)) s

def useFrcp (d : BitVec 7) (t : TailV) : Use := useF1 d t shortTy 0
/-- FRCP. -/
def execFrcp (d : BitVec 7) (t : TailV) (s : State) : Host.Outcome State Fault Refusal :=
  approxRun (useFrcp d t) 0 frcpEl d t s

def useFrsq (d : BitVec 7) (t : TailV) : Use := useF1 d t shortTy 0
/-- FRSQ. -/
def execFrsq (d : BitVec 7) (t : TailV) (s : State) : Host.Outcome State Fault Refusal :=
  approxRun (useFrsq d t) 1 frsqEl d t s

def useFexp2 (d : BitVec 7) (t : TailV) : Use := useF1 d t shortTy 0
/-- FEXP2. -/
def execFexp2 (d : BitVec 7) (t : TailV) (s : State) : Host.Outcome State Fault Refusal :=
  approxRun (useFexp2 d t) 2 fexp2El d t s

def useFlog2 (d : BitVec 7) (t : TailV) : Use := useF1 d t shortTy 0
/-- FLOG2. -/
def execFlog2 (d : BitVec 7) (t : TailV) (s : State) : Host.Outcome State Fault Refusal :=
  approxRun (useFlog2 d t) 3 flog2El d t s

def useFsin (d : BitVec 7) (t : TailV) : Use := useF1 d t shortTy 0
/-- FSIN. -/
def execFsin (d : BitVec 7) (t : TailV) (s : State) : Host.Outcome State Fault Refusal :=
  approxRun (useFsin d t) 4 fsinEl d t s

def useFcos (d : BitVec 7) (t : TailV) : Use := useF1 d t shortTy 0
/-- FCOS. -/
def execFcos (d : BitVec 7) (t : TailV) (s : State) : Host.Outcome State Fault Refusal :=
  approxRun (useFcos d t) 5 fcosEl d t s

def useFtanh (d : BitVec 7) (t : TailV) : Use := useF1 d t shortTy 0
/-- FTANH. -/
def execFtanh (d : BitVec 7) (t : TailV) (s : State) : Host.Outcome State Fault Refusal :=
  approxRun (useFtanh d t) 6 ftanhEl d t s

/-! ## Reductions and dot products (R194 to R197) -/

/-- Combine of R43 with absent elements. -/
def combineOpt {α : Type} (f : α → α → α) : Option α → Option α → Option α
  | some x, some y => some (f x y)
  | some x, none => some x
  | none, y => y

/-- One level of the tree of R43. -/
def treeLevel {α : Type} (f : α → α → α) : List (Option α) → List (Option α)
  | x :: y :: t => combineOpt f x y :: treeLevel f t
  | l => l

/-- The tree of R43 over at most `n` levels. -/
def tree {α : Type} (f : α → α → α) : Nat → List (Option α) → Option α
  | 0, l => (l.headD none)
  | n + 1, l => tree f n (treeLevel f l)

/-- FRED's step: value and flags. -/
def fredStep (k : FpElt) (op : Nat) (x y : Nat × Nat) : Nat × Nat :=
  let (r, fl) := match op with
    | 0 => k.round (addF k.env.mode (k.rd x.1) (k.rd y.1))
    | 1 => pickNum k true x.1 y.1
    | _ => pickNum k false x.1 y.1
  (r, fl ||| x.2 ||| y.2)

def useFred (d : BitVec 7) (t : TailV) : Use :=
  { legal := vOnly t true false true true true 3 && floatTy t.ty.toNat && grpOk t.sh t.b && t.f ≠ 3
    regs := [(d.toNat, 1), grp t.sh t.b], srcs := grpList t.sh t.b, look := fun _ x => predGran x t.p.toNat }

/-- FRED. -/
def execFred (d : BitVec 7) (t : TailV) (s : State) : Host.Outcome State Fault Refusal :=
  multiSet (shRegs t.sh.toNat) (useFred d t) (fun e a => do
    let x := a.ctx e.ix
    let k := fpElt x.fpc t.ty.toNat
    let w := tyBits t.ty.toNat
    let b ← grpRead a e.ix t.sh t.b
    let pred := predOf a x t
    let l := (List.range (shElems t.sh.toNat w)).map (fun i =>
      if elemOn pred t.pn w i then some (k.clean (elem b w i), if (k.rd (elem b w i)).isSnan then flNV else 0) else none)
    let op := t.f.toNat
    let (r, fl) := (tree (fredStep k op) 6 l).getD
      (if op = 0 then packF k.f false 0 0 else infBits k.f (decide (op = 1)), 0)
    pure (orFlags (regWrite a e.ix d.toNat (r % 2 ^ w) allBytes) e.ix fl)) s

/-- A candidate of IMAX: container bits, key. `better` says that it ranks above another (R196). -/
def imaxBetter (k : FpElt) (int : Bool) (w : Nat) (sg : Bool) (x y : Nat × Nat) : Bool :=
  if int then
    let a := (Elt.mk w sg).ext x.1
    let b := (Elt.mk w sg).ext y.1
    decide (b < a) || (decide (a = b) && decide (x.2 < y.2))
  else
    match k.rd x.1, k.rd y.1 with
    | .nan _, .nan _ => decide (x.2 < y.2)
    | .nan _, _ => false
    | _, .nan _ => true
    | a, b => match cmpF a b with
      | some .gt => true
      | some .lt => false
      | _ => decide (x.2 < y.2)

/-- The greatest of a list of candidates. -/
def imaxBest (better : Nat × Nat → Nat × Nat → Bool) : List (Nat × Nat) → Option (Nat × Nat)
  | [] => none
  | x :: t => match imaxBest better t with
    | none => some x
    | some y => if better y x then some y else some x

def useImax (d : BitVec 7) (t : TailV) : Use :=
  { legal := vOnly t true true true true true 1 && (floatTy t.ty.toNat || isInt t.ty.toNat) && grpOk t.sh t.b
    regs := [(d.toNat, 1), grp t.sh t.b, (t.c.toNat, 1)]
    srcs := grpList t.sh t.b ++ (t.c.toNat :: (if t.f.getLsbD 0 then [d.toNat] else []))
    look := fun _ x => predGran x t.p.toNat }

/-- IMAX. -/
def execImax (d : BitVec 7) (t : TailV) (s : State) : Host.Outcome State Fault Refusal :=
  multiSet (shRegs t.sh.toNat) (useImax d t) (fun e a => do
    let x := a.ctx e.ix
    let ty := t.ty.toNat
    let k := fpElt x.fpc ty
    let w := tyBits ty
    let int := isInt ty
    let b ← grpRead a e.ix t.sh t.b
    let c ← regRead a e.ix t.c.toNat
    let o ← if t.f.getLsbD 0 then regRead a e.ix d.toNat else pure 0
    let pred := predOf a x t
    let l := (List.range (shElems t.sh.toNat w)).filterMap (fun i =>
      if elemOn pred t.pn w i then some (elem b w i, (fld c 31 0 + i) % 2 ^ 32) else none)
    let l := l ++ (if bit o 96 then [(o.toNat % 2 ^ w, fld o 95 64)] else [])
    let fl := if !int && l.any (fun p => (k.rd p.1).isSnan) then flNV else 0
    let r := match imaxBest (imaxBetter k int w (tySigned ty)) l with
      | none => 0
      | some (v, key) =>
        let nan := !int && (k.rd v).isNan
        (if int then v else k.clean v) + key * 2 ^ 64 + 2 ^ 96 + b2n nan * 2 ^ 97
    pure (orFlags (regWrite a e.ix d.toNat r allBytes) e.ix fl)) s

/-- The exact sum of an F32 accumulator and `n` products from element `i` on: value and flags (R197, R42). -/
def fdotSum (k : FpElt) (w b c i : Nat) : Nat → FVal × Nat → FVal × Nat
  | 0, acc => acc
  | n + 1, acc =>
    let (p, f) := mulF (k.rd (elem b w i)) (k.rd (elem c w i))
    let (r, g) := addF k.env.mode acc.1 p
    fdotSum k w b c (i + 1) n (r, acc.2 ||| f ||| g)

def fdotTy (ty : Nat) : Bool := [0x0B, 0x0A, 0x0C, 0x0D].contains ty

def useFdot (d : BitVec 7) (t : TailV) : Use := packedUse d t fdotTy true 0 true
/-- FDOT. -/
def execFdot (d : BitVec 7) (t : TailV) (s : State) : Host.Outcome State Fault Refusal :=
  multiSet (shRegs t.sh.toNat) (useFdot d t) (fun e a => do
    let x := a.ctx e.ix
    let k := fpElt x.fpc t.ty.toNat
    let w := tyBits t.ty.toNat
    let q := 32 / w
    let b ← grpRead a e.ix t.sh t.b
    let c ← grpRead a e.ix t.sh t.c
    let o ← grpRead a e.ix t.sh d
    let n := shElems t.sh.toNat 32
    let pred := predOf a x t
    let g := fun j =>
      let acc := decodeF fmtF32 (elem o 32 j)
      let (v, fl) := fdotSum k w b c (j * q) q (acc, if acc.isSnan then flNV else 0)
      let (r, fl') := roundVal fmtF32 { mode := k.env.mode } v
      (r, fl ||| fl')
    pure (orFlags (grpWrite a e.ix t.sh d 32 pred t.pn (elems 32 (fun j => (g j).1) n)) e.ix
      (flagsOn (elemOn pred t.pn 32) g n))) s

/-! ## Sides of different widths (R186) -/

/-- The layout of a conversion: source and destination widths, elements, registers of each side. -/
structure Sides where
  ws : Nat
  wd : Nat
  n : Nat
  sn : Nat
  dn : Nat
  deriving DecidableEq, Repr

/-- The layout for a shape and two container widths. -/
def sidesOf (sh : BitVec 2) (ws wd : Nat) : Sides :=
  let ww := Nat.max ws wd
  let wn := Nat.min ws wd
  let n := if sh = 0 then 1 else 8 * shBytes sh.toNat / ww
  let rn := Nat.max 1 (n * wn / 128)
  let nr := shRegs sh.toNat
  if wd ≤ ws then { ws := ws, wd := wd, n := n, sn := nr, dn := rn }
  else { ws := ws, wd := wd, n := n, sn := rn, dn := nr }

/-- Is element i enabled? -/
def sideOn (l : Sides) (pred : Nat) (pn : Bool) (i : Nat) : Bool := elemOn pred pn (Nat.max l.ws l.wd) i

/-- The byte mask of a conversion's write: bytes that hold a bit of an enabled element, and, when anything is written, the
bytes beyond the elements. -/
def sidesMask (on : Nat → Bool) (n wd : Nat) : Nat → Nat
  | 0 => 0
  | j + 1 =>
    let i := 8 * j / wd
    let k := (8 * j + 7) / wd
    sidesMask on n wd j + (if n ≤ i ∨ (i < n ∧ on i) ∨ (k < n ∧ on k) then 2 ^ j else 0)

/-- Legality and registers of a conversion with a single register C when `c` is set. -/
def sidesUse (legal : Bool) (d : BitVec 7) (t : TailV) (l : Sides) (c : Bool) : Use :=
  { legal := legal && decide (d.toNat % l.dn = 0) && decide (t.b.toNat % l.sn = 0)
    regs := [(d.toNat, l.dn), (t.b.toNat, l.sn)] ++ (if c then [(t.c.toNat, 1)] else [])
    srcs := (List.range l.sn).map (fun k => t.b.toNat + k) ++ (if c then [t.c.toNat] else [])
    look := fun a x =>
      let on := sideOn l (predOf a x t) t.pn
      let m := sidesMask on l.n l.wd (16 * l.dn)
      predGran x t.p.toNat ++
      (if (List.range l.n).all (fun i => !on i) then [] else
        ((List.range l.dn).filter (fun k =>
          decide (m / 2 ^ (16 * k) % 65536 ≠ 0 ∧ m / 2 ^ (16 * k) % 65536 ≠ 65535))).map (fun k => x.gran (d.toNat + k))) }

/-- Converts the enabled elements of B into D: f gives bits and flags. -/
def convWrite (a : SetState) (ix : Nat) (d : BitVec 7) (t : TailV) (l : Sides) (b : Nat) (f : Nat → Nat → Nat × Nat) : SetState :=
  let x := a.ctx ix
  let pred := predOf a x t
  let on := sideOn l pred t.pn
  if (List.range l.n).all (fun i => !on i) then a
  else
    let old := regsOld a x d.toNat l.dn
    let g := fun i => f i (elem b l.ws i)
    let v := elems l.wd (fun i => if on i then (g i).1 else elem old l.wd i) l.n
    let m := sidesMask on l.n l.wd (16 * l.dn)
    orFlags (regsWrite a ix d.toNat v m l.dn) ix (flagsOn on g l.n)

/-! ## Block scaling (R198 to R200) -/

/-- emax of a block element type. -/
def emaxOf (ty : Nat) : Int :=
  match ty with
  | 0x0C => 15 | 0x0D => 8 | 0x0E => 4 | 0x0F => 2 | 0x10 => 2 | _ => 0

/-- The code of QNT with SCL. -/
def sclCode (ty : Nat) : FVal → Nat × Nat
  | .nan s => (255, if s then flNV else 0)
  | .inf _ => (255, flNV)
  | .fin _ m e =>
    if m = 0 then (127, 0)
    else
      let c := (Nat.log2 m : Int) + e - emaxOf ty + 127
      ((if c < 0 then 0 else if 254 < c then 254 else c.toNat), 0)

def useQntScl (d : BitVec 7) (t : TailV) : Use :=
  { legal := vOnly t true false true false true 0x3F && t.f.getLsbD 5 && blockTy t.ty.toNat && quantTy (t.f.toNat % 32)
    regs := [(d.toNat, 1), (t.b.toNat, 1)], srcs := [t.b.toNat], look := fun _ x => predGran x t.p.toNat }

/-- QNT with SCL. -/
def execQntScl (d : BitVec 7) (t : TailV) (s : State) : Host.Outcome State Fault Refusal :=
  setRun (useQntScl d t) (fun e a => do
    let x := a.ctx e.ix
    let sty := t.f.toNat % 32
    let b ← regRead a e.ix t.b.toNat
    if enabled a x t.p t.pn 0 then
      let (c, fl) := sclCode t.ty.toNat (readTy x.fpc sty (b.toNat % 2 ^ tyBits sty))
      pure (orFlags (regWrite a e.ix d.toNat c allBytes) e.ix fl)
    else pure a) s

/-- A value rounded to the grid of SI8 (n · 2^-6) or SI4 (n · 2^-2). -/
def gridEl (ty : Nat) (v : FpEnv) (x : FVal) : Nat × Nat :=
  let w := if ty = 0 then 8 else 4
  let sh : Int := if ty = 0 then 6 else 2
  match x with
  | .nan _ => (0, flNV)
  | .inf n => (wrap w (clampInt w true (if n then -1000 else 1000)).1, flNV)
  | .fin n m e =>
    let (i, nx) := roundInt v.mode v.rnd n m (e + sh)
    let (c, out) := clampInt w true i
    (wrap w c, if out then flOF + flNX else if nx then flNX else 0)

/-- QNT of one element under scale code X. -/
def qntEl (fpc : BitVec 11) (ty sty x bits : Nat) : Nat × Nat :=
  let v := readTy fpc sty bits
  let s := if v.isSnan then flNV else 0
  let v := if x = 255 ∨ v.isNan then .nan false else v.scale (127 - (x : Int))
  let env := narrowEnv fpc (fpcRm fpc) ty 0
  let (b, fl) := if narrowTy ty then roundVal (fmtTy ty) env v else gridEl ty env v
  (b, fl ||| s)

def qntSides (t : TailV) : Sides := sidesOf t.sh (tyBits (t.f.toNat % 32)) (tyBits t.ty.toNat)

def useQnt (d : BitVec 7) (t : TailV) : Use :=
  sidesUse (vOnly t true true true true true 0x1F && blockTy t.ty.toNat && quantTy (t.f.toNat % 32)) d t (qntSides t) true

/-- QNT. -/
def execQnt (d : BitVec 7) (t : TailV) (s : State) : Host.Outcome State Fault Refusal :=
  multiSet (shRegs t.sh.toNat) (useQnt d t) (fun e a => do
    let l := qntSides t
    let b ← regsRead a e.ix t.b.toNat l.sn
    let c ← regRead a e.ix t.c.toNat
    pure (convWrite a e.ix d t l b (fun _ x => qntEl (a.ctx e.ix).fpc t.ty.toNat (t.f.toNat % 32) (fld c 7 0) x))) s

/-- X · v of a block element (R25, R26). -/
def blockVal (ty x bits : Nat) : FVal :=
  if x = 255 then .nan false
  else
    let v := if narrowTy ty then decodeF (fmtTy ty) bits
      else if ty = 0 then let i := sext 8 bits; .fin (decide (i < 0)) i.natAbs (-6)
      else let i := sext 4 bits; .fin (decide (i < 0)) i.natAbs (-2)
    v.scale ((x : Int) - 127)

/-- DQNT of one element. -/
def dqntEl (fpc : BitVec 11) (ty ety x bits : Nat) : Nat × Nat :=
  roundVal (fmtTy ty) (arithEnv fpc (fpcRm fpc) ty) (blockVal ety x bits)

def dqntSides (t : TailV) : Sides := sidesOf t.sh (tyBits (t.f.toNat % 32)) (tyBits t.ty.toNat)

def useDqnt (d : BitVec 7) (t : TailV) : Use :=
  sidesUse (vOnly t true true true true true 0x1F && quantTy t.ty.toNat && blockTy (t.f.toNat % 32)) d t (dqntSides t) true

/-- DQNT. -/
def execDqnt (d : BitVec 7) (t : TailV) (s : State) : Host.Outcome State Fault Refusal :=
  multiSet (shRegs t.sh.toNat) (useDqnt d t) (fun e a => do
    let l := dqntSides t
    let b ← regsRead a e.ix t.b.toNat l.sn
    let c ← regRead a e.ix t.c.toNat
    pure (convWrite a e.ix d t l b (fun _ x => dqntEl (a.ctx e.ix).fpc t.ty.toNat (t.f.toNat % 32) (fld c 7 0) x))) s

/-! ## Rotary positions (R203, R204) -/

def ropeTy (ty : Nat) : Bool := quantTy ty

def useRope (d : BitVec 7) (t : TailV) : Use :=
  { legal := vOnly t true true true true true 0x3F && ropeTy t.ty.toNat && t.sh ≠ 0 && grpOk t.sh d && grpOk t.sh t.b
    regs := [grp t.sh d, grp t.sh t.b, (t.c.toNat, 1)], srcs := grpList t.sh t.b ++ [t.c.toNat]
    look := vLook d t (2 * tyBits t.ty.toNat) }

/-- The two elements of a rotated pair, with flags. -/
def ropePair (k : FpElt) (phi x0 x1 : Nat) : (Nat × Nat) × Nat :=
  let c := ropeCs false phi
  let s := ropeCs true phi
  let a := k.rd x0
  let b := k.rd x1
  let (p, f1) := mulF a c
  let (q, f2) := mulF b s
  let (p', f3) := mulF a s
  let (q', f4) := mulF b c
  let (y0, g0) := k.round (addF k.env.mode p q.neg)
  let (y1, g1) := k.round (addF k.env.mode p' q')
  ((y0, y1), f1 ||| f2 ||| f3 ||| f4 ||| g0 ||| g1)

/-- ROPE: pair j is enabled by the bit of element 2j. -/
def execRope (d : BitVec 7) (t : TailV) (s : State) : Host.Outcome State Fault Refusal :=
  multiSet (shRegs t.sh.toNat) (useRope d t) (fun e a => do
    let x := a.ctx e.ix
    let k := fpElt x.fpc t.ty.toNat
    let w := tyBits t.ty.toNat
    let b ← grpRead a e.ix t.sh t.b
    let c ← regRead a e.ix t.c.toNat
    let n := shElems t.sh.toNat w
    let pred := predOf a x t
    let g := fun j =>
      let inc := tget 0 (rotarySeen a x) ((t.f.toNat + j) % 64)
      ropePair k (fld c 31 0 * inc.toNat % 2 ^ 32) (elem b w (2 * j)) (elem b w (2 * j + 1))
    let v := elems (2 * w) (fun j => (g j).1.1 + (g j).1.2 * 2 ^ w) (n / 2)
    let m := enMask pred t.pn (2 * w / 8) (shBytes t.sh.toNat)
    pure (orFlags (regsWrite a e.ix d.toNat v m (shRegs t.sh.toNat)) e.ix
      (flagsOn (elemOn pred t.pn (2 * w)) (fun j => (0, (g j).2)) (n / 2)))) s

def useRopeSet (d : BitVec 7) (t : TailV) : Use :=
  { legal := vOnly t true false true true true 0x7F && t.f.getLsbD 6 && d = 0 && t.ty = 5 && t.sh ≠ 0 && grpOk t.sh t.b
    regs := [grp t.sh t.b], srcs := grpList t.sh t.b, look := fun _ x => predGran x t.p.toNat }

/-- ROPE with SET: enabled words of the B group, in ascending order, to the rotary table. -/
def rotarySet (r : Sparse (BitVec 32)) (on : Nat → Bool) (t0 b : Nat) : Nat → Sparse (BitVec 32)
  | 0 => r
  | k + 1 =>
    let r := rotarySet r on t0 b k
    if on k then tset 0 r ((t0 + k) % 64) (BitVec.ofNat 32 (elem b 32 k)) else r

/-- ROPE with SET. -/
def execRopeSet (d : BitVec 7) (t : TailV) (s : State) : Host.Outcome State Fault Refusal :=
  multiSet (shRegs t.sh.toNat) (useRopeSet d t) (fun e a => do
    let b ← grpRead a e.ix t.sh t.b
    pure { a with rotary := rotarySet a.rotary (elemOn (predOf a (a.ctx e.ix) t) t.pn 32) (t.f.toNat % 64) b
                              (shElems t.sh.toNat 32) }) s

/-! ## FPCSET (R205) -/

def useFpcset (d : BitVec 7) (t : TailV) : Use :=
  { legal := vOnly t true false false false false 3 && t.f ≠ 3, regs := [(d.toNat, 1), (t.b.toNat, 1)], srcs := [t.b.toNat] }

/-- FPCSET: bits [6:5] of the value take no part. -/
def execFpcset (d : BitVec 7) (t : TailV) (s : State) : Host.Outcome State Fault Refusal :=
  setRun (useFpcset d t) (fun e a => do
    let b ← regRead a e.ix t.b.toNat
    let x := a.ctx e.ix
    let v : BitVec 11 := b.setWidth 11 &&& 0x79F
    let n := if t.f = 0 then v else if t.f = 1 then x.fpc ||| v else x.fpc &&& ~~~v
    let a := regWrite a e.ix d.toNat x.fpc.toNat allBytes
    pure (a.setCtx e.ix { a.ctx e.ix with fpc := n })) s

end Sys2Proof.Machine
end

