-- ==== Sys2Proof/Machine/Random.lean ====
section
/-! DEFINITION. FCVT and RAND, which use Philox words and may draw from the bound stream: R187, R188, R201, R202. -/

namespace Sys2Proof.Machine

/-! ## Draws (R202) -/

/-- A draw of `n` blocks from the bound stream: its key and counter, which advances; STREAM with the stream handle when there is none
(R130, R202). The key and the counter of another package's stream are free, and whether it is current (log entry 25). -/
def drawStream (s : State) (e : Env) (n : Nat) : Res (Nat × Nat × State) :=
  let h := (s.pend (agentOf e)).fwd.getD (s.ctx e).stream
  if s.streamAway h then
    if Config.freePick (s.tick * 65536 + 1) % 2 = 0 then .ok ((s.free 0).toNat, (s.free 1).toNat + (s.free 2).toNat * 2 ^ 64, s)
    else .error (.fault { code := streamFault, tok := h.toNat })
  else match s.streamOf h with
    | none => .error (.fault { code := streamFault, tok := h.toNat })
    | some (sd, si) =>
      let x := s.stream sd si
      if let some w := streamError s sd si false then .error (.faultIn { code := streamFault, tok := h.toNat } (loseStream s sd si w))
      else if x.st = .migrating then stall (s.setPend (agentOf e) { s.pend (agentOf e) with ask := .migrating h, draw := true })
      else .ok (x.key.toNat, x.ctr.toNat, s.setStream sd si { x with ctr := x.ctr + BitVec.ofNat 128 n })

/-- The draw is over: nothing pending is left, and a later one starts from the context's own stream. -/
def endDraw (s : State) (e : Env) : State := endAccess s (agentOf e)

/-- Block `k` after a counter. -/
def blockAt (key ctr k : Nat) : Nat := philoxBlock key ((ctr + k) % 2 ^ 128)

/-! ## FCVT (R187, R188) -/

/-- The types a conversion accepts: the float and narrow classes and the integers. -/
def convTy (ty : Nat) : Bool := floatTy ty || narrowTy ty || isInt ty || ty = 0x11 || ty = 0x12
def wholeTy (ty : Nat) : Bool := isInt ty || ty = 0x11 || ty = 0x12

/-- The value of an element to be converted (R187). -/
def convVal (fpc : BitVec 11) (sty bits : Nat) : FVal :=
  let w := tyBits sty
  if sty = 0x14 then (if bits % 256 = 255 then .nan false else .fin false 1 ((bits % 256 : Nat) - 127))
  else if wholeTy sty then let i := extTy sty w bits; .fin (decide (i < 0)) i.natAbs 0
  else readTy fpc sty bits

/-- One element converted: bits and flags. -/
def convEl (fpc : BitVec 11) (ty sty mode rnd bits : Nat) : Nat × Nat :=
  let v := convVal fpc sty bits
  let env := narrowEnv fpc mode ty rnd
  if wholeTy ty then
    let (b, fl) := toInt (tyBits ty) (tySigned ty) env v
    (b, fl ||| (if v.isSnan then flNV else 0))
  else roundVal (fmtTy ty) env v

/-- The mode of RND (R187). -/
def convMode (fpc : BitVec 11) (rnd : Nat) : Nat :=
  match rnd with | 0 => fpcRm fpc | 1 => rtz | 2 => rna | _ => rsr

def fcvtSides (t : TailV) : Sides := sidesOf t.sh (tyBits (t.f.toNat % 32)) (tyBits t.ty.toNat)

def useFcvt (d : BitVec 7) (t : TailV) : Use :=
  let ty := t.ty.toNat
  let sty := t.f.toNat % 32
  let sr := decide (t.f.toNat / 32 = 3)
  sidesUse (vOnly t true sr true true true 127 && convTy ty && (convTy sty || sty = 0x14) && !(wholeTy ty && wholeTy sty))
    d t (fcvtSides t) sr

/-- FCVT takes the beats of its shape; under `.sr` it reads its sources once though its draw may stall (R207). -/
def fcvtRun (t : TailV) : Use → (Env → State → Res State) → State → Host.Outcome State Fault Refusal :=
  if t.f.toNat / 32 = 3 then beatRun (shRegs t.sh.toNat) else multiRun (shRegs t.sh.toNat)

/-- FCVT. -/
def execFcvt (d : BitVec 7) (t : TailV) (s : State) : Host.Outcome State Fault Refusal :=
  fcvtRun t (useFcvt d t) (fun e s => do
    let a := s.act e.d e.c
    let l := fcvtSides t
    let fpc := (s.ctx e).fpc
    let ty := t.ty.toNat
    let sty := t.f.toNat % 32
    let mode := convMode fpc (t.f.toNat / 32)
    let b ← regsRead a e.ix t.b.toNat l.sn
    let (key, ctr, s) ← if mode = rsr then do
        let c ← regRead a e.ix t.c.toNat
        if bit c 127 then do
          let (k, n, s) ← drawStream s e ((l.n + 3) / 4)
          pure (k, n, endDraw s e)
        else pure (fld c 63 0, fld c 126 64, s)
      else pure (0, 0, s)
    let f := fun i x => convEl fpc ty sty mode ((blockAt key ctr (i / 4) >>> (32 * (i % 4))) % 2 ^ 32) x
    let f' := fun _ x => convEl fpc ty sty mode 0 x
    pure (s.setAct e.d e.c (convWrite (s.act e.d e.c) e.ix d t l b (if mode = rsr then f else f')))) s

/-! ## RAND (R201) -/

def randStrm (t : TailV) : Bool := t.f.getLsbD 0
def randUpd (t : TailV) : Bool := t.f.getLsbD 1

def useRand (d : BitVec 7) (t : TailV) : Use :=
  let n := shRegs t.sh.toNat
  let strm := randStrm t
  { legal := vOnly t (!strm) (!strm) true true true 3 && (t.ty = 5 || t.ty = 9) && grpOk t.sh d && !(strm && randUpd t) &&
             !(randUpd t && decide (d.toNat ≤ t.c.toNat ∧ t.c.toNat < d.toNat + n))
    regs := grp t.sh d :: (if strm then [] else [(t.b.toNat, 1), (t.c.toNat, 1)])
    srcs := if strm then [] else [t.b.toNat, t.c.toNat]
    look := vLook d t 32 }

/-- A word as RAND gives it: unchanged, or (2(u >> 9) + 1) · 2^-24 as F32. -/
def randWord (ty u : Nat) : Nat := if ty = 5 then u else (roundF fmtF32 {} false (2 * (u / 512) + 1) (-24) false).1

/-- RAND. -/
def execRand (d : BitVec 7) (t : TailV) (s : State) : Host.Outcome State Fault Refusal :=
  (if randStrm t then beatRun else multiRun) (shRegs t.sh.toNat) (useRand d t) (fun e s => do
    let a := s.act e.d e.c
    let n := shRegs t.sh.toNat
    let (key, ctr, s) ← if randStrm t then do
        let (k, c, s) ← drawStream s e n
        pure (k, c, endDraw s e)
      else do
        let b ← regRead a e.ix t.b.toNat
        let c ← regRead a e.ix t.c.toNat
        pure (fld b 63 0, c.toNat, s)
    let a := s.act e.d e.c
    let v := elems 32 (fun i => randWord t.ty.toNat ((blockAt key ctr (i / 4) >>> (32 * (i % 4))) % 2 ^ 32)) (4 * n)
    let a := grpWrite a e.ix t.sh d 32 (predOf a (a.ctx e.ix) t) t.pn v
    let a := if randUpd t then regWrite a e.ix t.c.toNat ((ctr + n) % 2 ^ 128) allBytes else a
    pure (s.setAct e.d e.c a)) s

end Sys2Proof.Machine
end

