-- ==== Sys2Proof/Machine/Join.lean ====
section
/-! DEFINITION. Join groups, SDESC and PERFR: chapter 16 (R373 to R390). -/

namespace Sys2Proof.Machine

/-! ## Groups and handles (R373, R374) -/

def Die.group (v : Die) (i : Nat) : Group := tget {} v.groups i
def State.group (s : State) (d i : Nat) : Group := (s.die d).group i
def State.setGroup (s : State) (d i : Nat) (g : Group) : State :=
  let v := s.die d
  s.setDie d { v with groups := tset {} v.groups i g }

def State.groupHandle (s : State) (d i : Nat) : BitVec 32 :=
  BitVec.ofNat 32 ((s.group d i).inc.toNat % 8 * 2 ^ 29 + s.pkg.toNat * 2 ^ 17 + d * 2 ^ 13 + i)

/-- The group a current handle of this package names. -/
def State.groupOf (s : State) (h : BitVec 32) : Option (Nat × Nat) :=
  let g := s.group (hDie h) (hIx h)
  if hDie h < 12 ∧ hPkg h = s.pkg.toNat ∧ hIx h < 1024 ∧ g.st ≠ .free ∧ hGen h = g.inc.toNat % 8 then
    some (hDie h, hIx h) else none

/-- Fields of the destination word (R377). -/
def Group.dPkg (g : Group) : Nat := fld g.destw 63 52
def Group.dDie (g : Group) : Nat := fld g.destw 51 48
def Group.dCore (g : Group) : Nat := fld g.destw 47 41
def Group.dk (g : Group) : Nat := fld g.destw 40 33
def Group.di (g : Group) : Int := sext 16 (fld g.destw 32 17)

/-! ## Values and ranks (R379, R380) -/

/-- A posted word as a value of a type: exact. -/
def valOf (vt : Nat) (w : W64) : FVal :=
  match vt with
  | 0 => decodeF fmtF32 (fld w 31 0)
  | 1 => decodeF fmtF64 w.toNat
  | 2 => let i := sext 64 w.toNat; .fin (decide (i < 0)) i.natAbs 0
  | _ => .fin false w.toNat 0

/-- A value as the 8 bytes of a record: rounded once by RNE, integers modulo 2^64 (R382). -/
def valBits (vt : Nat) (v : FVal) : Nat :=
  match vt with
  | 0 => (roundVal fmtF32 {} v).1
  | 1 => (roundVal fmtF64 {} v).1
  | _ => match v with
    | .fin n m e => let i : Int := (m <<< e.toNat : Nat); wrap 64 (if n then -i else i)
    | _ => 0

/-- Does candidate `a` rank above `b`? Higher value, then lower key; NaN lowest. -/
def candAbove (a b : Cand) : Bool :=
  match a.v, b.v with
  | .nan _, .nan _ => decide (a.key.toNat < b.key.toNat)
  | .nan _, _ => false
  | _, .nan _ => true
  | x, y => match cmpF x y with
    | some .gt => true
    | some .lt => false
    | _ => decide (a.key.toNat < b.key.toNat)

/-- A candidate entered into a ranked list, after those that rank no lower. -/
def rankInsert (c : Cand) : List Cand → List Cand
  | [] => [c]
  | x :: t => if candAbove c x then c :: x :: t else x :: rankInsert c t

/-- Candidates best first; equals in order of receipt. -/
def ranked (l : List Cand) : List Cand := l.foldl (fun r c => rankInsert c r) []

/-! ## Results (R382) -/

/-- The exact sum of values (R41, R42). -/
def sumVals : List FVal → FVal
  | [] => .fin false 0 0
  | v :: t => t.foldl (fun a b => (addF 0 a b).1) v

/-- Value bits in ascending order. -/
def insertNat (x : Nat) : List Nat → List Nat
  | [] => [x]
  | y :: t => if x ≤ y then x :: y :: t else y :: insertNat x t

/-- 2^x of x ≤ 0 with `lseBits` fraction bits. -/
def exp2Lse (x : Int × Int) : Nat :=
  let one : Nat := 2 ^ lseBits
  let y := (toFx lseBits x.1 x.2).natAbs
  if lseBits ≤ y / one then 0 else exp2Frac lseBits ((one - y % one) % one) >>> (y / one + b2n (decide (y % one ≠ 0)))

/-- log2 Σ 2^v of finite values: the greatest, and the rest scaled to it, so closely that a result near 0 is right too. -/
def lseVal (l : List (Int × Int)) : Int × Int :=
  let top := l.foldl (fun a b => if dLe a b then b else a) (l.headD (0, 0))
  let sum := l.foldl (fun n x => n + exp2Lse (dAdd x (-top.1, top.2))) 0
  let x := toFx lseBits top.1 top.2 + log2At lseBits sum (-lseBits)
  ((x + (2 ^ 63 : Nat)).fdiv ((2 ^ 64 : Nat) : Int), -(lseBits - 64 : Nat))

/-- LSE of R382: within one unit in the last place, a function of the multiset. -/
def lseOf (vt : Nat) (l : List FVal) : FVal :=
  let f := if vt = 0 then fmtF32 else fmtF64
  if l.any FVal.isNan then .nan false
  else if l.any (fun v => decide (v = .inf false)) then .inf false
  else
    let fin := l.filterMap FVal.dyadic
    if fin.isEmpty then .inf true
    else
      let key := (l.map (valBits vt)).foldl (fun r x => insertNat x r) []
      let free := Config.lse vt key % 2 ^ f.w
      decodeF f (approxUlp f {} free (lseVal fin)).1

/-- The entries of a completed group other than DESCEND. -/
def groupResult (g : Group) : List Cand :=
  if g.cands.isEmpty then []
  else
    let key : W64 := g.keyp.setWidth 64
    match g.op with
    | 0 => (ranked g.cands).take 1
    | 1 => [{ v := sumVals (g.cands.map (·.v)), key := key }]
    | 2 => [{ v := lseOf g.vt (g.cands.map (·.v)), key := key }]
    | 3 => (ranked g.cands).take g.k
    | _ => []

/-- Bytes cut into the consecutive 64-byte lines of a record. -/
def cutLines : List Nat → List Byte → List (Nat × List Byte)
  | [], _ => []
  | fa :: t, bs => if bs.isEmpty then [] else (fa, bs.take 64) :: cutLines t (bs.drop 64)

/-- The stores that write a group's record (R382). -/
def recordStores (s : State) (d i : Nat) (entries : List Cand) (notChosen : Bool) : List (Nat × List Byte) :=
  let g := s.group d i
  let nan := match entries with | c :: _ => c.v.isNan | [] => false
  let hdr := b2n nan + b2n g.short * 2 + b2n notChosen * 4 + g.op * 256 + entries.length * 2 ^ 16 + g.arr * 2 ^ 32 +
    (s.groupHandle d i).toNat * 2 ^ 64
  cutLines g.dst (bytesOf 16 hdr ++ entries.flatMap (fun c => bytesOf 8 (valBits g.vt c.v) ++ bytesOf 8 c.key.toNat))

/-! ## Completion (R381) -/

/-- The join unit of a die as a sender. -/
def joinSender (d : Nat) (dom : BitVec 12) : Sender := { die := d, core := joinUnit, dom := dom }

/-- Step 4: the counter's signal. -/
def groupSignal (s : State) (d i : Nat) : State :=
  let g := s.group d i
  if g.di = 0 then s
  else sendPacket s
    { cls := 0, src := joinSender d g.dom, pkg := g.dPkg, die := g.dDie, core := g.dCore,
      body := .signal (BitVec.ofNat 8 g.dk) g.di g.destw (some (s.groupHandle d i)) }

/-- The group is FREE again: its incarnation rises (R373). -/
def freeGroup (s : State) (d i : Nat) : State :=
  s.setGroup d i { ({} : Group) with inc := (s.group d i).inc + 1 }

/-- A packet from a join unit to the join unit that holds a group. -/
def toGroup (s : State) (d : Nat) (dom : BitVec 12) (g : BitVec 32) (body : Payload) : State :=
  sendPacket s { cls := 1, src := joinSender d dom, pkg := hPkg g, die := hDie g, core := joinUnit, body := body }

/-- Steps 4 and 5: the signal, and the result to the parent, which a DESCEND group has sent before. FREE follows (`reapGroup`). -/
def endGroup (s : State) (d i : Nat) : State :=
  let g := s.group d i
  let s := groupSignal s d i
  let s := match g.parent with
    | some p => if g.op = 4 then s else toGroup s d g.dom p (.child p (s.groupHandle d i) g.result)
    | none => s
  s.setGroup d i { s.group d i with ending := false, spent := true }

/-- Step 6 (R381): a group whose end is made returns to FREE. -/
def reapGroup (d : Nat) (s : State) (i : Nat) : State := if (s.group d i).spent then freeGroup s d i else s

/-- Every such group of a die. -/
def reapGroups (s : State) (d : Nat) : State := ((s.die d).groups.map (·.1)).foldl (reapGroup d) s

/-- The stores of a record perform in order (R236, R381 step 2); one whose line has a write pending holds the rest. -/
def writeOut (s : State) : List (Nat × List Byte) → State × List (Nat × List Byte)
  | [] => (s, [])
  | (fa, bs) :: t =>
    if !s.here fa then writeOut s t
    else if homeFree s fa then writeOut (storeBytes s fa bs) t
    else (s, (fa, bs) :: t)

/-- An ending group goes on as far as it can: its record, the words to its children (R384), the losers freed (R385), the rest once
every stream processor has answered. -/
def goGroup (d : Nat) (s : State) (i : Nat) : State :=
  if !(s.group d i).ending then s
  else
    let (s, rest) := writeOut s (s.group d i).out
    let g := s.group d i
    let s := s.setGroup d i { g with out := rest }
    if !rest.isEmpty then s
    else
      let h := s.groupHandle d i
      let s := s.setGroup d i { g with out := [], sends := [], lose := [], frees := g.frees + g.lose.length }
      let s := g.sends.foldl (fun s c => toGroup s d g.dom c.1 (.descent c.1 c.2)) s
      let s := g.lose.foldl (fun s x => sendPacket s
        { cls := 1, src := joinSender d g.dom, pkg := hPkg x, die := hDie x, core := streamUnit, body := .prune x h }) s
      if (s.group d i).frees = 0 then endGroup s d i else s

/-- The end of a group begins: its record, words to children, losers. -/
def beginEnd (s : State) (d i : Nat) (entries : List Cand) (notChosen : Bool) (sends : List (BitVec 32 × Option FVal))
    (lose : List (BitVec 32)) : State :=
  let g := s.group d i
  goGroup d (s.setGroup d i { g with
    ending := true, out := recordStores s d i entries notChosen, sends := sends, lose := lose }) i

/-- Candidates in ascending key, equals in order of receipt. -/
def keyInsert (c : Cand) : List Cand → List Cand
  | [] => [c]
  | x :: t => if c.key.toNat < x.key.toNat then c :: x :: t else x :: keyInsert c t

/-- A mass as a dyadic: negative and NaN count as +0; none for +∞. -/
def massOf : FVal → Option (Int × Int)
  | .nan _ => some (0, 0)
  | .inf n => if n then some (0, 0) else none
  | .fin n m e => if n then some (0, 0) else some (m, e)

/-- The walk of R384: the first candidate whose running sum exceeds the target, and the remainder. -/
def walkMass (t : Int × Int) : List Cand → Int × Int → Option (Cand × (Int × Int))
  | [], _ => none
  | c :: l, run =>
    let next := dAdd run ((massOf c.v).getD (0, 0))
    if dLe next t then walkMass t l next else some (c, dAdd t (-run.1, run.2))

def dyadicVal (x : Int × Int) : FVal := .fin (decide (x.1 < 0)) x.1.natAbs x.2

/-- The chosen candidate of a walk, with the remainder. -/
def chooseCand (l : List Cand) (t : Int × Int) : Option (Cand × (Int × Int)) :=
  let l := l.foldl (fun r c => keyInsert c r) []
  match l.find? (fun c => decide (c.v = .inf false)) with
  | some c => some (c, (0, 0))
  | none =>
    match walkMass t l (0, 0) with
    | some r => some r
    | none => l.head?.map (fun c => (c, (0, 0)))

/-- The descent in a group: its record, the word to its children, its signal, FREE (R384). -/
def descend (s : State) (d i : Nat) (target : Option (Int × Int)) : State :=
  let g := s.group d i
  let pick := match target with
    | some t => chooseCand g.cands t
    | none => none
  let entries : List Cand := match pick with
    | some (c, r) => [{ v := dyadicVal r, key := c.key }]
    | none => []
  let sends := g.cands.filterMap (fun c => c.child.map (fun h =>
    (h, match pick with
      | some (c', r) => if c'.child = some h then some (dyadicVal r) else none
      | none => none)))
  beginEnd s d i entries (decide (target = none)) sends []

/-- The total mass of a DESCEND group: exact, +∞ when any mass is. -/
def totalMass (l : List Cand) : FVal :=
  if l.any (fun c => decide (c.v = .inf false)) then .inf false
  else dyadicVal (l.foldl (fun a c => dAdd a ((massOf c.v).getD (0, 0))) (0, 0))

/-- The target of a DESCEND root: u × T (R384). -/
def rootTarget (g : Group) : Int × Int :=
  let u := philoxBlock g.key.toNat g.ctr.toNat % 2 ^ 32
  let t := ((totalMass g.cands).dyadic).getD (0, 0)
  (t.1 * (2 * (u / 512) + 1 : Nat), t.2 - 24)

/-- Losing streams of a pruning group (R385). -/
def losers (g : Group) (res : List Cand) : List (BitVec 32) :=
  if g.op = 0 ∨ g.op = 3 then
    let n := res.length
    let r := ranked g.cands
    let won := (r.take n).filterMap (·.stream)
    (((r.drop n).filterMap (·.stream)).filter (fun h => !won.contains h)).eraseDups
  else []

/-- A group completes (R381): by its last arrival, or by JGET.close. -/
def completeGroup (s : State) (d i : Nat) (short : Bool) : State :=
  let g := s.group d i
  let s := s.setGroup d i { g with completing := true, short := short, closed := g.closed || short }
  if g.op = 4 then
    match g.parent with
    | none => if g.cands.isEmpty then beginEnd s d i [] false [] []
              else descend s d i (some (rootTarget g))
    | some p =>
      let h := s.groupHandle d i
      let s := toGroup s d g.dom p (.child p h [{ v := totalMass g.cands, key := g.keyp.setWidth 64, child := some h }])
      let g := s.group d i
      s.setGroup d i { g with st := .descent }
  else
    let res := groupResult g
    let s := s.setGroup d i { s.group d i with result := res }
    beginEnd s d i res false [] (if g.prune then losers g res else [])

/-- A group whose record cannot be read ends as by JGET.close with N 0, with an INTEGRITY record (R465); which unit counts the error is
the model's choice (log entry 29). -/
def loseGroup (s : State) (d i : Nat) : State :=
  let s := integrityReport (s.detect d 104) d 3 0 104 0
  let g := s.group d i
  let s := s.setGroup d i { g with bad := false, cands := [] }
  if g.st = .open ∧ ¬g.completing then completeGroup s d i true
  else if g.ending ∨ g.spent then s
  else beginEnd (s.setGroup d i { s.group d i with short := true }) d i [] false [] []

/-- A pruned stream's processor has answered (R381 step 3). -/
def pruneAnswered (s : State) (g : BitVec 32) (freed : Bool) : State :=
  match s.groupOf g with
  | none => s
  | some (d, i) =>
    let x := s.group d i
    let s := if freed then s.setDie d ((s.die d).count 0x0C) else s
    let s := s.setGroup d i { x with frees := x.frees - 1 }
    if x.frees = 1 then endGroup s d i else s

/-! ## JOPEN (R376 to R378) -/

/-- A register as its instruction would read it, for finding what else that reads. -/
def regPeek (a : SetState) (ix r : Nat) : W128 := match regRead a ix r with | .ok v => v | .error _ => 0

/-- A DESCEND root reads C+1. -/
def jopenRoot (b : W128) : Bool := decide (fld b 63 60 = 4) && !bit b 56

def useJopen (d : BitVec 7) (t : TailV) : Use :=
  { vBC d t 0 true with dyn := fun a ix => if jopenRoot (regPeek a ix t.b.toNat) then [t.c.toNat + 1] else [] }

/-- The specification and destination words are legal (R376, R377, R391). -/
def jopenLegal (b c : W128) : Bool :=
  let op := fld b 63 60
  decide (fld b 127 96 = 0 ∧ op < 5 ∧ fld c 80 64 = 0 ∧ fld b 47 32 ≠ 0) &&
  (if op = 3 then decide (1 ≤ fld b 55 48 ∧ fld b 55 48 ≤ 64) else decide (fld b 55 48 = 0)) &&
  (!(op = 2 || op = 4) || decide (fld b 59 58 < 2))

/-- Is the parent current, OPEN, of the same OP, VT and DOM? -/
def parentOk (s : State) (p : BitVec 32) (op vt : Nat) (dom : BitVec 12) : Bool :=
  match s.groupOf p with
  | some (d, i) => let g := s.group d i
    decide (g.st = .open ∧ ¬g.completing ∧ g.op = op ∧ g.vt = vt ∧ g.dom = dom)
  | none => false

/-- Does a parent on another package accept (log entry 25)? -/
def awayParent (s : State) : Bool := decide (Config.freePick (s.tick * 65536 + 1) % 2 = 0)

/-- The fabric addresses of the record's lines: none for BADDST. -/
def recordLines (s : State) (e : Env) (c : W128) (bytes : Nat) : Res (Option (List Nat)) :=
  let va := fld c 63 0
  if sext 16 (fld c 96 81) ≠ 0 ∧ (11 < fld c 115 112 ∨ 95 < fld c 111 105) then .ok none
  else if va = 0 then .ok (some [])
  else if va % 64 ≠ 0 then .ok none
  else rangeFas s (agentOf e) { w := true } 2 (fun fa => decide (faClass fa = 2 ∨ faClass fa = 3) && faOk fa)
    ((List.range ((bytes + 63) / 64)).map (fun j => va + 64 * j))

/-- JOPEN. -/
def execJopen (d : BitVec 7) (t : TailV) (s : State) : Host.Outcome State Fault Refusal :=
  ctxRun (useJopen d t) (fun e s => do
    let a := s.act e.d e.c
    let b ← regRead a e.ix t.b.toNat
    let c ← regRead a e.ix t.c.toNat
    if !jopenLegal b c then raise illegalOp
    else
      let r ← if jopenRoot b then regRead a e.ix (t.c.toNat + 1) else pure 0
      let op := fld b 63 60
      let vt := fld b 59 58
      let k := fld b 55 48
      let dom := (s.ctx e).dom
      let par : BitVec 32 := BitVec.ofNat 32 (fld b 95 64)
      let bad := fun (n : Nat) => answer s e d (handleStatus noHandle n)
      match ← recordLines s e c (if op = 3 then 16 + 16 * k else 32) with
      | none => pure (bad 6)
      | some lines =>
        if !released s e then stall s
        else if bit b 56 && !(if s.streamAway par then awayParent s else parentOk s par op vt dom) then pure (bad 4)
        else
          let s := reapGroups s e.d
          match (List.range 1024).find? (fun i => decide ((s.group e.d i).st = .free)) with
          | none => pure (answer (s.setDie e.d ((s.die e.d).count 0x0B)) e d (handleStatus noHandle 2))
          | some i =>
            let g : Group :=
              { st := .open, inc := (s.group e.d i).inc, op := op, vt := vt, prune := bit b 57,
                parent := if bit b 56 then some par else none, k := k, count := fld b 47 32, keyp := b.setWidth 32,
                dom := dom, destw := BitVec.ofNat 64 (fld c 127 64), dst := lines, key := r.setWidth 64,
                ctr := BitVec.ofNat 64 (fld r 127 64) }
            let s := s.setGroup e.d i g
            pure (answer s e d (handleStatus (s.groupHandle e.d i) 0))) s

/-! ## JPUT and JGET (R379, R387) -/

def useJput (d : BitVec 7) (t : TailV) : Use := vBC d t 8 true

/-- JPUT: the post travels to the group's join unit; the slot waits for its answer. -/
def execJput (d : BitVec 7) (t : TailV) (s : State) : Host.Outcome State Fault Refusal :=
  ctxRun (useJput d t) (fun e s => do
    let a := s.act e.d e.c
    let b ← regRead a e.ix t.b.toNat
    let c ← regRead a e.ix t.c.toNat
    let h : BitVec 32 := b.setWidth 32
    match (s.pend (agentOf e)).ask, (s.pend (agentOf e)).status with
    | .post, none => stall s
    | .post, some st => pure (answer (if st = 0 then s else countRefused s e) e d st)
    | _, _ =>
      if !released s e then stall s
      else if 11 < hDie h ∨ s.unreachable (hPkg h) then pure (answer (countRefused s e) e d 1)
      else stall (sendPost s e e.d h c none)) s

/-- The map of JGET (R387). -/
def Group.map (g : Group) : Nat :=
  g.keyp.toNat + g.dom.toNat * 2 ^ 32 + g.k * 2 ^ 48 + (if g.st = .descent then 2 else 1) * 2 ^ 55 + b2n g.prune * 2 ^ 57 +
  g.vt * 2 ^ 58 + g.op * 2 ^ 60 + g.count * 2 ^ 64 + g.arr * 2 ^ 80 + (g.parent.getD noHandle).toNat * 2 ^ 96

def jgetUse (d : BitVec 7) (t : TailV) (close : BitVec 7) : Use :=
  let u := vBC d t 0x11 false
  { u with legal := u.legal && t.f = 0x10 + close }

/-- A JGET as the group's join unit answers it: the map from before a close, or all ones. A record in error is lost first (R465). -/
def groupRead (s : State) (h : BitVec 32) (close : Bool) (dom : BitVec 12) : State × Nat :=
  match s.groupOf h with
  | none => (s, 2 ^ 128 - 1)
  | some (d, i) =>
    let s := if (s.group d i).bad then loseGroup s d i else s
    let g := s.group d i
    (if close && decide (g.st = .open ∧ ¬g.completing ∧ g.dom = dom) then completeGroup s d i true else s, g.map)

/-- JGET: at once for a group of this die and for a handle that is known not to be current; else the request travels to the group's join
unit, in class control, and the slot waits for the answer (R373, R387). -/
def jgetRun (u : Use) (d : BitVec 7) (t : TailV) (close : Bool) (s : State) : Host.Outcome State Fault Refusal :=
  ctxRun u (fun e s => do
    let b ← regRead (s.act e.d e.c) e.ix t.b.toNat
    let h : BitVec 32 := b.setWidth 32
    let p := s.pend (agentOf e)
    match p.ask, p.status with
    | .post, none => stall s
    | .post, some _ => pure (answer s e d ((tget 0 p.val 0).toNat))
    | _, _ =>
      if hDie h < 12 ∧ ¬s.unreachable (hPkg h) ∧ ¬(hPkg h = s.pkg.toNat ∧ hDie h = e.d) then
        let s := sendPacket s
          { cls := 1, src := senderOf s e, pkg := hPkg h, die := hDie h, core := 0, loc := e.d, body := .get h close (agentOf e) }
        stall (s.ask (agentOf e) .post)
      else
        let (s, v) := groupRead s h close (s.ctx e).dom
        pure (answer s e d v)) s

def useJget (d : BitVec 7) (t : TailV) : Use := jgetUse d t 0
/-- JGET. -/
def execJget (d : BitVec 7) (t : TailV) (s : State) : Host.Outcome State Fault Refusal :=
  jgetRun (useJget d t) d t false s

def useJgetClose (d : BitVec 7) (t : TailV) : Use := jgetUse d t 1
/-- JGET.close: an OPEN group of the domain completes at once. -/
def execJgetClose (d : BitVec 7) (t : TailV) (s : State) : Host.Outcome State Fault Refusal :=
  jgetRun (useJgetClose d t) d t true s

/-! ## Arrivals at the join unit (R379, R383, R384, R385) -/

/-- The join unit's answer to an arrival: a status of R378. -/
def arrivalStatus (s : State) (h : BitVec 32) (dom : Option (BitVec 12)) : Nat :=
  match s.groupOf h with
  | none => 1
  | some (d, i) =>
    let g := s.group d i
    if dom ≠ none ∧ dom ≠ some g.dom then 3
    else if g.closed then 7
    else if g.completing ∨ g.st = .descent ∨ g.count ≤ g.arr then 5 else 0

/-- An accepted arrival: counted, its candidates added; the last one completes the group. -/
def arrive (s : State) (h : BitVec 32) (cs : Nat → List Cand) : State :=
  match s.groupOf h with
  | none => s
  | some (d, i) =>
    let g := s.group d i
    let s := s.setGroup d i { g with arr := g.arr + 1, cands := g.cands ++ cs g.vt }
    if g.arr + 1 = g.count then completeGroup s d i false else s

/-- A group whose record is in error is lost before an arrival is judged (R465). -/
def groupGood (s : State) (h : BitVec 32) : State :=
  match s.groupOf h with
  | some (d, i) => if (s.group d i).bad then loseGroup s d i else s
  | none => s

/-- The agent that waits for a join unit's answer has it. -/
def answerPost (s : State) (who : Agent) (st : Nat) (v : Nat) : State :=
  let q := s.pend who
  if q.ask = .post then s.setPend who { q with status := some st, val := if v = 0 then q.val else tset 0 q.val 0 (BitVec.ofNat 128 v) } else s

/-- JOIN_ARRIVAL (R373, R379): a post, or a JGET from another die. -/
def execJoinArrival (n : Nat) (s : State) : Host.Outcome State Fault Refusal :=
  match s.ready n with
  | some p =>
    match p.body with
    | .post g v key stream who =>
      let s := groupGood (s.dropPkt n) g
      let st := arrivalStatus s g (some p.src.dom)
      let s := if st = 0 then arrive s g (fun vt => [{ v := valOf vt v, key := key, stream := stream }]) else s
      .next (answerPost s who st 0)
    | .get g close who =>
      let (s, v) := groupRead (s.dropPkt n) g close p.src.dom
      .next (answerPost s who 0 v)
    | _ => .next s
  | none => .next s

/-- A DESCENT child whose result is lost is passed by (R383). -/
def childPassed (s : State) (d : Nat) (child : BitVec 32) : State :=
  match s.groupOf child with
  | some (cd, ci) => if (s.group cd ci).st = .descent then toGroup s d (s.group cd ci).dom child (.descent child none) else s
  | none => s

/-- A child's result is lost: a REMOTE report at die `d`, and the child is passed by (R383). -/
def childLost (s : State) (d : Nat) (parent child : BitVec 32) : State :=
  childPassed (s.remoteReport d 6 parent.toNat child.toNat 0) d child

/-- CHILD_RESULT_ARRIVAL (R383). -/
def execChildResultArrival (n : Nat) (s : State) : Host.Outcome State Fault Refusal :=
  match s.ready n with
  | some p =>
    match p.body with
    | .child parent child cs =>
      let s := groupGood (s.dropPkt n) parent
      let st := arrivalStatus s parent none
      .next (if st = 0 then arrive s parent (fun _ => cs) else childLost s p.die parent child)
    | _ => .next s
  | none => .next s

/-- DESCENT_STEP (R384). -/
def execDescentStep (n : Nat) (s : State) : Host.Outcome State Fault Refusal :=
  match s.ready n with
  | some p =>
    match p.body with
    | .descent g t =>
      let s := groupGood (s.dropPkt n) g
      .next (match s.groupOf g with
        | some (d, i) =>
          if (s.group d i).st = .descent ∧ ¬(s.group d i).ending ∧ ¬(s.group d i).spent then descend s d i (t.map (fun v => (v.dyadic).getD (0, 0))) else s
        | none => s)
    | _ => .next s
  | none => .next s

/-- JOIN_PRUNE (R385): held while the stream is MIGRATING. -/
def execJoinPrune (n : Nat) (s : State) : Host.Outcome State Fault Refusal :=
  match s.ready n with
  | some p =>
    match p.body with
    | .prune h g =>
      .next (match s.streamOf h with
        | some (d, i) =>
          if let some w := streamError s d i false then pruneAnswered (loseStream (s.dropPkt n) d i w) g true
          else if (s.stream d i).st = .migrating then s
          else pruneAnswered (freeStream (s.dropPkt n) d i) g true
        | none => pruneAnswered (s.dropPkt n) g false)
    | _ => .next s
  | none => .next s

/-! ## SDESC (R389) -/

def useSdesc (d : BitVec 7) (t : TailV) : Use := vBC d t 0x20 true

/-- The elements of a prefix-sum vector. -/
def sdescFind (r : FVal) (v n : Nat) : Nat :=
  let e := fun i => decodeF fmtF32 (elem v 32 i)
  match (List.range n).find? (fun i => decide (cmpF (e i) r = some .gt)) with
  | some i => 2 ^ 32 + i
  | none =>
    let last := elem v 32 (n - 1)
    if (e (n - 1)).isNan then ((List.range n).find? (fun i => decide (elem v 32 i = last))).getD (n - 1)
    else ((List.range n).find? (fun i => decide (cmpF (e i) (e (n - 1)) = some .eq))).getD (n - 1)

/-- SDESC. -/
def execSdesc (d : BitVec 7) (t : TailV) (s : State) : Host.Outcome State Fault Refusal :=
  setRun (useSdesc d t) (fun e a => do
    let b ← regRead a e.ix t.b.toNat
    let c ← regRead a e.ix t.c.toNat
    let addr := fld b 19 0
    let n := fld b 36 20
    if n = 0 ∨ 65536 < n ∨ fld b 63 37 ≠ 0 ∨ fld b 127 96 ≠ 0 then raise illegalOp
    else if addr % 4 ≠ 0 then raiseAt alignFault addr
    else
      let v ← padRd a (a.ctx e.ix) addr addr (4 * n)
      let f := sdescFind (decodeF fmtF32 (fld c 31 0)) v n
      pure (regWrite a e.ix d.toNat (f / 2 ^ 32 * 2 ^ 32 + (fld b 95 64 + f) % 2 ^ 32) allBytes)) s

/-! ## PERFR (R390) -/

def usePerfr (d : BitVec 7) (t : TailV) : Use :=
  let u := vBC d t 9 false
  { u with legal := u.legal && decide (t.f.toNat / 8 = 1) }

/-- PERFR: a core's counter is read and, with CLR, cleared; a die's counter is read. -/
def execPerfr (d : BitVec 7) (t : TailV) (s : State) : Host.Outcome State Fault Refusal :=
  ctxRun (usePerfr d t) (fun e s => do
    let b ← regRead (s.act e.d e.c) e.ix t.b.toNat
    let n := fld b 7 0
    if fld b 127 8 ≠ 0 ∨ ¬(n < 4 ∨ (8 ≤ n ∧ n < 0xD)) then raise illegalOp
    else if n < 4 then
      let k := s.core e.d e.c
      let v := (tget 0 k.perf n).toNat
      let s := if t.f.getLsbD 0 then s.setCore e.d e.c { k with perf := tset 0 k.perf n 0 } else s
      pure (s.setAct e.d e.c (regWrite (s.act e.d e.c) e.ix d.toNat v allBytes))
    else
      let v := (tget 0 (s.die e.d).perf n).toNat
      pure (s.setAct e.d e.c (regWrite (s.act e.d e.c) e.ix d.toNat v allBytes))) s

end Sys2Proof.Machine
end

