-- ==== Sys2Proof/Machine/Fabric.lean ====
section
/-! DEFINITION. Packets on their way (R444 to R452), integrity counters, links and spares (R463 to R468). -/

namespace Sys2Proof.Machine

/-! ## Records of KIND 9 (R468) -/

abbrev evSpare : Nat := 1
abbrev evFailwarn : Nat := 2

/-- SPLEFT of a unit. -/
def Die.spares (v : Die) (d k : Nat) : Nat := fld (v.err d k) 55 48

/-- A spare of a unit is brought in and reported, or none is left: FAILWARN with CAUSE 2. True when there was one. -/
def takeSpare (s : State) (d k : Nat) : State × Bool :=
  let v := s.die d
  let n := v.spares d k
  if n = 0 then (integrityReport s d evFailwarn 2 k 0, false)
  else
    let x : W64 := BitVec.ofNat 64 (putFld (v.err d k).toNat 48 8 (n - 1))
    (integrityReport (s.setDie d (v.setErr d k x)) d evSpare 0 k 0, true)

/-- Controller cycles of the RATE window. -/
abbrev rateCycles : Nat := 2 ^ 24

/-- A corrected error of a unit: counted in CORR, and against RATE over the last 2^24 cycles (R464, R467, R468). -/
def corrected (s : State) (d k : Nat) : State :=
  let v := s.die d
  let c := Nat.min 0xFFFFFFFF (fld (v.err d k) 31 0 + 1)
  let recent : List W64 := v.dcyc :: v.errAt.filter (fun t => decide ((v.dcyc - t).toNat < rateCycles))
  let v : Die := { v.setErr d k (BitVec.ofNat 64 (putFld (v.err d k).toNat 0 32 c)) with errAt := recent }
  let rate : Nat := fld (v.reg 0x58000) 31 0
  if rate ≠ 0 ∧ rate ≤ recent.length ∧ v.failAt.isNone then
    integrityReport (s.setDie d { v with failAt := some v.dcyc }) d evFailwarn 1 k 0
  else s.setDie d v

/-- RATE_WINDOW (R468): 2^24 controller cycles after a FAILWARN of CAUSE 1. -/
def execRateWindow (d : Nat) (s : State) : Host.Outcome State Fault Refusal :=
  let v := s.die d
  match v.failAt with
  | some t => if rateCycles ≤ (v.dcyc - t).toNat then .next (s.setDie d { v with failAt := none }) else .next s
  | none => .next s

/-! ## Words in error (R462, R464, R466) -/

/-- Where an error strikes: its die, the unit of R467 that counts it, and the number of the word in that unit's memories; none outside the
machine's memories. -/
def flawAt (s : State) : Flaw → Option (Nat × Nat × Nat)
  | .pad d c g => if d < 12 ∧ c < 96 ∧ g < 65536 then some (d, physOf (s.die d) c, 65536 * b2n (s.core d c).setB + g) else none
  | .acc d c i => if d < 12 ∧ c < 96 ∧ i < 16384 then some (d, physOf (s.die d) c, 2 ^ 17 + 16384 * b2n (s.core d c).setB + i) else none
  | .wbuf d c i => if d < 12 ∧ c < 96 ∧ i < 32768 then some (d, physOf (s.die d) c, 2 ^ 18 + i) else none
  | .mem fa =>
    if faOk fa ∧ s.here fa then
      if faClass fa = 3 then some (faDie fa, 128 + faUnit fa, faOff fa / 64)
      else if faClass fa = 2 then some (faDie fa, 104 + faUnit fa, faOff fa / 16)
      else none
    else none
  | .stream d i => if d < 12 ∧ i < 8192 then some (d, 104, 2 ^ 20 + i) else none
  | .group d i => if d < 12 ∧ i < 1024 then some (d, 104, 2 ^ 21 + i) else none

/-- A core's SRAM has no spare row left for a granule: its bank gives up a step at the next die reset (R153, R466). -/
def bankShrinks (s : State) : Flaw → State
  | .pad d c g =>
    let k := s.core d c
    let b := g / 4096 + 16 * b2n k.setB
    s.setCore d c { k with lostDue := tset 0 k.lostDue b (tget 0 k.lostDue b + 1) }
  | _ => s

/-- A read meets an error that its code corrects (R464): it is counted, also against the row or channel that holds the word. A row
of SRAM at RTHR has its spare brought in at once (R466). -/
def correctWord (s : State) (w : Flaw) (d k n : Nat) : State :=
  let s := corrected s d k
  let v := s.die d
  let key := 2 ^ 40 * k + Config.repairRow n % 2 ^ 40
  let c := tget 0 v.rowErr key + 1
  let worn := decide (fld (v.reg 0x58000) 63 32 ≤ c ∧ k < 128)
  let s := s.setDie d { v with rowErr := tset 0 v.rowErr key (if worn then 0 else c) }
  if worn then
    match takeSpare s d k with
    | (s, true) => s
    | (s, false) => bankShrinks s w
  else s

/-- A word comes to hold an error that its code only detects: every later read finds it, until the word is written whole (R464). -/
def breakWord (s : State) (w : Flaw) : State :=
  match w with
  | .pad d c g =>
    let a := s.act d c
    match tfind a.pad g with
    | some x => s.setAct d c { a with pad := tins a.pad g { x with bad := true } }
    | none => s
  | .acc d c i => let a := s.act d c; s.setAct d c { a with accBad := if a.accBad.contains i then a.accBad else a.accBad ++ [i] }
  | .wbuf d c i => let k := s.core d c; s.setCore d c { k with wbufBad := if k.wbufBad.contains i then k.wbufBad else k.wbufBad ++ [i] }
  | .mem fa =>
    let b := fa / wordLen fa * wordLen fa
    { s with memBad := if s.memBad.contains b then s.memBad else s.memBad ++ [b] }
  | .stream d i => let v := s.die d; s.setDie d (v.setStream i { v.stream i with bad := true })
  | .group d i => s.setGroup d i { s.group d i with bad := true }

/-- An error strikes a protected word. -/
def strike (s : State) (w : Flaw) (corr : Bool) : State :=
  match flawAt s w with
  | none => s
  | some (d, k, n) => if corr then correctWord s w d k n else breakWord s w

/-! ## Links (R452, R463, R466) -/

/-- A Lamong port comes up or goes down, and its die reports it; one that comes up during start-up is reported once the post box
is enabled (R496). -/
def setLink (s : State) (i : Nat) (up : Bool) : State :=
  let m := 1#6 <<< i
  let s := { s with up := if up then s.up ||| m else s.up &&& ~~~m }
  if s.boot < 5 then { s with unreported := if up then s.unreported ||| m else s.unreported &&& ~~~m }
  else s.report (lamongDie i) 11 (i + b2n up * 256)

/-- LINK_UP. -/
def execLinkUp (i : Nat) (s : State) : Host.Outcome State Fault Refusal :=
  if i < 6 ∧ s.up.getLsbD i = false ∧ 3 ≤ s.boot then .next (setLink s i true) else .next s

/-- LINK_DOWN. -/
def execLinkDown (i : Nat) (s : State) : Host.Outcome State Fault Refusal :=
  if i < 6 ∧ s.up.getLsbD i then .next (setLink s i false) else .next s

/-- Does a die have a neighbour on side -X, +X, -Y or +Y of the grid of 4 columns by 3 rows (R10)? -/
def sideJoined (d side : Nat) : Bool :=
  match side with
  | 0 => decide (0 < d % 4)
  | 1 => decide (d % 4 < 3)
  | 2 => decide (0 < d / 4)
  | _ => decide (d / 4 < 2)

/-- A unit of R467 that is a port: die-to-die on a side that is connected (R10), Lamong where the die carries it. -/
def isPort (d k : Nat) : Bool :=
  decide (d < 12) &&
  ((decide (130 ≤ k ∧ k < 162) && sideJoined d ((k - 130) / 8)) || decide (162 ≤ k ∧ k < 168 ∧ lamongDie (k - 162) = d))

/-- FLIT_REPLAY (R463): a flit fails its check on a lane of a port and is sent again; the error is counted. -/
def execFlitReplay (d k lane : Nat) (s : State) : Host.Outcome State Fault Refusal :=
  if !isPort d k || decide (256 ≤ lane) then .next s
  else
    let key := 256 * k + lane
    let s := corrected s d k
    let v := s.die d
    .next (s.setDie d { v with
      replays := tset 0 v.replays key (tget 0 v.replays key + 1), laneErr := tset 0 v.laneErr key (tget 0 v.laneErr key + 1) })

/-- Does a lane need its spare: 8 failed replays of one flit, or RTHR corrected errors (R463, R466)? -/
def laneWorn (v : Die) (key : Nat) : Bool :=
  decide (8 ≤ tget 0 v.replays key) || decide (fld (v.reg 0x58000) 63 32 ≤ tget 0 v.laneErr key)

/-- LANE_RETRAIN (R463, R466): a spare lane takes over and the port retrains; with none left the port goes down. -/
def execLaneRetrain (d k lane : Nat) (s : State) : Host.Outcome State Fault Refusal :=
  let key := 256 * k + lane
  if !isPort d k || decide (256 ≤ lane) || !laneWorn (s.die d) key then .next s
  else
    let (s, ok) := takeSpare s d k
    let v := s.die d
    let s := s.setDie d { v with replays := tset 0 v.replays key 0, laneErr := tset 0 v.laneErr key 0 }
    if ok then .next s
    else
      let v := s.die d
      let s := s.setDie d { v with downPorts := if v.downPorts.contains k then v.downPorts else v.downPorts ++ [k] }
      .next (if 162 ≤ k ∧ s.up.getLsbD (k - 162) then setLink s (k - 162) false else s)

/-- The channel of a stack whose corrected count has reached RTHR. -/
def wornChannel (v : Die) (stack : Nat) : Option Nat :=
  (v.rowErr.find? (fun p => decide (p.1 / 2 ^ 40 = 128 + stack ∧ fld (v.reg 0x58000) 63 32 ≤ p.2))).map (·.1)

/-- HBM_CHANNEL_SPARE (R466): the HBM controller has copied a channel of a stack, whose corrected count reached RTHR, to its spare. -/
def execHbmChannelSpare (d stack : Nat) (s : State) : Host.Outcome State Fault Refusal :=
  match (if 12 ≤ d ∨ 2 ≤ stack then none else wornChannel (s.die d) stack) with
  | some key =>
    let v := s.die d
    .next (takeSpare (s.setDie d { v with rowErr := tset 0 v.rowErr key 0 }) d (128 + stack)).1
  | none => .next s

/-! ## Routing (R448 to R450) -/

/-- The next die from `x` to `y` in the die grid: column first, then row. -/
def nextDie (x y : Nat) : Nat :=
  if x % 4 < y % 4 then x + 1 else if y % 4 < x % 4 then x - 1 else if x / 4 < y / 4 then x + 4 else if y / 4 < x / 4 then x - 4 else x

/-- The die at which a packet leaves or is used: its target, or the die of the Lamong port its route takes. -/
def exitDie (s : State) (p : Packet) : Nat :=
  if p.pkg = s.pkg.toNat then p.die else lamongDie ((s.routePort p.pkg).getD 0)

/-- Unit of the die-to-die port a packet leaves die `x` by, toward die `y`: side -X, +X, -Y, +Y, port (destination quad) mod 8. -/
def hopPort (x y core : Nat) : Nat :=
  let side := if y + 1 = x then 0 else if y = x + 1 then 1 else if y < x then 2 else 3
  130 + 8 * side + core / 4 % 8

/-- A packet that goes on from the output where it stands: its next die, or out of the package. -/
def nextHop (s : State) (p : Packet) : Nat := nextDie p.loc (exitDie s p)

/-- The output a packet waits at, by the unit of its port (R467): die-to-die toward its next die, Lamong out of the package; 0 where it has
arrived. -/
def outputOf (s : State) (p : Packet) : Nat :=
  if p.loc ≠ exitDie s p then hopPort p.loc (nextHop s p) p.core
  else if p.pkg = s.pkg.toNat then 0
  else 162 + (s.routePort p.pkg).getD 0

/-- Two packets wait at one output. -/
def sameOutput (s : State) (p q : Packet) : Bool :=
  !q.evicted && decide (q.loc = p.loc ∧ outputOf s q = outputOf s p ∧ outputOf s p ≠ 0)

/-- Packets of a higher class wait for the same output (R445). -/
def outranked (s : State) (p : Packet) : Bool := s.net.any (fun q => sameOutput s p q && decide (q.cls < p.cls))

/-- Is a packet the head of its class at its output (R445)? -/
def headOfClass (s : State) (p : Packet) : Bool := s.net.all (fun q => !sameOutput s p q || decide (q.cls ≠ p.cls ∨ p.id ≤ q.id))

/-- What a discarded packet leaves: the report of R498 and what its sender sees (R116, R117, R216, R381, R383, R385). -/
def discard (s : State) (d : Nat) (p : Packet) : State :=
  match p.body with
  | .message h _ _ => (endEntry s p.src false).remoteReport d 1 (fld h 127 64) p.src.handle 0
  | .signal _ _ route group =>
    (match group with
     | none => s.remoteReport d 2 route.toNat p.src.handle 0
     | some g => s.remoteReport d 7 route.toNat g.toNat 0)
  | .channel _ _ route => s.remoteReport d 3 route.toNat p.src.handle 0
  | .child parent child _ => childLost s d parent child
  | .prune _ g => pruneAnswered s g false
  | .post _ _ _ _ who => answerPost s who 1 0
  | .get _ _ who => answerPost s who 0 (2 ^ 128 - 1)
  | _ => s

/-- A free status of a join unit for a post: OK, STALE, DOMAIN, OVER or CLOSED (R378). -/
def awayPost (s : State) : Nat := [0, 1, 3, 5, 7].getD (Config.freePick (s.tick * 65536) % 5) 1

/-- What a packet that leaves for another package leaves here: what its receiver there makes of it is free (log entries 4, 25). A message is
accepted or not, a prune, a post and a JGET are answered, a child's result is refused, or taken, and then a DESCEND child hears of the
descent. -/
def depart (s : State) (p : Packet) : State :=
  match p.body with
  | .message _ _ _ => endEntry s p.src (Config.freePick (s.tick * 65536) % 2 = 0)
  | .prune _ g => pruneAnswered s g (Config.freePick (s.tick * 65536) % 2 = 0)
  | .post _ _ _ _ who => answerPost s who (awayPost s) 0
  | .get _ _ who => answerPost s who 0 (awayWord s)
  | .child _ child _ =>
    if Config.freePick (s.tick * 65536) % 2 = 0 then childPassed s p.loc child
    else match s.groupOf child with
      | some (d, i) =>
        if (s.group d i).st = .descent then
          toGroup s d (s.group d i).dom child (.descent child
            (if Config.freePick (s.tick * 65536 + 1) % 2 = 0 then none else some (decodeF fmtF64 (s.free 0).toNat)))
        else s
      | none => s
  | _ => s

/-- The port a packet enters die `y` by, coming from die `x`: the one that faces the port it left by. -/
def enterPort (x y core : Nat) : Nat := hopPort y x core

/-- One hop of a packet: across a die boundary whose port is not down, out of the package, or into the discard of the first
port that finds it unreachable (R452). -/
def hop (s : State) (p : Packet) : State :=
  let x := exitDie s p
  if p.loc ≠ x then
    let y := nextDie p.loc x
    if (s.die p.loc).downPorts.contains (hopPort p.loc y p.core) then s
    else { s with net := s.net.map (fun q => if q.id = p.id then { q with loc := y, via := enterPort p.loc y p.core, waited := 0 } else q) }
  else if p.pkg = s.pkg.toNat then s
  else if s.unreachable p.pkg then discard (s.dropPkt p.id) x p
  else depart (s.dropPkt p.id) p

/-- The packet that an urgent one evicts: the youngest of the lowest class in the input buffer it meets, that of the port it enters its next
die by (R446). -/
def victimOk (s : State) (p : Packet) (m : Nat) : Bool :=
  let y := nextHop s p
  let port := enterPort p.loc y p.core
  match s.pkt m with
  | some q =>
    decide (p.cls = 0 ∧ q.cls ≠ 0 ∧ q.loc = y ∧ q.loc ≠ p.loc ∧ q.via = port) && !q.evicted &&
    s.net.all (fun r => r.evicted || decide (r.loc ≠ y ∨ r.via ≠ port ∨ r.cls < q.cls ∨ (r.cls = q.cls ∧ r.id ≤ q.id)))
  | none => false

/-- PACKET_ROUTE (R445, R446, R448): the packet takes one hop in class order, evicting a packet where its buffer is full. -/
def execPacketRoute (n : Nat) (evict : Option Nat) (s : State) : Host.Outcome State Fault Refusal :=
  match s.pkt n with
  | some p =>
    if p.evicted || outranked s p then .next s
    else
      match evict with
      | none => .next (hop s p)
      | some m =>
        if victimOk s p m then
          .next (hop { s with net := s.net.map (fun q => if q.id = m then { q with evicted := true } else q) } p)
        else .next s
  | none => .next s

/-- EVICTION_NOTICE (R446): the source sends the packet again. -/
def execEvictionNotice (n : Nat) (s : State) : Host.Outcome State Fault Refusal :=
  .next { s with net := s.net.map (fun q => if q.id = n ∧ q.evicted then { q with evicted := false, loc := q.src.die, via := 0, waited := 0 } else q) }

/-- END_TO_END_ACK (R446): the packet has left the fabric, and its source keeps it no longer. -/
def execEndToEndAck (n : Nat) (s : State) : Host.Outcome State Fault Refusal :=
  if (s.pkt n).isNone then .next { s with kept := s.kept.filter (fun k => decide (k ≠ n)) } else .next s

/-- CLASS_AGING (R445): a class whose head packet has waited 1,024 cc at an output gets the next slot there. -/
def execClassAging (n : Nat) (s : State) : Host.Outcome State Fault Refusal :=
  match s.pkt n with
  | some p => if !p.evicted && headOfClass s p && decide (1024 ≤ p.waited) then .next (hop s p) else .next s
  | none => .next s

end Sys2Proof.Machine
end

