-- ==== Sys2Proof/Machine/Csr.lean ====
section
/-! DEFINITION. The hart's CSRs: the custom ones (R123 to R126) and the standard ones of the profile R119, whose addresses and
fields are the standard's (log entry 5). -/

namespace Sys2Proof.Machine

/-! ## Which CSRs there are -/

/-- Custom CSRs (R123). -/
def customCsrs : List Nat := [0x8C0, 0x8C1, 0x8C2, 0xCC0, 0xCC1, 0xCC2, 0xCC3, 0xCC4, 0x5C0, 0x5C1, 0x5C2, 0x5C3]

/-- The address ranges that R123 reserves for custom CSRs. -/
def customRange (a : Nat) : Bool := decide (a / 16 = 0x8C ∨ a / 16 = 0xCC ∨ a / 16 = 0x5C ∨ a / 16 = 0x7C)

/-- Standard CSRs of an M, S and U profile with F, D and V, without H (R119). -/
def standardCsr (a : Nat) : Bool :=
  [0x001, 0x002, 0x003, 0x008, 0x009, 0x00A, 0x00F, 0x100, 0x104, 0x105, 0x106, 0x140, 0x141, 0x142, 0x143, 0x144, 0x180,
   0x300, 0x301, 0x302, 0x303, 0x304, 0x305, 0x306, 0x320, 0x340, 0x341, 0x342, 0x343, 0x344,
   0xF11, 0xF12, 0xF13, 0xF14, 0xF15].contains a ||
  decide (0x323 ≤ a ∧ a ≤ 0x33F) || decide (0x3A0 ≤ a ∧ a ≤ 0x3EF) ||
  decide (a = 0xB00 ∨ a = 0xB02 ∨ (0xB03 ≤ a ∧ a ≤ 0xB1F)) || decide (0xC00 ≤ a ∧ a ≤ 0xC22)

/-- Is there a CSR at an address? -/
def csrExists (a : Nat) : Bool := if customRange a then customCsrs.contains a else standardCsr a

/-- May a hart in a mode access a CSR, and write it? By the address bits of the standard. -/
def csrAllowed (md : Mode) (a : Nat) (write : Bool) : Bool :=
  csrExists a && decide (a / 256 % 4 ≤ md.rank) && !(write && decide (a / 1024 = 3))

/-! ## Reading -/

/-- Bits of mstatus that sstatus shows. -/
abbrev sstatusMask : W64 := 0x80000003000DE762

/-- Writable bits of mstatus: SIE, MIE, SPIE, MPIE, SPP, VS, MPP, FS, MPRV, SUM, MXR, TVM, TW, TSR. -/
abbrev mstatusMask : W64 := 0x00000000007E7FAA

/-- mstatus as it reads: UXL and SXL 2, SD when FS or VS is dirty. -/
def statusRead (h : Hart) : W64 :=
  h.mstatus ||| 0xA00000000 ||| (if fld h.mstatus 14 13 = 3 ∨ fld h.mstatus 10 9 = 3 then 0x8000000000000000 else 0)

/-- The local interrupts as mip bits (R127). -/
def pendingBits (k : Core) : W64 :=
  localCauses.foldl (fun w c => if causePending k c then w ||| (1#64 <<< c) else w) 0

/-- mhartid (R119). -/
def hartId (s : State) (d c : Nat) : W64 := BitVec.ofNat 64 (s.pkg.toNat * 2 ^ 11 + d % 16 * 2 ^ 7 + c % 128)

/-- mk_fault (R126). -/
def faultCsr (k : Core) : W64 :=
  BitVec.ofNat 64 (k.act.fmask.toNat + k.act.first.toNat * 2 ^ 32 + k.act.ffcode.toNat * 2 ^ 40 + b2n k.frz * 2 ^ 48)

/-- mk_slice (R126). -/
def sliceCsr (k : Core) : W64 := BitVec.ofNat 64 (k.remain.toNat + b2n k.preq * 2 ^ 62 + b2n k.pack * 2 ^ 63)

/-- The value of a CSR. Counters of the standard (cycle, time, instret, hpm) are not described (log entry 3). -/
def csrValue (s : State) (d c a : Nat) : W64 :=
  let k := s.core d c
  let h := k.hart
  match a with
  | 0x8C0 => BitVec.ofNat 64 (k.act.upVec.toNat * 64 + b2n k.act.upBusy * 32 + b2n k.act.upEn)
  | 0x8C1 => k.gangto.setWidth 64
  | 0x8C2 => faultCsr k
  | 0xCC0 => k.load
  | 0xCC1 => k.cyc
  | 0xCC2 => BitVec.ofNat 64 (k.capA.toNat + k.capB.toNat * 2 ^ 17)
  | 0xCC3 | 0x5C1 => sliceCsr k
  | 0xCC4 | 0x5C0 => k.dom.setWidth 64
  | 0x5C2 => k.act.cache.setWidth 64
  | 0x5C3 => BitVec.ofNat 64 (k.member.toNat + k.hwm.toNat * 2 ^ 8)
  | 0x001 => h.fcsr &&& 0x1F
  | 0x002 => (h.fcsr >>> 5) &&& 7
  | 0x003 => h.fcsr
  | 0x00F => (tget 0 h.csrs 0x00A <<< 1) ||| tget 0 h.csrs 0x009
  | 0xC20 => tget 0 h.csrs 0xC20
  | 0xC21 => tget 0x8000000000000000 h.csrs 0xC21
  | 0xC22 => 64
  | 0x100 => statusRead h &&& sstatusMask
  | 0x104 => h.mie &&& h.mideleg
  | 0x105 => h.stvec
  | 0x140 => h.sscratch
  | 0x141 => h.sepc
  | 0x142 => h.scause
  | 0x143 => h.stval
  | 0x144 => (tget 0 h.csrs 0x344 ||| pendingBits k) &&& h.mideleg
  | 0x300 => statusRead h
  | 0x301 => 0x800000000034112D
  | 0x302 => h.medeleg
  | 0x303 => h.mideleg
  | 0x304 => h.mie
  | 0x305 => h.mtvec
  | 0x340 => h.mscratch
  | 0x341 => h.mepc
  | 0x342 => h.mcause
  | 0x343 => h.mtval
  | 0x344 => tget 0 h.csrs 0x344 ||| pendingBits k
  | 0xF11 => 0
  | 0xF12 => 0xB1
  | 0xF13 => BitVec.ofNat 64 Config.mimpid
  | 0xF14 => hartId s d c
  | _ =>
    if a / 1024 = 3 ∨ (0xB00 ≤ a ∧ a ≤ 0xB1F) then s.free 0
    else if 0x3A0 ≤ a ∧ a ≤ 0x3EF then 0
    else tget 0 h.csrs a

/-! ## Writing -/

/-- Bits of `new` under the mask, the rest of `old`. -/
def maskWrite (m old new : W64) : W64 := (old &&& ~~~m) ||| (new &&& m)

/-- mstatus after a write: MPP holds only modes there are. -/
def mstatusWrite (old new : W64) : W64 :=
  let v := maskWrite mstatusMask old new
  if fld v 12 11 = 2 then BitVec.ofNat 64 (putFld v.toNat 11 2 (fld old 12 11)) else v

/-- A vector register xtvec: modes 0 and 1. -/
def tvecWrite (old new : W64) : W64 := if new.toNat % 4 < 2 then new else BitVec.ofNat 64 (new.toNat / 4 * 4 + old.toNat % 4)

/-- mideleg as R127 leaves it: of the local causes, bits 16 to 18 and 20; of the standard ones, SSI, STI, SEI. -/
abbrev midelegMask : W64 := 0x170222

/-- Enables that mie holds: the standard ones and causes 16 to 21. -/
abbrev mieMask : W64 := 0x3F0AAA

/-- A custom CSR written (R123 to R126); mk_slice and mk_split have rows of their own and are left. -/
def customWrite (k : Core) (a : Nat) (x : W64) : Core :=
  match a with
  | 0x8C0 => { k with act := { k.act with upVec := BitVec.ofNat 58 (fld x 63 6), upEn := bit x 0 } }
  | 0x8C1 => if fld x 31 0 = 0 then k else { k with gangto := x.setWidth 32 }
  | 0x8C2 => { k with
      frz := k.frz && !bit x 48
      act := { k.act with fmask := k.act.fmask &&& ~~~(x.setWidth 32) } }
  | 0x5C0 => { k with dom := x.setWidth 12 }
  | 0x5C3 => { k with member := x.setWidth 4, hwm := if fld x 14 8 ≤ 64 then BitVec.ofNat 7 (fld x 14 8) else k.hwm }
  | _ => k

/-- FS, or VS, is dirty. -/
def Hart.dirty (h : Hart) (lo : Nat) : Hart := { h with mstatus := BitVec.ofNat 64 (putFld h.mstatus.toNat lo 2 3) }

/-- A standard CSR written. -/
def standardWrite (h : Hart) (a : Nat) (x : W64) : Hart :=
  match a with
  | 0x001 => { h.dirty 13 with fcsr := maskWrite 0x1F h.fcsr x }
  | 0x002 => { h.dirty 13 with fcsr := maskWrite 0xE0 h.fcsr (x <<< 5) }
  | 0x003 => { h.dirty 13 with fcsr := x &&& 0xFF }
  | 0x008 => { h.dirty 9 with csrs := tset 0 h.csrs 0x008 (x &&& 0x1FF) }
  | 0x009 => { h.dirty 9 with csrs := tset 0 h.csrs 0x009 (x &&& 1) }
  | 0x00A => { h.dirty 9 with csrs := tset 0 h.csrs 0x00A (x &&& 3) }
  | 0x00F => { h.dirty 9 with csrs := tset 0 (tset 0 h.csrs 0x00A ((x >>> 1) &&& 3)) 0x009 (x &&& 1) }
  | 0x100 => { h with mstatus := mstatusWrite h.mstatus (maskWrite sstatusMask h.mstatus x) }
  | 0x104 => { h with mie := maskWrite (h.mideleg &&& mieMask) h.mie x }
  | 0x105 => { h with stvec := tvecWrite h.stvec x }
  | 0x140 => { h with sscratch := x }
  | 0x141 => { h with sepc := x &&& ~~~1 }
  | 0x142 => { h with scause := x }
  | 0x143 => { h with stval := x }
  | 0x144 => { h with csrs := tset 0 h.csrs 0x344 (maskWrite (h.mideleg &&& 0x2) (tget 0 h.csrs 0x344) x) }
  | 0x180 => if fld x 63 60 = 0 then { h with csrs := tset 0 h.csrs 0x180 x } else h
  | 0x300 => { h with mstatus := mstatusWrite h.mstatus x }
  | 0x301 => h
  | 0x106 | 0x306 => { h with csrs := tset 0 h.csrs a (x &&& 0xFFFFFFFF) }
  | 0x302 => { h with medeleg := x &&& ~~~(0x800 : W64) }
  | 0x320 => { h with csrs := tset 0 h.csrs 0x320 (x &&& 0xFFFFFFFD) }
  | 0x303 => { h with mideleg := x &&& midelegMask }
  | 0x304 => { h with mie := x &&& mieMask }
  | 0x305 => { h with mtvec := tvecWrite h.mtvec x }
  | 0x340 => { h with mscratch := x }
  | 0x341 => { h with mepc := x &&& ~~~1 }
  | 0x342 => { h with mcause := x }
  | 0x343 => { h with mtval := x }
  | 0x344 => { h with csrs := tset 0 h.csrs 0x344 (maskWrite 0x222 (tget 0 h.csrs 0x344) x) }
  | _ => if 0x3A0 ≤ a ∧ a ≤ 0x3EF then h else { h with csrs := tset 0 h.csrs a x }

/-- A CSR written by the hart of a core. -/
def csrWrite (k : Core) (a : Nat) (x : W64) : Core :=
  if customRange a then customWrite k a x else { k with hart := standardWrite k.hart a x }

/-- A CSR without behaviour of its own is written by its hart (R123): pc moves on; an access that R123 or the standard does not
allow raises illegal-instruction. The instruction's bits are not part of the step, so xtval is a free value (log entry 3). -/
def csrStep (s : State) (d c a : Nat) (x : W64) : State :=
  let h := s.hart d c
  if h.wfi ∨ a = 0x5C1 ∨ a = 0x5C2 then s
  else if !csrAllowed h.mode a true then s.hartTrap d c false 2 (s.free 0)
  else
    let k := csrWrite (s.core d c) a x
    s.setCore d c { k with hart := { k.hart with pc := k.hart.pc + 4 } }

end Sys2Proof.Machine
end

