-- ==== Sys2Proof/Machine/Matrix.lean ====
section
/-! DEFINITION. The matrix arrays at issue: chapter 13 (R297 to R310, R314 to R316): MMA, MMZ, WBLD, WBSEL, ACCVT, and the
gangs that form. -/

namespace Sys2Proof.Machine

/-! ## Formats (R30, R39, R40, R303, R307) -/

/-- Accumulator class of an MF code: 0 wide, 1 float, 2 integer. -/
def mfClass (mf : Nat) : Nat := if mf = 0 then 0 else if [10, 11, 12, 13, 25].contains mf then 2 else 1

/-- Block-scaled and sparse formats. -/
def mfMx (mf : Nat) : Bool := decide (14 ≤ mf ∧ mf ≤ 20) || mf = 26 || mf = 27
def mfSparse (mf : Nat) : Bool := decide (21 ≤ mf ∧ mf ≤ 27)

/-- The base format of an MF code, as an MF code from 0 to 13. -/
def mfBase (mf : Nat) : Nat :=
  match mf with
  | 14 => 5 | 15 => 6 | 16 => 7 | 17 => 8 | 18 => 9 | 19 => 10 | 20 => 12
  | 21 => 3 | 22 => 4 | 23 => 6 | 24 => 5 | 25 => 10 | 26 => 6 | 27 => 9
  | n => n

/-- The group size G of two operand formats (R40). -/
def groupSize (a b : Nat) : Nat :=
  let is := fun (l : List Nat) => l.contains a || l.contains b
  if a = 0 then 4 else if is [1, 2] then 8 else if is [3, 4, 21, 22] then 16 else 32

/-- Array time in cc of K steps: ceil(K / r), r the first that holds and doubled for a sparse B (R307). -/
def arrayTime (a b k : Nat) : Nat :=
  let is := fun (l : List Nat) => l.contains a || l.contains b
  let r16 := if a = 0 then 1 else if is [1] then 4 else if is [2] then 8 else if is [3, 4, 21, 22] then 16
    else if is [5, 6, 10, 11, 14, 15, 19, 23, 24, 25, 26] then 32 else 64
  let r16 := if mfSparse b then 2 * r16 else r16
  (16 * k + r16 - 1) / r16

/-- Logical rows of an image with EXT1 `n`. -/
def imageRows (mf n : Nat) : Nat := if mfSparse mf then 2 * n else n

/-- Bytes of an image's element plane, metadata plane and scale plane (R303). -/
def imagePlanes (mf n : Nat) : Nat × Nat × Nat :=
  (8 * n * mfBits mf, if mfSparse mf then 16 * n else 0, if mfMx mf then 64 * ((imageRows mf n + 31) / 32) else 0)

/-- A half's image begins here in the weight buffer (R302). -/
def halfBase (h : Nat) : Nat := h * 0x40000

def SetState.half (a : SetState) (h : Nat) : WHalf := tget {} a.halves h
def SetState.setHalf (a : SetState) (h : Nat) (x : WHalf) : SetState := { a with halves := tset {} a.halves h x }

/-! ## LDA and STA (R300) -/

/-- LDA and STA reach every byte below 0x4_0000. -/
def accRangeOk (ea m : Nat) (ks : List Nat) : Bool :=
  decide (ea < 2 ^ 18) && ks.all (fun k => decide (ea + 16 * k + m ≤ 0x40000))

/-- The first locked byte of the registers listed. -/
def accLocked (locked : Nat → Option Nat) (ks : List Nat) : Res Unit :=
  match ks.findSome? locked with
  | some b => raiseAt rlock b
  | none => .ok ()

def useSta (d : BitVec 7) (t : TailM) : Use := useSt d t

/-- No word in error among the `m` bytes of each register listed: those read, or those that a write merges into (R464). -/
def accGood (a : SetState) (write : Bool) (ea m : Nat) (ks : List Nat) : Res Unit :=
  match ks.findSome? (fun k => if write && decide (m = 16) then none else wordBad a.accBad (ea + 16 * k) m) with
  | some b => raiseAt uncorrectedFault b
  | none => .ok ()

/-- STA (R300). -/
def execSta (d : BitVec 7) (t : TailM) (s : State) : Host.Outcome State Fault Refusal :=
  multiSet (szRegs t.sz) (useSta d t) (fun e a => do
    let x := a.ctx e.ix
    let ks := mEnabled a x t
    if ks.isEmpty then pure a
    else
      let ea ← mEa a e.ix t
      let m := Nat.min (szBytes t.sz) 16
      if ea % m ≠ 0 then raiseAt alignFault ea
      else if !accRangeOk ea m ks then raiseAt localRange ea
      else
        accLocked (fun k => lockedByte a 1 true (ea + 16 * k) m) ks
        accGood a true ea m ks
        let vs ← dataRegs a e.ix d.toNat ks
        pure { a with
          acc := vs.foldl (fun mem kv => memWrite mem (ea + 16 * kv.1) m kv.2) a.acc
          accBad := vs.foldl (fun l kv => wordsWritten l (ea + 16 * kv.1) m) a.accBad }) s

/-! ## WBLD and WBSEL (R302 to R305) -/

/-- A WBLD's conditions on its source record (R303, R319). -/
def wbldOk (r : BitVec 512) (w : Walk) : Bool :=
  let n := w.extOf 1
  let (x, y, z) := imagePlanes w.fmt n
  recV r && (w.space = 0 || w.space = 3) && !w.fk && decide (w.fmt ≤ 27) && w.extOf 0 = 64 && w.extOf 2 = 1 && w.extOf 3 = 1 &&
  (!mfSparse w.fmt || decide (n % 2 = 0)) && decide (x + y + z ≤ 0x40000)

/-- WBLD with its operands: the plan, and the descriptor of the half in the same step; a replay of the half goes on, with the snapshot it
has. -/
def issueWbld (t : TailE) (w : Who) (_ : Vals) (s : State) : Res State := do
  let d := w.a.die
  let c := w.a.core
  let a := s.act d c
  let h := t.f12.toNat % 2
  let r := (a.layout t.l.toNat).bits
  let x := recWalk r t.l.toNat
  need (wbldOk r x)
  let (p0, p1, p2) := imagePlanes x.fmt (x.extOf 1)
  let s' ← issuePlan w
    { op := .wbld h, src := some x, dst := some (linearWalk 2 (halfBase h) (p0 + p1 + p2)), port := 2
      also := if p1 + p2 = 0 then none else some (x.base + x.soff, p1 + p2) } t
    (portWords (tailBits t) 0xFD00 0 0 0) s
  let a' := s'.act d c
  match (a'.post.find? (fun q => decide (q.2.seq = a.seq))) with
  | none => pure s'
  | some q =>
    pure (s'.setAct d c (a'.setHalf h
      { valid := true, mf := x.fmt, kw := imageRows x.fmt (x.extOf 1), size := p0 + p1 + p2, src := q.2.src
        signal := some (t.sk.toNat, siOf t), last := a.seq, dom := w.i.dom, replay := (a'.half h).replay }))

def useWbld (d : BitVec 7) (t : TailE) : Use :=
  issueUse (d = 0 && f12Is t 0x200 1 && t.b = 0 && t.c = 0) t false false false

/-- WBLD (R304). -/
def execWbld (d : BitVec 7) (t : TailE) (s : State) : Host.Outcome State Fault Refusal :=
  issueRun (useWbld d t) false false false t (issueWbld t) s

def useWbsel (d : BitVec 7) (t : TailV) : Use :=
  { legal := d = 0 && vOnly t false false false false false 0x1B && (t.f = 0x18 || t.f = 0x1A || t.f = 0x1B) }

/-- WBSEL (R305). -/
def execWbsel (d : BitVec 7) (t : TailV) (s : State) : Host.Outcome State Fault Refusal :=
  setRun (useWbsel d t) (fun _ a => .ok { a with sel := if t.f = 0x18 then !a.sel else t.f = 0x1B }) s

/-! ## ACCVT (R315, R316) -/

/-- Record d of ACCVT. -/
def accvtRecOk (r : BitVec 512) (w : Walk) (tty : Nat) : Bool :=
  recV r && w.space = 0 && w.fk && decide (w.extOf 0 ≤ 64 ∧ w.extOf 1 ≤ 64) && w.extOf 2 = 1 && w.extOf 3 = 1 &&
  ([0x09, 0x13, 0x0A, 0x0B, 0x0C, 0x0D, 0x0E, 0x0F, 0x10, 0x00, 0x02, 0x04].contains w.fmt || (w.fmt = 0x08 && tty = 2))

/-- ACCVT with its operands: scales and SATM are read at issue. -/
def issueAccvt (t : TailE) (w : Who) (v : Vals) (s : State) : Res State := do
  let a := s.act w.a.die w.a.core
  let tile := t.f12.toNat % 16
  let scl := t.f12.toNat / 32 % 4
  let tty := fld v.b 21 20
  let sadr := fld v.b 19 0
  let r := (a.layout t.l.toNat).bits
  let y := recWalk r t.l.toNat
  need (decide (fld v.b 127 22 = 0 ∧ tty ≠ 3 ∧ scl ≠ 3 ∧ (tty ≠ 2 ∨ tile % 2 = 0)) && accvtRecOk r y tty && chunkOk (recCm r) y)
  if scl ≠ 0 ∧ sadr % 16 ≠ 0 then raiseAt alignFault sadr
  if scl ≠ 0 then localRangeOk w.x 0 sadr 256
  localOk w.x (some y)
  let scales ← (if scl = 0 then pure 0 else padRd a w.x sadr sadr 256)
  let plan := recPlan (.accvt tile (t.f12.getLsbD 4) scl tty w.satm (BitVec.ofNat 2048 scales)) none r y none
  issuePlan w { plan with
    more := (1, tile * 0x4000, if tty = 2 then 0x8000 else 0x4000, false) :: (if scl = 0 then [] else [(0, sadr, 256, false)]) } t
    (portWords (tailBits t) 0xFD00 v.b.toNat 0 0) s

def useAccvt (d : BitVec 7) (t : TailE) : Use :=
  issueUse (d = 0 && f12Is t 0x400 0x7F && decide (t.f12.toNat / 32 % 4 ≠ 3) && t.c = 0) t true false false

/-- ACCVT (R315). -/
def execAccvt (d : BitVec 7) (t : TailE) (s : State) : Host.Outcome State Fault Refusal :=
  issueRun (useAccvt d t) true false false t (issueAccvt t) s

/-! ## MMZ (R314) -/

/-- Maximal runs of consecutive tiles in a mask, as first byte and length. -/
def tileRuns (m : BitVec 16) : List (Nat × Nat) :=
  (List.range 16).filterMap (fun i =>
    if m.getLsbD i && !(decide (0 < i) && m.getLsbD (i - 1)) then
      some (i * 0x4000, 0x4000 * (((List.range 16).drop i).takeWhile (fun j => m.getLsbD j)).length)
    else none)

/-- Is the matrix port's shadow set free, with room for `n` locks (R308)? -/
def matrixRoom (a : SetState) (n : Nat) : Bool := (a.port 1).shadowCmd.isNone && decide (a.locks.length + n ≤ 32)

/-- A matrix command placed in the port with its locks. -/
def placeMatrix (a : SetState) (cmd : MCmd) (locks : List Lock) (words : Sparse W64) : SetState :=
  let n := a.seq
  let a := placePort { a with locks := a.locks ++ locks, mcmds := tins a.mcmds n { cmd with seq := n }, seq := n + 1 } 1 n words
  wakeCommands a

/-- MMZ of a mask of tiles. -/
def issueMmz (mask : BitVec 16) (words : Sparse W64) (w : Who) (s : State) : Res State := do
  let a := s.act w.a.die w.a.core
  if mask = 0 then pure s
  else
    let locks := (tileRuns mask).map (fun r =>
      ({ space := 1, lo := r.1, hi := r.1 + r.2 - 1, w := true, owner := .matrix a.seq, seq := a.seq } : Lock))
    if !matrixRoom a locks.length then .error (.stall s)
    else
      pure (s.setAct w.a.die w.a.core (placeMatrix a
        { op := .mmz mask, issuer := w.i, wk := 0, wt := 0, sk := 0, si := 0, seq := a.seq, after := w.after } locks words))

def useMmz (d : BitVec 7) (t : TailV) : Use :=
  let m := t.f.getLsbD 0
  { legal := vOnly t true false false false false 9 && (t.f = 8 || t.f = 9) &&
      (if m then d = 0 else t.b = 0 && d.toNat < 16)
    regs := if m then [(t.b.toNat, 1)] else [], srcs := if m then [t.b.toNat] else [] }

/-- MMZ (R314). -/
def execMmz (d : BitVec 7) (t : TailV) (s : State) : Host.Outcome State Fault Refusal :=
  ctxRun (useMmz d t) (fun e s => do
    let v ← if t.f.getLsbD 0 then regRead (s.act e.d e.c) e.ix t.b.toNat else pure (1#128 <<< d.toNat)
    need (decide (fld v 127 16 = 0))
    issueMmz (v.setWidth 16) (portWords (t.f.toNat + t.b.toNat * 2 ^ 25) (0xBD00 + d.toNat) (if t.f.getLsbD 0 then v.toNat else 0) 0 0)
      (whoOf s e) s) s

/-! ## Gangs (R310) -/

/-- First logical core and size of a gang's unit around a core. -/
def gangUnit (gs c : Nat) : Nat × Nat := if gs = 0 then (c, 1) else if gs = 1 then (c / 2 * 2, 2) else (c / 4 * 4, 4)

/-- Control-word fields (R306). -/
def ctlK (v : W128) : Nat := fld v 13 0
def ctlM (v : W128) : Nat := fld v 20 14
def ctlAmf (v : W128) : Nat := fld v 25 21
def ctlGs (v : W128) : Nat := fld v 27 26
def ctlTag (v : W128) : Nat := fld v 33 28
def ctlMode (v : W128) : Bool := bit v 34
def ctlTt (v : W128) : Nat := fld v 36 35
def ctlRow0 (v : W128) : Nat := fld v 44 37
def ctlCol0 (v : W128) : Nat := fld v 52 45

/-- The pending gang that an arrival of core `c` joins: one that has no arrival of the core yet. -/
def gangFor (v : Die) (c tag : Nat) : Option (Nat × Gang) :=
  v.gangs.find? (fun g => decide (g.2.formed = false ∧ c ∉ g.2.members ∧ g.2.quad = c / 4 ∧ g.2.tag = tag ∧
    (gangUnit g.2.gs (g.2.members.headD c)).1 = (gangUnit g.2.gs c).1))

/-- The command of a gang on a core. -/
def gangCmd (a : SetState) (g : Nat) : Option (Nat × MCmd) := a.mcmds.find? (fun m => decide (m.2.gang = some g))

/-- A matrix command undone: port, locks and command. -/
def dropMatrix (a : SetState) (n : Nat) : SetState :=
  let p := a.port 1
  let p := { p with shadowCmd := if p.shadowCmd = some n then none else p.shadowCmd
                    activeCmd := if p.activeCmd = some n then none else p.activeCmd }
  { a.setPort 1 p with locks := a.locks.filter (fun l => decide (l.owner ≠ .matrix n)), mcmds := tdel a.mcmds n }

/-- The context that waits in a gang, changed, and woken where that lets it go on; a hart's MK.ENGW that waits for command `n` likewise. -/
def gangCtx (a : SetState) (n : Nat) (i : Issuer) (f : Ctx → Ctx) (h : HartGang → HartGang) : SetState :=
  let x := a.ctx i.ix
  if i.hart then { a with hgang := a.hgang.map (fun g => if g.n = n then h g else g) }
  else if x.inc ≠ i.inc ∨ x.wait ≠ some .gang then a else wakeAll (a.setCtx i.ix (f x))

/-- The arrival of a core in a gang is undone, and its context faults at its next turn. -/
def undoArrival (a : SetState) (g : Nat) (code : Nat) : SetState :=
  match gangCmd a g with
  | none => a
  | some (n, m) =>
    gangCtx (wakeAll (dropMatrix a n)) n m.issuer (fun x => { x with gangFault := some (BitVec.ofNat 8 code), gangWait := 0 })
      (fun h => { h with fault := true })

/-- A gang is dissolved: every waiting member faults GANG_MISMATCH. -/
def dissolve (s : State) (d g : Nat) (x : Gang) : State :=
  let s := x.members.foldl (fun s c => s.setAct d c (undoArrival (s.act d c) g gangMismatch)) s
  let v := s.die d
  s.setDie d { v with gangs := tdel v.gangs g }

/-- Members of one partition. -/
def samePart (s : State) (d : Nat) (l : List Nat) : Bool :=
  l.all (fun c => decide ((s.act d c).part = (s.act d (l.headD 0)).part))

/-- A gang that has all its members in one partition forms: every waiting MMA completes. -/
def formGang (s : State) (d g : Nat) : State × Bool :=
  let v := s.die d
  match tfind v.gangs g with
  | none => (s, false)
  | some x =>
    if x.members.length = (gangUnit x.gs 0).2 ∧ samePart s d x.members then
      let s := s.setDie d { v with gangs := tins v.gangs g { x with formed := true } }
      (x.members.foldl (fun s c =>
        let a := s.act d c
        match gangCmd a g with
        | some (n, m) => s.setAct d c (gangCtx a n m.issuer (fun y => { y with gangDone := true }) (fun h => { h with done := true }))
        | none => s) s, true)
    else (s, false)

/-- An arrival at the barrier: the state with the gang joined or opened and whether it has formed, or none for a mismatch. -/
def arriveGang (s : State) (d c : Nat) (ctl : W128) (z : Bool) (bmf n : Nat) : Option (State × Bool) :=
  let v := s.die d
  let tagCmd := fun (s : State) (g : Nat) =>
    let a := s.act d c
    s.setAct d c { a with mcmds := a.mcmds.map (fun m => if m.1 = n then (m.1, { m.2 with gang := some g }) else m) }
  match gangFor v c (ctlTag ctl) with
  | some (g, x) =>
    if x.ctl = ctl ∧ x.z = z ∧ x.bmf = bmf then
      let s := s.setDie d { v with gangs := tins v.gangs g { x with members := x.members ++ [c] } }
      some (formGang (tagCmd s g) d g)
    else none
  | none =>
    let g := v.gangSeq
    let s := s.setDie d { v with
      gangSeq := g + 1
      gangs := tins v.gangs g { quad := c / 4, gs := ctlGs ctl, tag := ctlTag ctl, members := [c], formed := false, ctl := ctl,
                                z := z, bmf := bmf } }
    some (tagCmd s g, false)

/-! ## MMA (R306 to R308) -/

/-- The A record against R307. -/
def aRecOk (r : BitVec 512) (w : Walk) (ctl : W128) : Bool :=
  recV r && !w.fk && w.extOf 0 = ctlK ctl && w.extOf 1 = ctlM ctl && w.extOf 2 = 1 && w.extOf 3 = 1 &&
  (match w.space with
   | 0 => w.fmt = ctlAmf ctl
   | 1 => w.fmt = 1 && decide (1 ≤ ctlAmf ctl ∧ ctlAmf ctl ≤ 6)
   | _ => false)

/-- The A scale plane of an MX AMF: first byte and length (R307, R308). -/
def aScales (w : Walk) (ctl : W128) : Option (Nat × Nat) :=
  if 14 ≤ ctlAmf ctl then some (w.base + w.soff, ctlM ctl * ((ctlK ctl + 31) / 32)) else none

/-- C's range of a tile. -/
def tileRange (tile : Nat) (wide : Bool) : Nat × Nat := (tile * 0x4000, if wide then 0x8000 else 0x4000)

/-- MMA's validity beside its A record (R306, R307, R319). -/
def mmaOk (ctl : W128) (tile : Nat) (h : WHalf) : Bool :=
  decide (fld ctl 127 53 = 0 ∧ ctlGs ctl ≠ 3 ∧ ctlAmf ctl ≤ 20 ∧ 1 ≤ ctlM ctl ∧ ctlM ctl ≤ 64 ∧ 1 ≤ ctlK ctl ∧ ctlK ctl ≤ 8192) &&
  h.valid && decide (mfClass (ctlAmf ctl) = mfClass h.mf ∧ ctlK ctl ≤ h.kw ∧ arrayTime (ctlAmf ctl) h.mf (ctlK ctl) ≤ 4096) &&
  (mfClass h.mf ≠ 0 || tile % 2 = 0) && (!ctlMode ctl || mfClass h.mf = 1)

/-- What an MMA locks: C's range W, the image range R, and for a lead its A ranges R. -/
def mmaLocks (n tile h size : Nat) (wide : Bool) (a : Option Walk) (sc : Option (Nat × Nat)) : List Lock :=
  let mk := fun (space lo len : Nat) (w : Bool) =>
    ({ space := space, lo := lo, hi := lo + len - 1, w := w, owner := .matrix n, seq := n } : Lock)
  [mk 1 (tileRange tile wide).1 (tileRange tile wide).2 true, mk 2 (halfBase h) size false] ++
  (match a with
   | some x => mk x.space x.lo x.len false :: (match sc with | some (b, m) => [mk x.space b m false] | none => [])
   | none => [])

/-- MMA placed: the command, and the lead's checks before it (R308). Answers the command's number. -/
def issueMma (t : TailE) (w : Who) (v : Vals) (s : State) : Res (State × Nat) := do
  let d := w.a.die
  let c := w.a.core
  let a := s.act d c
  let ctl := v.b
  let tile := t.f12.toNat % 16
  let h := b2n a.sel
  let x := a.half h
  let r := (a.layout t.l.toNat).bits
  let y := recWalk r t.l.toNat
  let lead := decide ((gangUnit (ctlGs ctl) c).1 = c)
  need (mmaOk ctl tile x && (!lead || aRecOk r y ctl))
  let src := if lead then some y else none
  let sc := if lead then aScales y ctl else none
  let wide := mfClass x.mf = 0
  localOk w.x src
  alsoOk w.x src sc
  let (lo, len) := tileRange tile wide
  if lead && decide (y.space = 1) && meets y.lo y.len lo len then raiseAt overlapFault (Nat.max y.lo lo)
  let locks := mmaLocks a.seq tile h x.size wide src sc
  if !matrixRoom a locks.length then .error (.stall s)
  else
    let cmd : MCmd :=
      { op := .mma h tile (t.f12.getLsbD 4) ctl x.mf x.kw src, issuer := w.i, wk := t.wk.toNat, wt := t.wt.toNat,
        sk := t.sk.toNat, si := siOf t, seq := a.seq, after := w.after }
    pure (s.setAct d c (placeMatrix a cmd locks (portWords (tailBits t) 0xFD00 v.b.toNat 0 0)), a.seq)

def useMma (d : BitVec 7) (t : TailE) : Use :=
  issueUse (d = 0 && f12Is t 0 0x1F && t.c = 0) t true false false

/-- Nothing of a gang stays with a context. -/
def endGang (s : State) (e : Env) : State := s.setCtx e { s.ctx e with gangDone := false, gangFault := none, gangWait := 0 }

/-- MMA (R308): a solo MMA completes once placed; a gang member waits until its gang forms, or faults with it. -/
def execMma (d : BitVec 7) (t : TailE) (s : State) : Host.Outcome State Fault Refusal :=
  ctxRun (useMma d t) (fun e s => do
    let x := s.ctx e
    match x.gangFault with
    | some code => .error (.faultIn { code := code.toNat } (endGang s e))
    | none =>
      if x.gangDone then pure (endGang s e)
      else if x.wait = some .gang then .error (.wait .gang s)
      else
        let v ← readVals (s.act e.d e.c) e.ix t true false false
        let (s', n) ← issueMma t (whoOf s e) v s
        if ctlGs v.b = 0 then pure s'
        else
          let bmf := ((s.act e.d e.c).half (b2n (s.act e.d e.c).sel)).mf
          match arriveGang s' e.d e.c v.b (t.f12.getLsbD 4) bmf n with
          | some (s', true) => pure s'
          | some (s', false) => .error (.wait .gang (endGang s' e))
          | none =>
            match gangFor (s.die e.d) e.c (ctlTag v.b) with
            | some (g, y) => .error (.faultIn { code := gangMismatch } (dissolve s e.d g y))
            | none => raise gangMismatch) s

/-- The arrival of an agent that waits in a pending gang: its command and the gang. -/
def waitingArrival (v : Die) (a : SetState) (ok : Nat → MCmd → Bool) : Option (Nat × Gang) :=
  a.mcmds.findSome? (fun m => match m.2.gang with
    | some g => (tfind v.gangs g).bind (fun y => if !y.formed && ok m.1 m.2 then some (g, y) else none)
    | none => none)

/-- The arrival of a core leaves a pending gang with GANG_TIMEOUT; a gang left with no member is dissolved. -/
def leaveGang (s : State) (d c g : Nat) (y : Gang) : State :=
  let s := s.setAct d c (undoArrival (s.act d c) g gangTimeoutCode)
  let v := s.die d
  let l := y.members.filter (fun j => decide (j ≠ c))
  s.setDie d { v with gangs := if l.isEmpty then tdel v.gangs g else tins v.gangs g { y with members := l } }

/-- GANG_TIMEOUT (R310): context `ix` of a core, or for 64 its hart, has waited GTO cc in a gang: its arrival is undone and it faults. -/
def execGangTimeout (d c ix : Nat) (s : State) : Host.Outcome State Fault Refusal :=
  let v := s.die d
  let k := s.core d c
  let a := k.act
  let x := a.ctx ix
  let found :=
    if ix = 64 then
      match a.hgang with
      | some h => if !h.done && !h.fault && decide (k.gangto.toNat ≤ h.wait) then waitingArrival v a (fun n m => decide (n = h.n) && m.issuer.hart) else none
      | none => none
    else if x.wait = some .gang ∧ ¬x.gangDone ∧ x.gangFault = none ∧ k.gangto.toNat ≤ x.gangWait then
      waitingArrival v a (fun _ m => decide (m.issuer.ix = ix ∧ m.issuer.inc = x.inc ∧ ¬m.issuer.hart))
    else none
  match found with
  | some (g, y) => .next (leaveGang s d c g y)
  | none => .next s

end Sys2Proof.Machine
end

