-- ==== Sys2Proof/Machine/MatrixRun.lean ====
section
/-! DEFINITION. The matrix arrays at work: decoding operands (R25, R28, R311), the sums of R41, tree masks (R312), PEEK (R301),
the steps of MMA and MMZ (R309 to R314), and the replay of weight halves (R318). -/

namespace Sys2Proof.Machine

/-! ## Operand values (R25 to R29, R311) -/

/-- An integer times 2^n. -/
def intVal (i n : Int) : FVal := .fin (decide (i < 0)) i.natAbs n

/-- The value of an element of an MF code under its block's scale, when it has one. -/
def mfVal (mf bits : Nat) (x : Option Nat) : FVal :=
  let v := match mf with
    | 19 => intVal (sext 8 bits) (-6)
    | 20 => intVal (sext 4 bits) (-2)
    | _ =>
      match mfBase mf with
      | 10 => intVal (sext 8 bits) 0
      | 11 => intVal (bits % 256) 0
      | 12 => intVal (sext 4 bits) 0
      | 13 => intVal (bits % 16) 0
      | b => decodeF (fmtTy (mfTy b)) bits
  match x with
  | none => v
  | some 255 => .nan false
  | some x => v.scale ((x : Int) - 127)

/-- `w` bits from bit `b` of a byte source. -/
def bitsFrom (byte : Nat → Nat) (b w : Nat) : Nat :=
  ((spanBytes b w).foldr (fun i n => byte i + 256 * n) 0 >>> (b % 8)) % 2 ^ w

/-- A byte of a local space as the array reads it: stale paddock granules read zero (R146). -/
def localByte (a : SetState) (space b : Nat) : Nat :=
  if space = 0 then (match a.coverGen b 1 with
    | some g => padBytes a.pad g b 1
    | none => 0)
  else (memGet a.acc b).toNat

/-- An F32 element of accumulator memory as an A operand of format AMF (R311). -/
def roundA (mf bits : Nat) : FVal :=
  let f := fmtTy (mfTy mf)
  match decodeF fmtF32 bits with
  | .inf n => decodeF f (maxBits f n)
  | x => decodeF f (roundVal f { narrow := true } x).1

/-- A(i, k) from the lead's set and walk. -/
def aVal (a : SetState) (w : Walk) (ctl : W128) (i k : Nat) : FVal :=
  let bits := bitsFrom (localByte a w.space) (w.bitAt (i * ctlK ctl + k)) w.e
  if w.space = 1 then roundA (ctlAmf ctl) bits
  else mfVal (ctlAmf ctl) bits ((aScales w ctl).map (fun p => localByte a 0 (p.1 + i * ((ctlK ctl + 31) / 32) + k / 32)))

/-- A byte of the weight buffer. -/
def wByte (m : Mem) (b : Nat) : Nat := (memGet m b).toNat

/-- The bits of B(k, j) in an image, none for a +0 that the sparse expansion supplies (R28, R303). -/
def bBits (m : Mem) (h mf kw k j : Nat) : Option Nat :=
  let e := mfBits mf
  let base := halfBase h
  let at' := fun (row : Nat) => bitsFrom (wByte m) (8 * base + (64 * row + j) * e) e
  if !mfSparse mf then some (at' k)
  else
    let rows := kw / 2
    let g := k / 4
    let ix := j * (rows / 2) + g
    let code := wByte m (base + 8 * rows * e + ix / 2) / (if ix % 2 = 0 then 1 else 16) % 16
    if code / 4 % 4 = k % 4 then some (at' (2 * g + 1))
    else if code % 4 = k % 4 then some (at' (2 * g))
    else none

/-- B(k, j) of a half. -/
def bVal (m : Mem) (h mf kw k j : Nat) : FVal :=
  let n := if mfSparse mf then kw / 2 else kw
  let (p0, p1, _) := imagePlanes mf n
  let x := if mfMx mf then some (wByte m (halfBase h + p0 + p1 + j * ((kw + 31) / 32) + k / 32)) else none
  match bBits m h mf kw k j with
  | some bits => mfVal mf bits x
  | none => if x = some 255 then .nan false else .fin false 0 0

/-! ## Sums (R41, R42) -/

/-- The exact sum of a group's products, special values by R42. -/
def groupSum : List (FVal × FVal) → Option FVal
  | [] => none
  | (a, b) :: t =>
    let p := (mulF a b).1
    match groupSum t with
    | none => some p
    | some s => some (addF rne p s).1

/-- One group entering an accumulator element: ACC F64 for class 0, F32 for 1, SI32 for 2. -/
def accStep (cls c : Nat) (prods : List (FVal × FVal)) : Nat :=
  match groupSum prods with
  | none => c
  | some s =>
    if cls = 2 then
      match s with
      | .fin n m e => wrap 32 ((c : Int) + scaleTo n m e 0)
      | _ => c
    else
      let f := if cls = 0 then fmtF64 else fmtF32
      let t := (roundVal f {} s).1
      (roundVal f {} (addF rne (decodeF f c) (decodeF f t)).1).1

/-- A matrix product under way, with all it reads: the lead's set and A walk, the weight buffer, the command's own data. -/
structure Mma where
  h : Nat
  tile : Nat
  z : Bool
  ctl : W128
  mf : Nat
  kw : Nat
  lead : SetState
  a : Walk
  wbuf : Mem
  /-- position in the gang -/
  p : Nat
  mask : List (BitVec 256)

def Mma.wide (x : Mma) : Bool := mfClass x.mf = 0
def Mma.es (x : Mma) : Nat := if x.wide then 8 else 4
def Mma.g (x : Mma) : Nat := groupSize (ctlAmf x.ctl) x.mf
def Mma.total (x : Mma) : Nat := (ctlK x.ctl + x.g - 1) / x.g
/-- Accumulator address of element (i, j). -/
def Mma.addr (x : Mma) (i j : Nat) : Nat := x.tile * 0x4000 + x.es * (64 * i + j)

/-- Is element (i, j) masked (R312)? -/
def Mma.masked (x : Mma) (i j : Nat) : Bool :=
  ctlMode x.ctl &&
  (let c := ctlCol0 x.ctl + 64 * x.p + j
   !(decide (c ≤ 255) && (x.mask.getD i 0).getLsbD c))

/-- An element after the start of R311, from its value before. -/
def Mma.start (x : Mma) (i j old : Nat) : Nat := if x.masked i j then 0xFF800000 else if x.z then 0 else old

/-- An element after group `n`, from its value before that group. -/
def Mma.group (x : Mma) (n i j c : Nat) : Nat :=
  if x.masked i j then c
  else
    let lo := n * x.g
    let hi := Nat.min (ctlK x.ctl) (lo + x.g)
    accStep (mfClass x.mf) c ((List.range (hi - lo)).map (fun t =>
      (aVal x.lead x.a x.ctl i (lo + t), bVal x.wbuf x.h x.mf x.kw (lo + t) j)))

/-- An element after the start and `n` groups. -/
def Mma.after (x : Mma) (i j old : Nat) : Nat → Nat
  | 0 => x.start i j old
  | n + 1 => x.group n i j (x.after i j old n)

/-- The elements of rows 0 to M-1, changed. -/
def Mma.mapTile (x : Mma) (acc : Mem) (f : Nat → Nat → Nat → Nat) : Mem :=
  (List.range (ctlM x.ctl)).foldl (fun m i => (List.range 64).foldl (fun m j =>
    memWrite m (x.addr i j) x.es (f i j (memRead m (x.addr i j) x.es))) m) acc

/-- The lead of a command: its set and its A walk. -/
def leadOf (s : State) (d c : Nat) (m : MCmd) : SetState × Option Walk :=
  match m.op with
  | .mma _ _ _ ctl _ _ a =>
    let l := (gangUnit (ctlGs ctl) c).1
    if l = c then (s.act d c, a)
    else
      match m.gang with
      | none => (s.act d l, none)
      | some g => match gangCmd (s.act d l) g with
        | some (_, y) => (s.act d l, match y.op with
          | .mma _ _ _ _ _ _ w => w
          | .mmz _ => none)
        | none => (s.act d l, none)
  | .mmz _ => (s.act d c, none)

/-- A command as a product. -/
def mmaOf (s : State) (d c : Nat) (m : MCmd) : Option Mma :=
  match m.op with
  | .mmz _ => none
  | .mma h tile z ctl bmf kw _ =>
    let (la, w) := leadOf s d c m
    w.map (fun a => { h := h, tile := tile, z := z, ctl := ctl, mf := bmf, kw := kw, lead := la, a := a,
                      wbuf := (s.core d c).wbuf, p := c - (gangUnit (ctlGs ctl) c).1, mask := m.mask })

/-! ## LDA and PEEK (R300, R301) -/

/-- The lowest byte of a range under a lock that an LDA meets: with PEEK, not one of a matrix command. -/
def ldaLocked (a : SetState) (peek : Bool) (b n : Nat) : Option Nat :=
  let held := fun (l : Lock) => match l.owner with | .matrix _ => false | _ => true
  lockedByte (if peek then { a with locks := a.locks.filter held } else a) 1 false b n

/-- One element of a started MMA as a PEEK sees it: a free progress between the last one seen and the present one. -/
def peekMma (s : State) (ix : Nat) (inc : BitVec 10) (n : Nat) (m : MCmd) (x : Mma) (q : SetState × Mem) (el : Nat) :
    SetState × Mem :=
  let i := el / 64
  let j := el % 64
  let key := (inc.toNat * 64 + ix) * 4096 + el
  let lo := tget 0 m.peeked key
  let level := lo + Config.freePick (s.tick * 65536 + el) % (m.groups + 2 - lo)
  let old := memRead m.before (x.addr i j) x.es
  let v := if level = 0 then old else x.after i j old (level - 1)
  if i < ctlM x.ctl then
    ({ q.1 with mcmds := q.1.mcmds.map (fun c => if c.1 = n then (n, { c.2 with peeked := tset 0 c.2.peeked key level }) else c) },
     memWrite q.2 (x.addr i j) x.es v)
  else q

/-- The elements of `es` bytes from `base` that [b, b+n-1] touches. -/
def touched (base size es b n : Nat) : List Nat :=
  (((List.range n).map (fun i => b + i)).filter (fun y => decide (base ≤ y ∧ y < base + size))).map (fun y => (y - base) / es)
    |>.eraseDups

/-- Bytes of an element at byte `b` of accumulator memory (R301). -/
def elemSize (a : SetState) (b : Nat) : Nat := if a.wide.getLsbD (b / 0x4000) then 8 else 4

/-- Accumulator memory as a PEEK of [b, b+n-1] sees it, and the set with what it has seen. -/
def peekAcc (s : State) (d c ix : Nat) (b n : Nat) (q : SetState × Mem) : SetState × Mem :=
  let a := q.1
  a.mcmds.foldl (fun q cm =>
    if !cm.2.started then q
    else
      match cm.2.op with
      | .mmz mask =>
        let es := elemSize a b
        (q.1, (tileRuns mask).foldl (fun m r => (touched r.1 r.2 es b n).foldl (fun m el =>
          if Config.freePick (s.tick * 65536 + el) % 2 = 0 then memWrite m (r.1 + es * el) es 0 else m) m) q.2)
      | .mma _ _ _ _ _ _ _ =>
        match mmaOf s d c cm.2 with
        | none => q
        | some x =>
          let r := tileRange x.tile x.wide
          (touched r.1 r.2 x.es b n).foldl (peekMma s ix (a.ctx ix).inc cm.1 cm.2 x) q) q

def useLda (d : BitVec 7) (t : TailM) : Use :=
  { legal := mPlain t && mAligned t.sz d
    regs := (d.toNat, szRegs t.sz) :: (mAddrRegs t).map (fun r => (r, 1))
    dyn := fun a ix => if (mEnabled a (a.ctx ix) t).isEmpty then [] else mAddrRegs t
    look := fun _ x => predGran x t.p.toNat }

/-- LDA (R300, R301): SX is PEEK; it always zero-extends. -/
def execLda (d : BitVec 7) (t : TailM) (s : State) : Host.Outcome State Fault Refusal :=
  multiRun (szRegs t.sz) (useLda d t) (fun e s => do
    let a := s.act e.d e.c
    let x := a.ctx e.ix
    let ks := mEnabled a x t
    if ks.isEmpty then pure s
    else
      let ea ← mEa a e.ix t
      let m := Nat.min (szBytes t.sz) 16
      if ea % m ≠ 0 then raiseAt alignFault ea
      else if !accRangeOk ea m ks then raiseAt localRange ea
      else
        accLocked (fun k => ldaLocked a t.sx (ea + 16 * k) m) ks
        accGood a false ea m ks
        let (a, acc) := if t.sx then ks.foldl (fun q k => peekAcc s e.d e.c e.ix (ea + 16 * k) m q) (a, a.acc) else (a, a.acc)
        let a := ks.foldl (fun a k => regWrite a e.ix (d.toNat + k) (memRead acc (ea + 16 * k) m) allBytes) a
        pure (s.setAct e.d e.c a)) s

/-! ## Starting (R309 to R312) -/

/-- The command in a core's matrix port's active set. -/
def activeMatrix (a : SetState) : Option (Nat × MCmd) :=
  (a.port 1).activeCmd.bind (fun n => (tfind a.mcmds n).map (fun m => (n, m)))

/-- May a placed matrix command start: its wait met, its issuer's stores performed, no hazard, the flock not stopped (R309,
R317)? -/
def matrixClear (k : Core) (n : Nat) (m : MCmd) : Bool :=
  !m.started && (m.met || decide (m.wt ≤ (k.act.counter m.wk).value.toNat)) && storesDone k m.issuer m.after && !k.halted &&
  !hazard k.act (.matrix n) m.seq

/-- The rows of the lead's tree that mask an MMA (R312). -/
def maskRows (la : SetState) (ctl : W128) : List (BitVec 256) :=
  if ctlMode ctl then
    (List.range (ctlM ctl)).map (fun i => BitVec.ofNat 256 ((la.tree (ctlTt ctl)).mask (ctlRow0 ctl + i)))
  else []

/-- The start of an MMA on one core: the mask taken, the tile cleared and masked. -/
def startMma (s : State) (d c n : Nat) (m : MCmd) : State :=
  match m.op with
  | .mmz _ => s
  | .mma _ _ _ ctl _ _ _ =>
    let m := { m with mask := maskRows (leadOf s d c m).1 ctl }
    match mmaOf s d c m with
    | none => s
    | some x =>
      let a := s.act d c
      let r := tileRange x.tile x.wide
      let before := a.acc.filter (fun p => decide (r.1 ≤ p.1 ∧ p.1 < r.1 + r.2))
      let w : BitVec 16 := if x.wide then 3#16 <<< x.tile else 1#16 <<< x.tile
      s.setAct d c { a with
        acc := x.mapTile a.acc x.start
        accBad := if x.z then wordsWritten a.accBad r.1 (64 * x.es * ctlM ctl) else a.accBad
        wide := if x.wide then a.wide ||| w else a.wide &&& ~~~w
        mcmds := tins a.mcmds n { m with started := true, groups := 0, before := before } }

/-- MMA_START: a solo MMA. -/
def execMmaStart (d c : Nat) (s : State) : Host.Outcome State Fault Refusal :=
  let k := s.core d c
  match activeMatrix k.act with
  | some (n, m) =>
    match m.op with
    | .mma _ _ _ ctl _ _ _ =>
      if ctlGs ctl = 0 && matrixClear k n m && !(s.die d).capped then .next (startMma s d c n m) else .next s
    | .mmz _ => .next s
  | none => .next s

/-- The active command of a core, when it is a gang's and clear. -/
def gangReady (s : State) (d g c : Nat) : Bool :=
  let k := s.core d c
  match activeMatrix k.act with
  | some (n, m) => m.gang = some g && matrixClear k n m && !(s.die d).capped
  | none => false

/-- GANG_START (R310): every member starts in one step. -/
def execGangStart (d gang : Nat) (s : State) : Host.Outcome State Fault Refusal :=
  match tfind (s.die d).gangs gang with
  | some x =>
    if x.formed && x.members.all (gangReady s d gang) then
      .next (x.members.foldl (fun s' c =>
        match activeMatrix (s.act d c) with
        | some (n, m) =>
          -- every member reads the lead's tree as it stands at the start
          startMma s' d c n m
        | none => s') s)
    else .next s
  | none => .next s

/-! ## Running and completing (R311, R313) -/

/-- The bytes that a bit range of a walk's element covers. -/
def walkBytes (w : Walk) (n : Nat) : List Nat := spanBytes (w.bitAt n) w.e

/-- The first byte of A that K-group `n` reads from a word in error (R465): elements, and scales of an MX format. -/
def Mma.badA (x : Mma) (n : Nat) : Option Nat :=
  let bad := fun (b : Nat) => if x.a.space = 0 then (x.lead.coverGen b 1).any (fun g => (padBad x.lead.pad g b 1).isSome)
    else (wordBad x.lead.accBad b 1).isSome
  let lo := n * x.g
  let ks := (List.range (Nat.min (ctlK x.ctl) (lo + x.g) - lo)).map (lo + ·)
  (List.range (ctlM x.ctl)).findSome? (fun i =>
    (ks.flatMap (fun k => walkBytes x.a (i * ctlK x.ctl + k) ++ (match aScales x.a x.ctl with
      | some p => [p.1 + i * ((ctlK x.ctl + 31) / 32) + k / 32]
      | none => []))).find? bad)

/-- The first byte of the half's image in a word in error: B's decompression reads it whole (R465). -/
def badB (k : Core) (x : Mma) : Option Nat :=
  if k.wbufBad.isEmpty then none else wordBad k.wbufBad (halfBase x.h) (k.act.half x.h).size

/-- Where a product's operands are in error: core and address. -/
def Mma.badAt (s : State) (d c n : Nat) (x : Mma) : Option (Nat × Nat) :=
  ((x.badA n).map (fun b => ((gangUnit (ctlGs x.ctl) c).1, b))).or ((badB (s.core d c) x).map (fun b => (c, b)))

/-- MMA_GROUP_LAND: the next K-group enters every unmasked element. An operand in error is counted at its core, the MMA will signal nothing, and
the post queue of its core freezes with REASON 6 (R465). -/
def execMmaGroupLand (d c : Nat) (s : State) : Host.Outcome State Fault Refusal :=
  let a := s.act d c
  match activeMatrix a with
  | some (n, m) =>
    match mmaOf s d c m with
    | some x =>
      if m.started ∧ m.groups < x.total then
        let t := fun (m : MCmd) => s.setAct d c { a with
          acc := x.mapTile a.acc (x.group m.groups)
          mcmds := tins a.mcmds n { m with groups := m.groups + 1 } }
        match (if m.bad then none else x.badAt s d c m.groups) with
        | some (j, b) => .next (freezePost ((t { m with bad := true }).detect d (physOf (s.die d) j)) d c 6 m.issuer.dom.toNat b)
        | none => .next (t m)
      else .next s
    | none => .next s
  | none => .next s

/-- All groups of a core's started command have landed. -/
def mmaLanded (s : State) (d c : Nat) : Bool :=
  match activeMatrix (s.act d c) with
  | some (_, m) => match m.op with
    | .mma _ _ _ ctl mf _ _ =>
      let g := groupSize (ctlAmf ctl) mf
      m.started && decide ((ctlK ctl + g - 1) / g ≤ m.groups)
    | .mmz _ => false
  | none => false

/-- A matrix command ends: the active set frees, locks are lifted, the signal is given. -/
def endMatrix (a : SetState) (n : Nat) (m : MCmd) : SetState :=
  let a := dropMatrix a n
  if m.bad ∨ m.si = 0 then wakeAll a else signalSet a m.sk m.si

/-- The members of a gang that still run. -/
def gangMembers (s : State) (d : Nat) (m : MCmd) (c : Nat) : List Nat :=
  match m.gang with
  | some g => ((tfind (s.die d).gangs g).map (·.members)).getD [c]
  | none => [c]

/-- MMA_COMPLETE (R313): the last group has landed, in a gang at every member. The members complete in one step. -/
def execMmaComplete (d c : Nat) (s : State) : Host.Outcome State Fault Refusal :=
  match activeMatrix (s.act d c) with
  | some (_, m) =>
    let l := gangMembers s d m c
    if l.all (mmaLanded s d) then
      let s := l.foldl (fun s j =>
        match activeMatrix (s.act d j) with
        | some (n, y) => s.setAct d j (endMatrix (s.act d j) n y)
        | none => s) s
      match m.gang with
      | some g => let v := s.die d; .next (s.setDie d { v with gangs := tdel v.gangs g })
      | none => .next s
    else .next s
  | none => .next s

/-! ## MMZ (R314) -/

/-- MMZ_START. -/
def execMmzStart (d c : Nat) (s : State) : Host.Outcome State Fault Refusal :=
  let k := s.core d c
  match activeMatrix k.act with
  | some (n, m) =>
    match m.op with
    | .mmz _ =>
      if matrixClear k n m && !(s.die d).capped then .next (s.setAct d c { k.act with mcmds := tins k.act.mcmds n { m with started := true } })
      else .next s
    | .mma _ _ _ _ _ _ _ => .next s
  | none => .next s

/-- MMZ_COMPLETE: every byte of the tiles is zero, and the locks are lifted. -/
def execMmzComplete (d c : Nat) (s : State) : Host.Outcome State Fault Refusal :=
  let a := s.act d c
  match activeMatrix a with
  | some (n, m) =>
    match m.op with
    | .mmz mask =>
      if m.started then
        .next (s.setAct d c (endMatrix { a with
          acc := (tileRuns mask).foldl (fun x r => memZero x r.1 r.2) a.acc
          accBad := (tileRuns mask).foldl (fun l r => wordsWritten l r.1 r.2) a.accBad } n m))
      else .next s
    | .mma _ _ _ _ _ _ _ => .next s
  | none => .next s

/-! ## Replay of weight halves (R318) -/

/-- The replay locks and marks of a set that becomes active. A replay that had not ended is registered anew, and what it owed stays owed. -/
def startReplays (a : SetState) : SetState :=
  [0, 1].foldl (fun a h =>
    let x := a.half h
    if x.valid then
      let owed := ((x.replay.map (·.signals)).getD []) ++ x.signal.toList
      { a.setHalf h { x with replay := some { src := x.src, size := x.size, dom := x.dom, signals := owed }, signal := none } with
        locks := a.locks.filter (fun l => decide (l.owner ≠ LockOwner.replay h)) ++
          [{ space := 2, lo := halfBase h, hi := halfBase h + x.size - 1, w := true, owner := .replay h, seq := 0 }] }
    else a) a

/-- The replay of a half as the WBLD that its snapshot holds. -/
def replayEntry (h : Nat) (r : HalfReplay) : PostEntry :=
  { op := .wbld h, src := r.src, dst := some (linearWalk 2 (halfBase h) r.size), issuer := { dom := r.dom }, engine := some (0, 0, false) }

/-- The image of a half read from its source, chunk by chunk. -/
def reload (s : State) (d c : Nat) (p : PostEntry) (w : Walk) : List Nat → Except Got State
  | [] => .ok s
  | j :: js => do
    let (s, _) ← moveChunk s d c p w j
    reload s d c p w js

/-- A replay ends: its lock is lifted, and the signals of WBLDs that had not completed are given. -/
def endReplay (a : SetState) (h : Nat) (ok : Bool) : SetState :=
  let x := a.half h
  let owed := if ok then (x.replay.map (·.signals)).getD [] else []
  let a := { a with locks := a.locks.filter (fun l => decide (l.owner ≠ LockOwner.replay h)) }
  let a := a.setHalf h { x with replay := none }
  wakeAll (owed.foldl (fun a q => if q.2 = 0 then a else signalSet a q.1 q.2) a)

/-- A replay fails: its image reads zero, and the die reports it, unless an uncorrected error ended it (R465). -/
def failReplay (s : State) (d c h addr : Nat) (tell : Bool) : State :=
  let k := s.core d c
  let n := ((k.act.half h).replay.map (·.size)).getD 0
  let k := k.count 2 1
  let s := s.setCore d c { k with
    act := endReplay k.act h false, wbuf := memZero k.wbuf (halfBase h) n, wbufBad := wordsWritten k.wbufBad (halfBase h) n }
  if tell then s.remoteReport d 5 addr 0xFFFFFFFF (h * 128 + c) else s

/-- WEIGHT_REPLAY_COMPLETE (R318): the half that SEL names first. -/
def execWeightReplayComplete (d c h : Nat) (failed : Bool) (s : State) : Host.Outcome State Fault Refusal :=
  let a := s.act d c
  let other := a.half (1 - h)
  match (a.half h).replay with
  | none => .next s
  | some r =>
    if other.replay.isSome && decide (h ≠ b2n a.sel) then .next s
    else
      let p := replayEntry h r
      match p.dst, r.src with
      | some w, some y =>
        if failed || (keyMissing s d p).isSome then .next (failReplay s d c h y.lo true)
        else
          match reload s d c p w (List.range p.chunks) with
          | .ok s' => .next (s'.setAct d c (endReplay (s'.act d c) h true))
          | .error (.fails va) => .next (failReplay s d c h va true)
          | .error (.bad va) =>
            .next (freezePost (failReplay (s.detect d (physOf (s.die d) c)) d c h va false) d c 6 r.dom.toNat va)
          | .error _ => .next s
      | _, _ => .next (s.setAct d c (endReplay a h true))

end Sys2Proof.Machine
end

