-- ==== Sys2Proof/Machine/Preempt.lean ====
section
/-! DEFINITION. Slices (R126, R426), pre-emption and MK.SHSWAP (R140, R434 to R436), MK.FREEZE and MK.THAW (R139, R439 to R442),
partition records (R425), mk_split (R124). -/

namespace Sys2Proof.Machine

/-! ## Partition records (R425) -/

/-- Does a set hold a live task? -/
def SetState.anyLive (a : SetState) : Bool := a.ctxs.any (fun p => decide (p.2.state ≠ .free))

/-- Has a partition a live task on a die? -/
def partLive (v : Die) (p : Nat) : Bool :=
  v.cores.any (fun q => (decide (q.2.act.part = some p) && q.2.act.anyLive) || (decide (q.2.shd.part = some p) && q.2.shd.anyLive)) ||
  v.saved.any (fun q => decide (q.1 / 128 = p) && q.2.set.anyLive)

/-- The sets of a core as a record of partition `p` leaves them: a named core gives it the active set when no partition holds
that, else a free shadow set; a core no longer named takes its sets back. -/
def Core.belong (k : Core) (p : Nat) (named : Bool) : Core :=
  let mine := decide (k.act.part = some p ∨ k.shd.part = some p)
  if named then
    if mine then k
    else if k.act.part.isNone then { k with act := { k.act with part := some p } }
    else if k.shd.part.isNone && !k.shd.anyLive then { k with shd := { k.shd with part := some p } }
    else k
  else
    let k := if k.act.part = some p then { k with act := { k.act with part := none } } else k
    if k.shd.part = some p then { k with shd := { k.shd with part := none } } else k

/-- SLEN of a partition as REMAIN takes it. -/
def Die.slen (v : Die) (p : Nat) : BitVec 48 := BitVec.ofNat 48 (partSlen (v.part p))

/-- Some core's active set belongs to the partition. -/
def Die.activePart (v : Die) (p : Nat) : Bool := v.cores.any (fun q => decide (q.2.act.part = some p))

/-- Slices of partitions that have just become active on a die, or are active no longer (R426). -/
def syncSlices (v : Die) : Die :=
  let live := v.slices.filter (fun q => v.activePart q.1)
  { v with slices := (List.range 64).foldl (fun t p =>
      if v.activePart p && (tfind t p).isNone then tins t p { running := decide (v.slen p ≠ 0), remain := v.slen p } else t) live }

/-- A write of a partition record: ignored and reported while the partition has a live task on the die, or when NDOM is above
8. -/
def writePart (s : State) (d p : Nat) (v : BitVec 512) : State :=
  let w := s.die d
  if 64 ≤ p then s
  else if partLive w p || decide (8 < partNdom v) then s.report d 5 p
  else
    let r : BitVec 512 := (v >>> 268) <<< 268
    let w := { w with parts := tset 0 w.parts p r }
    let w := (List.range 96).foldl (fun w c => w.setCore c ((w.core c).belong p (partCore r c))) w
    s.setDie d (syncSlices w)

/-- PARTITION_WRITE (R425). -/
def execPartitionWrite (d p : Nat) (v : BitVec 512) (s : State) : Host.Outcome State Fault Refusal := .next (writePart s d p v)

/-! ## Slices (R126, R426) -/

/-- mk_slice of a core as the die controller's copy leaves it. -/
def Core.copySlice (k : Core) (v : Die) : Core :=
  match k.act.part.bind (fun p => tfind v.slices p) with
  | some x => { k with running := x.running, remain := x.remain, preq := k.preq || x.preq }
  | none => { k with running := false, remain := 0 }

/-- SLICE_COPY: every 64 cycles of the die controller. -/
def execSliceCopy (d c : Nat) (s : State) : Host.Outcome State Fault Refusal :=
  let v := s.die d
  if v.dcyc.toNat % 64 = 0 then .next (s.setCore d c ((v.core c).copySlice v)) else .next s

/-- Does another partition wait for cores of `p`: a share in its queues, or READY contexts in a shadow set (R426)? -/
def otherWaits (v : Die) (p : Nat) : Bool :=
  let mine := v.cores.filter (fun q => decide (q.2.act.part = some p))
  mine.any (fun q => decide (q.2.shd.part ≠ some p ∧ q.2.shd.part ≠ none) && !q.2.shd.runq.isEmpty) ||
  v.lq.any (fun q => decide (q.1 / 8 ≠ p) && !q.2.isEmpty && mine.any (fun m => partCore (v.part (q.1 / 8)) m.1))

/-- The cores of a partition on a die, changed. -/
def Die.mapPart (v : Die) (p : Nat) (f : Core → Core) : Die :=
  { v with cores := v.cores.map (fun q => if q.2.act.part = some p then (q.1, f q.2) else q) }

/-- SLICE_EXPIRY: REMAIN is 0, so cause 20 is pending; PREQ rises when another partition waits. The retirements of the cycle in which
REMAIN reached 0 come first, so it happens once that cycle is over, and raises no PREQ for a slice whose last task they were (R427). -/
def execSliceExpiry (d p : Nat) (s : State) : Host.Outcome State Fault Refusal :=
  let v := s.die d
  match tfind v.slices p with
  | some x =>
    if x.running ∧ x.remain = 0 ∧ x.zeroAt ≠ some v.dcyc then
      let up := x.preq || (!x.quiet && otherWaits v p)
      let v := v.mapPart p (fun k => { k with running := true, remain := 0, preq := k.preq || up })
      .next (s.setDie d { v with slices := tins v.slices p { x with preq := up, since := if x.preq then x.since else 0 } })
    else .next s
  | none => .next s

/-! ## Pre-emption (R434 to R436) -/

/-- PREEMPT_ORDER: every core of the partition on the die has acknowledged. -/
def execPreemptOrder (d p : Nat) (s : State) : Host.Outcome State Fault Refusal :=
  let v := s.die d
  match tfind v.slices p with
  | some x =>
    let mine := v.cores.filter (fun q => decide (q.2.act.part = some p))
    if x.preq && !mine.isEmpty && mine.all (fun q => q.2.preq && q.2.pack) then
      .next (s.setDie d (v.mapPart p (fun k => { k with ordered := true })))
    else .next s
  | none => .next s

/-- PREEMPT_LATE: 2^20 controller cycles since PREQ, and the core has not acknowledged; reported once. -/
def execPreemptLate (d c : Nat) (s : State) : Host.Outcome State Fault Refusal :=
  let v := s.die d
  let k := v.core c
  match k.act.part with
  | some p =>
    match tfind v.slices p with
    | some x =>
      if x.preq ∧ 2 ^ 20 ≤ x.since ∧ ¬k.pack ∧ c < 96 ∧ x.late.getLsbD c = false then
        .next ((s.setDie d { v with slices := tins v.slices p { x with late := x.late ||| (1#96 <<< c) } }).report d 6 c)
      else .next s
    | none => .next s
  | none => .next s

/-- The least privilege of a CSR write by the hart whose turn it is, and the write, which a 4-byte instruction makes (R123). The
value that mtval then takes is not stated (log entry 3). -/
def csrRun (least : Mode) (body : Nat → Nat → State → HRes) (s : State) : Host.Outcome State Fault Refusal :=
  match s.cur with
  | .slot _ _ _ => .next s
  | .hart d c =>
    let h := s.hart d c
    if h.wfi then .next s
    else if h.mode.rank < least.rank then .next (s.hartTrap d c false 2 (s.free 0))
    else hartFinish s d c 0 0 (body d c s)

/-- MK_SLICE_PACK (R126, R435): PACK is W1S, the other fields are read only. -/
def execMkSlicePack (v : W64) (s : State) : Host.Outcome State Fault Refusal :=
  csrRun .s (fun d c s =>
    let k := s.core d c
    .ok (s.setCore d c { k with pack := k.pack || v.getLsbD 63 }, 0)) s

/-- Every slot is empty, herded or parked; with the flock stopped, one that waits or stalls in a block counts as herded (R140,
R434). -/
def swapReady (k : Core) : Bool :=
  (List.range 32).all (fun i => if k.stopped then slotStopped k.act i && !k.posting i
    else decide ((k.act.slot i).mode ∈ [SlotMode.empty, .herded, .parked]))

/-- MK.SHSWAP (R140, R436). -/
def execMkShswap (r : RType) (s : State) : Host.Outcome State Fault Refusal :=
  hartRun .m 3 0 r { rd := true } (fun d c _ _ s =>
    let k := s.core d c
    match k.swap with
    | .done => .ok (s.setCore d c { k with swap := .none }, if k.setB then 0x100 else 0)
    | .draining => .error (.stall s)
    | .none =>
      if !swapReady k || (k.preq && !k.pack) then status s stBadstate
      else if k.preq && !k.ordered then .error (.stall s)
      else .error (.stall (s.setCore d c { k with swap := .draining }))) s

/-- The drain has ended: no started matrix command, no buffered store, no update or post on its way (R140, R265, R317). -/
def drainedCore (k : Core) : Bool :=
  k.act.mcmds.all (fun m => !m.2.started) && k.sb.isEmpty && k.updates.isEmpty && (List.range 32).all (fun i => !k.posting i)

/-- An unformed gang arrival counts as not issued (R310): its command is undone, and its context executes the MMA again. -/
def unarrive (a : SetState) (g : Nat) : SetState :=
  match gangCmd a g with
  | none => a
  | some (n, m) =>
    let a := wakeAll (dropMatrix a n)
    let ix := m.issuer.ix
    let a := if a.hgang.any (fun h => decide (h.n = n)) then { a with hgang := none } else a
    let x := a.ctx ix
    if m.issuer.hart ∨ x.inc ≠ m.issuer.inc ∨ x.wait ≠ some .gang then a
    else
      let a := a.setCtx ix { x with wait := none, satisfied := false, gangWait := 0 }
      if x.state = .blocked then makeReady a ix else a

/-- All unformed arrivals of a core are undone. -/
def unformed (s : State) (d c : Nat) : State :=
  (s.die d).gangs.foldl (fun s g =>
    if g.2.formed || !g.2.members.contains c then s
    else
      let s := s.setAct d c (unarrive (s.act d c) g.1)
      let v := s.die d
      let l := g.2.members.filter (fun j => decide (j ≠ c))
      s.setDie d { v with gangs := if l.isEmpty then tdel v.gangs g.1 else tins v.gangs g.1 { g.2 with members := l } }) s

/-- A WBLD that has not completed is dropped from its engine; its half's descriptor holds it (R317). -/
def dropWblds (a : SetState) : SetState :=
  a.post.foldl (fun a p => match p.2.op with
    | .wbld _ => freeEntry a p.1
    | _ => a) a

/-- A pending trigger of a set that is not active holds no place in the arrival buffer (R220). -/
def unplace (a : SetState) : SetState :=
  { a with counters := a.counters.map (fun p => (p.1, { p.2 with trig := p.2.trig.map (fun t => { t with placed := false }) })) }

/-- An incoming set that no partition holds is taken by one whose share waits for the core (R426). -/
def adopt (v : Die) (c : Nat) (a : SetState) : SetState :=
  if a.part.isSome then a
  else { a with part := (v.lq.find? (fun q => !q.2.isEmpty && partCore (v.part (q.1 / 8)) c &&
                  decide ((v.core c).act.part ≠ some (q.1 / 8)))).map (fun q => q.1 / 8) }

/-- The slots of an outgoing set as the exchange leaves them: one in a block executes the instruction it stands at again, from the start
(R101, R265, R434); a barrier it has joined stays joined (R224), a gang that has formed stays formed (R310). -/
def restartBlocks (a : SetState) : SetState :=
  (List.range 32).foldl (fun a i =>
    let sl := a.slot i
    if sl.mode = .block then
      let x := a.ctx sl.ix
      let keep := match x.wait with
        | some (.bar _ _) => true
        | some .gang => true
        | _ => false
      let a := a.setSlot i { sl with stalled := false, beat := none }
      if keep then a else a.setCtx sl.ix { x with wait := none, satisfied := false }
    else a) a

/-- The exchange of R140 step 3 and R435 step 6: the sets change places, PACK and PREQ clear, REMAIN is loaded from the
incoming partition's SLEN, and its halves start their replay (R318). -/
def exchange (v : Die) (c : Nat) : Die :=
  let k := v.core c
  let out := restartBlocks (unplace (dropWblds k.act))
  let inc := startReplays (adopt v c k.shd)
  let len := match inc.part with
    | some p => v.slen p
    | none => 0
  let k := { k with
    act := inc, shd := out, setB := !k.setB, swap := .done, pack := false, preq := false, ordered := false, stopped := false
    remain := len, running := decide (len ≠ 0), pend := []
    arr := k.arr.filter (fun x => match x with
      | .trigger _ => false
      | _ => true)
    hart := { k.hart with resv := none } }
  syncSlices (v.setCore c k)

/-- SHSWAP_EXCHANGE: once the drain has ended. -/
def execShswapExchange (d c : Nat) (s : State) : Host.Outcome State Fault Refusal :=
  let k := s.core d c
  if k.swap = .draining ∧ drainedCore k then
    let s := unformed s d c
    .next (s.setDie d (exchange (s.die d) c))
  else .next s

/-! ## MK.FREEZE and MK.THAW (R139, R439 to R442) -/

abbrev stBadkind : Nat := 7

/-- A bad agent operand raises illegal-instruction: a field out of range, or a bit where the layout shows none. -/
def agentArg (kind : Nat) (v : W64) : Bool :=
  match kind with
  | 0 => decide (v.toNat < 2 ^ 32)
  | 2 => decide (fld v 31 5 = 0 ∧ v.toNat < 2 ^ 44)
  | _ => true

/-- MK.FREEZE (S): reason 5. A current handle of a FREE index gives BADSTATE (log entry 28). -/
def execMkFreeze (r : RType) (s : State) : Host.Outcome State Fault Refusal :=
  hartRun .s 3 1 r { rd := true, rs1 := true, rs2 := true } (fun d c v w s => do
    legal (agentArg w.toNat v)
    let k := s.core d c
    let odom := k.dom.toNat
    let tdom := targetDom (s.die d) c
    match w.toNat with
    | 0 =>
      match handleIx k.act d c v.toNat with
      | none => status s stStale
      | some ix =>
        if (k.act.ctx ix).state = .free then status s stBadstate else
        let dom := (k.act.ctx ix).dom.toNat
        let s := setFrz (s.setAct d c (freezeCtx k.act ix)) d c
        pure (freezeReport s d 0 5 v.toNat dom tdom 0 false, 0)
    | 1 =>
      let s := setFrz (s.setAct d c { k.act with postFrozen := true }) d c
      pure (freezeReport s d 1 5 c odom tdom 0 false, 0)
    | 2 =>
      let v' := s.die d
      let e := fld v 4 0
      let dom := fld v 43 32
      let s := setFrz (s.setDie d { v' with engFrz := if v'.engFrz.contains (e, dom) then v'.engFrz else v'.engFrz ++ [(e, dom)] }) d c
      pure (freezeReport s d 2 5 (e + d * 256) dom tdom 0 false, 0)
    | _ => status s stBadkind) s

/-- The requests of a domain held at an engine resume, in the order of their arrival (R442). -/
def resumeStream (d : Nat) (e : Nat × Nat) (a : SetState) : SetState :=
  { a with post := a.post.map (fun p =>
      (p.1, if p.2.engine.any (fun x => decide (x.1 = d ∧ x.2.1 = e.1)) && decide (p.2.issuer.dom.toNat = e.2) then { p.2 with resume := true } else p.2)) }

/-- MK.THAW (M): releases an agent of the active set. -/
def execMkThaw (r : RType) (s : State) : Host.Outcome State Fault Refusal :=
  hartRun .m 3 2 r { rd := true, rs1 := true, rs2 := true } (fun d c v w s => do
    legal (agentArg w.toNat v)
    let k := s.core d c
    match w.toNat with
    | 0 =>
      match handleIx k.act d c v.toNat with
      | none => status s (if (handleIx k.shd d c v.toNat).isSome then stBadstate else stStale)
      | some ix =>
        if (k.act.ctx ix).state = .frozen then pure (s.setAct d c (thawCtx k.act ix), 0) else status s stBadstate
    | 1 =>
      if k.act.postFrozen then pure (s.setAct d c { k.act with postFrozen := false }, 0) else status s stBadstate
    | 2 =>
      let v' := s.die d
      let e := (fld v 4 0, fld v 43 32)
      if v'.engFrz.contains e then pure (s.setDie d { v' with engFrz := v'.engFrz.erase e } |>.mapSets (resumeStream d e), 0)
      else status s stBadstate
    | _ => status s stBadkind) s

/-- FTHAW_WRITE (R442): an M-mode store of domain 0 to the die controller. -/
def execFthawWrite (_d : Nat) (v : W64) (s : State) : Host.Outcome State Fault Refusal :=
  .next { s with fnFrz := s.fnFrz &&& ~~~(v.setWidth 16) }

/-! ## mk_split (R124) -/

/-- Lines that leave a shrinking cache portion: the manual does not say which lie in the departing steps (log entry 4); no more
stay than fit. -/
def departing (tick room : Nat) (l : List Nat) : List Nat :=
  let stay := ((l.zipIdx.filter (fun p => decide (Config.freePick (tick * 65536 + p.2) % 2 = 1))).map (·.1)).take room
  l.filter (fun f => !stay.contains f)

/-- A line leaves a core's active set, written back when dirty (R233). -/
def castOut (s : State) (d c f : Nat) : State :=
  let dirty := (tfind (s.act d c).lines f).any (fun l => l.dirty)
  let s := if dirty then cleanLine s f else s
  let a := s.act d c
  movePtr (s.setAct d c { a with lines := tdel a.lines f }) f d c none

/-- Granules of [lo, hi) tagged 0. -/
def voidTags (p : Sparse Gran) (lo hi : Nat) : Sparse Gran :=
  p.filterMap (fun g => if lo ≤ 16 * g.1 ∧ 16 * g.1 < hi then
    voidGran g else some g)

/-- CACHE lowered on a core's active set: the departing lines are written back and dropped, the released granules void. -/
def shrinkCache (s : State) (d c n : Nat) : State :=
  let a := s.act d c
  let old := a.scratch
  let s := s.setAct d c { a with cache := BitVec.ofNat 4 n }
  let room := cacheRoom (s.core d c)
  let s := (departing s.tick room (a.lines.map (·.1))).foldl (fun s f => castOut s d c f) s
  let a := s.act d c
  s.setAct d c { a with pad := voidTags a.pad old a.scratch }

/-- MK_SPLIT_WRITE (R124). -/
def execMkSplitWrite (v : W64) (s : State) : Host.Outcome State Fault Refusal :=
  csrRun .s (fun d c s =>
    let a := s.act d c
    let n := fld v 3 0
    if n = 0 ∨ n = a.cache.toNat then .ok (s, 0)
    else if a.cache.toNat < n then
      if a.taken.all (fun r => decide (r.2 = 0 ∨ r.1 + r.2 ≤ (16 - n) * 65536)) then
        .ok (s.setAct d c { a with cache := BitVec.ofNat 4 n }, 0)
      else .ok (s, 0)
    else .ok (shrinkCache s d c n, 0)) s

end Sys2Proof.Machine
end

