-- ==== Sys2Proof/Machine/StreamCopies.lean ====
section
/-! DEFINITION. The engine commands on streams, SPGR, SPGW and SMIG at issue (R348, R349, R354, R355), and PSORT (R388). -/

namespace Sys2Proof.Machine

/-! ## Requests on a stream that hold a post-queue entry -/

/-- Is every earlier store of the issuer performed? (R333) -/
def whoReleased (s : State) (w : Who) : Bool :=
  let k := s.core w.a.die w.a.core
  if w.i.hart then decide (lastHartStore k = 0) else decide (lastStore k w.i.ix w.i.inc = 0)

/-- A command's stream, or its status; `busy` answers BUSY for a MIGRATING stream, which else holds the request (R340). Another
package's stream answers with a free status; where that is OK, `away` issues (log entry 25). A record in error frees the stream, whose
handle is then STALE (R465). -/
def whoStream (s : State) (w : Who) (h : BitVec 32) (busy nodes : Bool) (away : BitVec 32 → Res (State × Nat))
    (f : Nat → Nat → Res (State × Nat)) : Res (State × Nat) :=
  if !whoReleased s w then stall s
  else
    let h := (s.pend w.a).fwd.getD h
    if s.streamAway h then (if awayStatus s = 0 then away h else .ok (s, awayStatus s))
    else match s.streamOf h with
      | none => .ok (s, 1)
      | some (d, i) =>
        let x := s.stream d i
        if let some b := streamError s d i (nodes && decide (x.dom = w.i.dom)) then .ok (loseStream s d i b, 1)
        else if x.dom ≠ w.i.dom then .ok (s, 5)
        else if x.st = .migrating then
          if busy then .ok (s, 4) else stall (s.ask w.a (.migrating h))
        else if x.posting then stall s
        else f d i

/-- Issues what was resolved in `s'`; while entry, locks or port are not free, the resolution starts again from `s`. -/
def issueResolved (w : Who) (p : Plan) (t : TailE) (words : Sparse W64) (s s' : State) : Res (State × Nat) :=
  match issuePlan w p t words s' with
  | .ok s' => .ok (s', 0)
  | .error (.stall _) => stall s
  | .error x => .error x

/-- The no-frame fault or a status of a command (R329). -/
def whoFail (s : State) (d i so : Nat) (err : SErr) : Res (State × Nat) :=
  match err with
  | .status n => .ok (s, n)
  | .noFrame =>
    let x := s.stream d i
    let s := if x.st = .waitPage then s
      else s.setDie d ((dqDrop (s.die d) i).setStream i { x with st := .waitPage, pst := x.st })
    .error (.faultIn { code := streamFault, faddr := some so, tok := (s.streamHandle d i).toNat } s)

/-- Runs a command of the executing context that answers with a status. -/
def statusRun (u : Use) (d : BitVec 7) (t : TailE) (body : Who → Vals → State → Res (State × Nat)) (s : State) :
    Host.Outcome State Fault Refusal :=
  ctxRun u (fun e s => do
    let v ← readVals (s.act e.d e.c) e.ix t true true false
    let (s, st) ← body (whoOf s e) v s
    pure (answer s e d st)) s

/-- The registers of a stream command. -/
def statusUse (legal : Bool) (d : BitVec 7) (t : TailE) : Use :=
  { legal := legal && t.l = 0, regs := [(d.toNat, 1), (t.b.toNat, 1), (t.c.toNat, 1)], srcs := [t.b.toNat, t.c.toNat] }

/-! ## SPGR and SPGW (R348, R349) -/

/-- The page word is legal. -/
def pageWordOk (write : Bool) (v : W128) : Bool :=
  decide (fld v 127 82 = 0 ∧ fld v 76 75 < 2 ∧ fld v 40 20 ≤ 0x100000) &&
  !(write && bit v 81) &&
  decide (fld v 74 41 + fld v 40 20 ≤ (if fld v 76 75 = 1 then 0x10000 else 2 ^ 34))

/-- The state pages of a range. -/
def statePages (so len : Nat) : List Nat :=
  if len = 0 then [] else (List.range ((so + len - 1) / 65536 + 1 - so / 65536)).map (fun j => so / 65536 + j)

/-- The page entries of a range as SPGR reads them; the penalty page stands at page 0. -/
def readEntries (s : State) (d i : Nat) (pen : Bool) (l : List Nat) : List (Nat × W64) :=
  l.map (fun p => (p, if pen then (s.stream d i).pen else readPage s d i (p * 65536)))

/-- The page entries of a range, each made exclusive for SPGW. -/
def writeEntries (d i : Nat) (pen : Bool) : List Nat → State → SRes (State × List (Nat × W64))
  | [], s => .ok (s, [])
  | p :: t, s => do
    let (s, e) ← if pen then writePen s d i else writePage s d i (p * 65536)
    let (s, r) ← writeEntries d i pen t s
    pure (s, (p, e) :: r)

/-- The resolution of a command: its page entries, with pins placed. -/
def resolvePages (s : State) (d i : Nat) (write pen : Bool) (l : List Nat) : SRes (State × List (Nat × W64)) := do
  let (s, es) ← if write then writeEntries d i pen l s else pure (s, readEntries s d i pen l)
  let es := es.filter (fun p => eValid p.2)
  let s ← placePins d write (es.map (fun p => eKey p.2)) s
  pure (s, es)

/-- SPGR and SPGW of a stream of another package: its pages lie there at free addresses, a page that it does not have reads zero, and no
frame may be free for a write (R326, R329, log entry 25). -/
def awayPages (write : Bool) (s : State) (h : BitVec 32) (so len : Nat)
    (issue : BitVec 32 → List Nat → List (Nat × Nat) → State → State → Res (State × Nat)) : Res (State × Nat) :=
  let fas := (statePages so len).map (fun p => (p, mkFa (hPkg h) (hDie h) 3 0 ((s.free (32 + p)).toNat % 2 ^ 20 * 65536)))
  if write && Config.freePick (s.tick * 65536 + 1) % 2 = 1 then
    .error (.faultIn { code := streamFault, faddr := some so, tok := h.toNat } s)
  else issue h [] (if write then fas else fas.filter (fun q => (s.free (32 + q.1)).getLsbD 63)) s s

/-- SPGR and SPGW with their operands. -/
def issueSpg (write : Bool) (t : TailE) (w : Who) (v : Vals) (s : State) : Res (State × Nat) := do
  let acc := t.f12.getLsbD 0
  let len := fld v.c 40 20
  let so := fld v.c 74 41
  let pen := decide (fld v.c 76 75 = 1)
  let loc := linearWalk (b2n acc) (fld v.c 19 0) len
  let cm := if !write && bit v.c 81 then some (fld v.c 80 77) else none
  need (pageWordOk write v.c && chunkOk cm loc)
  let issue := fun (h : BitVec 32) (keys : List Nat) (fas : List (Nat × Nat)) (s s' : State) =>
    let pages := { linearWalk 4 so len with pages := fas }
    issueResolved w
      { op := .spg write h keys, src := some (if write then loc else pages),
        dst := some (if write then pages else loc), cm := cm, port := 3 } t (valWords t 0xFD80 v) s s'
  whoStream s w (v.b.setWidth 32) false true (fun h => awayPages write s h so len issue) (fun d i =>
    match resolvePages s d i write pen (statePages so len) with
    | .error err => whoFail s d i so err
    | .ok (s', es) =>
      let h := s.streamHandle d i
      let s' := if write then wpinStream (cloned s s' d i) h (· + 1) else s'
      issue h (es.map (fun p => eKey p.2)) (es.map (fun p => (p.1, frameFa (s'.die d) p.2))) s s')

def useSpgr (d : BitVec 7) (t : TailE) : Use := statusUse (f12Is t 0x500 1) d t

/-- SPGR (R349). -/
def execSpgr (d : BitVec 7) (t : TailE) (s : State) : Host.Outcome State Fault Refusal :=
  statusRun (useSpgr d t) d t (issueSpg false t) s

def useSpgw (d : BitVec 7) (t : TailE) : Use := statusUse (f12Is t 0x600 1) d t

/-- SPGW (R349). -/
def execSpgw (d : BitVec 7) (t : TailE) (s : State) : Host.Outcome State Fault Refusal :=
  statusRun (useSpgw d t) d t (issueSpg true t) s

/-! ## SMIG (R354) -/

/-- The result address: aligned, class 2 or 3, W; its fabric address. -/
def resultFa (s : State) (w : Who) (va : Nat) : Res Nat := do
  if va % 8 ≠ 0 then raiseAt alignFault va
  else
    match ← rangeLook s w.a { w := true } 2 [va] with
    | .error f => .error (.fault f)
    | .ok l =>
      let fa := (l.headD (0, 0)).2 + va % 65536
      if faClass fa = 2 ∨ faClass fa = 3 then pure fa else .error (.fault { code := prot, faddr := some va, acc := 2 })

/-- SMIG with its operands. -/
def issueSmig (t : TailE) (w : Who) (v : Vals) (s : State) : Res (State × Nat) := do
  need (decide (fld v.c 63 16 = 0))
  let fa ← resultFa s w (fld v.c 127 64)
  let pkg := fld v.c 11 0
  let die := fld v.c 15 12
  let issue := fun (h : BitVec 32) =>
    issueResolved w { op := .smig h pkg die fa (fld v.c 127 64), port := 3 } t (valWords t 0xFD80 v) s s
  whoStream s w (v.b.setWidth 32) true false issue (fun d i =>
    let x := s.stream d i
    if (pkg = s.pkg.toNat ∧ die = d) ∨ x.st = .droved ∨ x.st = .waitPage ∨ x.spec then .ok (s, 6)
    else issue (s.streamHandle d i))

def useSmig (d : BitVec 7) (t : TailE) : Use := statusUse (f12Is t 0xB00 0) d t

/-- SMIG (R354). -/
def execSmig (d : BitVec 7) (t : TailE) (s : State) : Host.Outcome State Fault Refusal :=
  statusRun (useSmig d t) d t (issueSmig t) s

/-! ## PSORT (R388) -/

/-- PSORT's operands are legal (R388, R391). -/
def psortLegal (b c : W128) : Bool :=
  decide (fld b 63 37 = 0 ∧ fld b 127 96 = 0 ∧ 1 ≤ fld b 36 20 ∧ fld b 36 20 ≤ 65536 ∧ fld b 95 64 + fld b 36 20 ≤ 2 ^ 32 ∧
    fld c 127 27 = 0 ∧ 1 ≤ fld c 26 20 ∧ fld c 26 20 ≤ 64)

/-- PSORT with its operands. -/
def issuePsort (t : TailE) (w : Who) (v : Vals) (s : State) : Res State := do
  need (psortLegal v.b v.c)
  let src := fld v.b 19 0
  let n := fld v.b 36 20
  let dst := fld v.c 19 0
  let k := fld v.c 26 20
  if src % 4 ≠ 0 then raiseAt alignFault src
  else if dst % 8 ≠ 0 then raiseAt alignFault dst
  else
    issuePlan w { op := .psort src n k dst (fld v.b 95 64), src := some (linearWalk 0 src (4 * n)),
                  dst := some (linearWalk 0 dst (8 * k + 8)) } t (valWords t 0xFE80 v) s

def usePsort (d : BitVec 7) (t : TailE) : Use := issueUse (d = 0 && t.l = 0 && f12Is t 0x300 0) t true true false

/-- PSORT (R388). -/
def execPsort (d : BitVec 7) (t : TailE) (s : State) : Host.Outcome State Fault Refusal :=
  issueRun (usePsort d t) true true false t (issuePsort t) s

/-- The candidates of a PSORT: its values with their keys. -/
def psortCands (bytes base n : Nat) : List Cand :=
  (List.range n).map (fun i => { v := decodeF fmtF32 (elem bytes 32 i), key := BitVec.ofNat 64 (base + i) })

/-- One entry written: value and key; absent and NaN values are the canonical NaN. -/
def psortEntry (c : Option Cand) : Nat :=
  match c with
  | some c => (match c.v with
    | .nan _ => 0x7FC00000
    | v => (roundVal fmtF32 {} v).1) + c.key.toNat % 2 ^ 32 * 2 ^ 32
  | none => 0x7FC00000 + 0xFFFFFFFF * 2 ^ 32

/-- The header and entries of a PSORT. -/
def psortOut (bytes base n k : Nat) : Nat :=
  let r := (ranked (psortCands bytes base n)).take k
  let allNan := match r.head? with
    | some c => c.v.isNan
    | none => false
  Nat.min k n + b2n allNan * 65536 +
    ((List.range k).foldr (fun i acc => psortEntry r[i]? + 2 ^ 64 * acc) 0) * 2 ^ 64

/-- Bytes of a local space as an engine reads them: each under the generation of the live region that covers it (R146). -/
def engineBytes (a : SetState) (lo : Nat) : Nat → Nat
  | 0 => 0
  | n + 1 => (match a.coverGen lo 1 with
    | some g => padBytes a.pad g lo 1
    | none => 0) + 256 * engineBytes a (lo + 1) n

/-- The first byte of a granule in error that a PSORT would consume: among its source bytes, or kept beside its output (R464). -/
def psortBad (a : SetState) (src n dst m : Nat) : Option Nat :=
  let bad := fun b => match a.coverGen b 1 with
    | some g => (padBad a.pad g b 1).isSome
    | none => false
  let ends := (List.range 16 ++ (List.range 16).map (fun i => m - 16 + i)).filter (fun i => i < m &&
    !decide (dst ≤ (dst + i) / 16 * 16 ∧ (dst + i) / 16 * 16 + 16 ≤ dst + m))
  ((List.range n).map (src + ·) ++ ends.map (dst + ·)).find? bad

/-- Bytes written by an engine; those that no live region covers are dropped. -/
def engineRun (a : SetState) (lo : Nat) : Nat → Nat → SetState
  | 0, _ => a
  | n + 1, v =>
    let a := match a.coverGen lo 1 with
      | some g => { a with pad := padPut a.pad g lo 1 (v % 256) }
      | none => a
    engineRun a (lo + 1) n (v / 256)

/-- The same, granules written whole being good again (R464). -/
def enginePut (a : SetState) (lo n v : Nat) : SetState :=
  let a := engineRun a lo n v
  { a with pad := (wholeGrans lo n).foldl mendGran a.pad }

end Sys2Proof.Machine
end

