-- ==== Sys2Proof/Machine/StreamEvents.lean ====
section
/-! DEFINITION. What the stream processors do on their own: drove dispatch and the residency table (R336 to R338), the cascade
of freed frames (R330), tier moves (R334), migration (R340); and the end of a PSORT (R388). -/

namespace Sys2Proof.Machine

/-! ## PSORT_COMPLETE (R388) -/

/-- PSORT_COMPLETE: header and entries written, then the command completes with its signal. -/
def execPsortComplete (d c e : Nat) (s : State) : Host.Outcome State Fault Refusal :=
  let k := s.core d c
  match tfind k.act.post e with
  | none => .next s
  | some p =>
    match p.op with
    | .psort src n kk dst base =>
      if !entryClear k p then .next s
      else if let some b := psortBad k.act src (4 * n) dst (8 * kk + 8) then .next (badEntry s d c e p b)
      else
        let a := enginePut k.act dst (8 * kk + 8) (psortOut (engineBytes k.act src (4 * n)) base n kk)
        .next (s.setAct d c (endCommand a e p))
    | _ => .next s

/-! ## The drover (R336 to R338) -/

/-- DROVE_MIN is reached, or the oldest member has waited DROVE_WAIT. -/
def droveDue (r : W128) (q : List (Nat × Nat)) : Bool :=
  !q.isEmpty && (decide (resDmin r + 1 ≤ q.length) || q.any (fun p => decide (resDwait r ≤ p.2)))

/-- The list buffer of the drove that a stream is a member of: it is DROVED, or returns to that from WAIT_PAGE (log entry 17). -/
def Stream.list (x : Stream) : Option Nat :=
  if x.st = .droved ∨ (x.st = .waitPage ∧ x.pst = .droved) then x.drove else none

/-- A list buffer that no stream's drove uses: which of the free ones is open (log entry 4). -/
def freeList (s : State) (v : Die) : Option Nat :=
  if spReg v 0x98 = 0 then none
  else
    let used := v.streams.filterMap (fun p => p.2.list)
    let free := (List.range 64).filter (fun i => !used.contains i)
    if free.isEmpty then none else free[Config.freePick (s.tick * 65536) % free.length]?

/-- The next quad of a mask in round-robin order whose active sets permit the domain. -/
def nextQuad (v : Die) (e : Nat) (r : W128) : Option Nat :=
  let start := tget 0 v.rr e
  ((List.range 24).map (fun j => (start + j) % 24)).find? (fun q =>
    (resQmask r).testBit q && (List.range 4).all (fun i => v.permits (v.core (4 * q + i)).act.part (resDom r)))

/-- The core of least ready depth in a quad, the lowest on a tie. -/
def shallowCore (v : Die) (q : Nat) : Nat :=
  (List.range 4).foldl (fun best i =>
    if (v.core (4 * q + i)).act.runq.length < (v.core best).act.runq.length then 4 * q + i else best) (4 * q)

/-- w0 of a drove task (R338). -/
def droveW0 (v : Die) (buf n cur e : Nat) : W128 :=
  BitVec.ofNat 128 ((spReg v 0xA0 + 1024 * buf) % 2 ^ 64 + n * 2 ^ 64 + cur * 2 ^ 80 + e * 2 ^ 96)

/-- The members of a drove become DROVED. -/
def droveMembers (v : Die) (buf : Nat) (l : List Nat) : Die :=
  l.foldl (fun v i => let v := dqDrop v i
                      v.setStream i { v.stream i with st := .droved, drove := some buf }) v

/-- DROVE_DISPATCH (R337, R338): the first 256 streams of a due queue go to a core as one task, their next layer's pages
staged (R335). -/
def execDroveDispatch (d e : Nat) (s : State) : Host.Outcome State Fault Refusal :=
  let v := s.die d
  let r := v.res e
  let q := tget [] v.dq e
  if !droveDue r q then .next s
  else
    match freeList s v, nextQuad v e r with
    | some buf, some quad =>
      let c := shallowCore v quad
      let k := v.core c
      let l := (q.take 256).map (·.1)
      if !arrivalRoom k then .next s
      else if let some i := l.find? (fun i => (s.stream d i).bad) then .next (loseStream s d i (104, 0))
      else
        let first := l.headD 0
        let x : Arrival := .drove (BitVec.ofNat 57 (resHip r)) (droveW0 v buf l.length (v.stream first).cur.toNat e)
          (s.streamHandle d first) (BitVec.ofNat 3 (resPrio r)) (BitVec.ofNat 12 (resDom r))
        let bytes := l.flatMap (fun i => bytesOf 4 (s.streamHandle d i).toNat)
        let v := droveMembers { v with rr := tset 0 v.rr e ((quad + 1) % 24) } buf l
        let s := s.setDie d (v.setCore c { k with arr := k.arr ++ [x] })
        let s := l.foldl (stageNext d) s
        .next (storeBytes s (spReg (s.die d) 0x98 + 1024 * buf) bytes)
    | _, _ => .next (s.setDie d (v.count 0x0A))

/-- A residency entry takes a value: the streams queued at it are judged again (R336). -/
def setResidency (v : Die) (e : Nat) (x : W128) : Die :=
  let x := BitVec.ofNat 128 (fld x 124 0)
  let v := { v with resid := tset 0 v.resid e x }
  (tget [] v.dq e).foldl (fun v p =>
    if resRejects x (v.stream p.1) then
      let v := dqDrop v p.1
      (v.setStream p.1 { v.stream p.1 with st := .idle }).count 9
    else v) v

/-- RESIDENCY_WRITE (R336). -/
def execResidencyWrite (d e : Nat) (x : BitVec 128) (s : State) : Host.Outcome State Fault Refusal :=
  if e < 4096 then .next (s.setDie d (setResidency (s.die d) e x)) else .next s

/-! ## Frames (R330, R334) -/

/-- One entry of the cascade: a child of the first freed node is released, or the node returns to its pool. -/
def cascadeEntry (s : State) (d : Nat) : State :=
  let v := s.die d
  match v.cascade with
  | [] => s
  | (key, i) :: t =>
    if 512 ≤ i then s.setDie d { v.setFrame key {} with cascade := t }
    else
      let x := nodeEntry s d (entryOf key) i
      entryDown (s.setDie d { v with cascade := (key, i + 1) :: t }) d x

def cascadeEntries (d : Nat) : Nat → State → State
  | 0, s => s
  | n + 1, s => cascadeEntries d n (cascadeEntry s d)

/-- FRAME_CASCADE (R330): up to 16 entries. -/
def execFrameCascade (d : Nat) (s : State) : Host.Outcome State Fault Refusal := .next (cascadeEntries d 16 s)

/-- An entry that named one frame names another. -/
def reentry (old new e : W64) : W64 := if e = old then new else e

/-- The entries of a node that name a moved frame follow it. -/
def renode (s : State) (d : Nat) (old new : W64) (key : Nat) : State :=
  (nodeEntries s d (entryOf key)).foldl (fun s p => if p.2 = old then setNodeEntry s d (entryOf key) p.1 new else s) s

/-- TIER_MOVE (R334): an unpinned frame moves to a free frame; every entry that points to it follows, no byte and no count
changes. -/
def execTierMove (d tier : Nat) (node : Bool) (frame toTier toFrame : Nat) (s : State) : Host.Outcome State Fault Refusal :=
  let v := s.die d
  let key := tier * 2 ^ 61 + b2n node * 2 ^ 60 + frame
  let dest := toTier * 2 ^ 61 + b2n node * 2 ^ 60 + toFrame
  match tfind v.frames key with
  | none => .next s
  | some f =>
    if tier < 3 ∧ toTier < 3 ∧ frame < 2 ^ 32 ∧ f.rpins = 0 ∧ f.wpins = 0 ∧ ¬f.going ∧ toFrame < poolCount v toTier node ∧
       (tfind v.frames dest).isNone then
      let old := entryOf key
      let new := entryOf dest
      let s := copyFrame s (frameFa v old) (frameFa v new) (frameBytes node)
      let v := (v.setFrame key {}).setFrame dest f
      let v := { v with streams := v.streams.map (fun p => (p.1, { p.2 with
        staged := p.2.staged.filterMap (fun q => if q.1 ≠ key then some q else if toTier = 2 then some (dest, q.2) else none),
        croot := reentry old new p.2.croot, oroot := reentry old new p.2.oroot,
        pen := reentry old new p.2.pen, penc := reentry old new p.2.penc })) }
      let s := s.setDie d v
      .next (((v.frames.filter (fun g => decide (g.1 / 2 ^ 60 % 2 = 1))).map (·.1)).foldl (fun s g => renode s d old new g) s)
    else .next s

/-! ## Migration (R340) -/

/-- The requests held at a migrating stream go on: forwarded to the new handle, or again to the old one. -/
def releaseHeld (s : State) (h : BitVec 32) (fwd : Option (BitVec 32)) : State :=
  s.coreList.foldl (fun s (d, c) =>
    let k := s.core d c
    s.setCore d c { k with pend := k.pend.map (fun p =>
      if p.2.ask = .migrating h then (p.1, { p.2 with ask := .idle, fwd := match fwd with
        | some n => some n
        | none => p.2.fwd }) else p) }) s

/-- Prunes held at the source follow the stream. -/
def forwardPrunes (s : State) (h n : BitVec 32) : State :=
  { s with net := s.net.map (fun p => match p.body with
      | .prune x g => if x = h then { p with body := .prune n g } else p
      | _ => p) }

/-- The result is written and the command has ended (R340 step 5, R354); not while the line is pending. -/
def endMigration (s : State) (m : Nat) (x : Migration) (h : BitVec 32) (st : Nat) : State :=
  let s := if s.here x.dst then storeBytes s x.dst (bytesOf 8 (handleStatus h (st % 256))) else s
  let s := endEntry s { die := x.ed, core := x.ec, entry := some x.ee, eseq := x.es } true
  { s with migs := tdel s.migs m }

/-- The migration fails: the stream resumes at the source. -/
def failMigration (s : State) (m : Nat) (x : Migration) (st : Nat) : State :=
  let s := match s.streamOf x.h with
    | some (d, i) => if x.frozen then releaseHeld (s.setSt d i (s.stream d i).pst) x.h none else s
    | none => s
  endMigration s m x noHandle st

/-- A frame copied into a new frame of the destination. -/
def pullFrame (s : State) (sd dd : Nat) (e : W64) (node : Bool) : SRes (State × W64) := do
  let (s, n) ← allocFrame s dd node
  pure (copyFrame s (frameFa (s.die sd) e) (frameFa (s.die dd) n) (frameBytes node), n)

/-- A tree of frames pulled from its node of a level: 0 a page, 1 a middle node, 2 a root. -/
def pullTree (sd dd : Nat) : Nat → W64 → State → SRes (State × W64)
  | 0, e, s => if eValid e then pullFrame s sd dd e false else .ok (s, e)
  | n + 1, e, s =>
    if eValid e then do
      let es := nodeEntries s sd e
      let (s, r) ← pullFrame s sd dd e true
      let s ← es.foldlM (fun s p => do
        let (s, c) ← pullTree sd dd n p.2 s
        pure (setNodeEntry s dd r p.1 c)) s
      pure (s, r)
    else .ok (s, e)

/-- Freezing the source (step 1), once no write pin is left; a stream that may not move any more fails the migration. -/
def freezeSource (s : State) (m : Nat) (x : Migration) : State :=
  match s.streamOf x.h with
  | none =>
    if s.streamAway x.h then
      let st := awayStatus s
      endMigration s m x (if st = 0 then awayHandle s x.pkg x.die else noHandle) st
    else failMigration s m x 1
  | some (d, i) =>
    let y := s.stream d i
    if let some w := streamError s d i true then failMigration (loseStream s d i w) m x 1
    else if y.st = .migrating then failMigration s m x 4
    else if y.st = .droved ∨ y.st = .waitPage ∨ y.spec then failMigration s m x 6
    else if y.wpins ≠ 0 ∨ y.posting then s
    else
      let s := s.setDie d ((dqDrop (s.die d) i).setStream i { y with st := .migrating, pst := y.st })
      { s with migs := tins s.migs m { x with frozen := true } }

/-- MIGRATION_PULL (R340 steps 1 to 3): the source freezes; then the destination allocates a descriptor and pulls the frames,
waiting while its pools have none free. Another package's fold is not in this state (log entry 3). -/
def execMigrationPull (m : Nat) (s : State) : Host.Outcome State Fault Refusal :=
  match tfind s.migs m with
  | none => .next s
  | some x =>
    if s.here x.dst && !homeFree s x.dst then .next s
    else if !x.frozen then .next (freezeSource s m x)
    else if x.di.isSome then .next s
    else
      match s.streamOf x.h with
      | none => .next (failMigration s m x 1)
      | some (sd, si) =>
        if 12 ≤ x.die ∨ s.unreachable x.pkg then .next (failMigration s m x (s.free 0).toNat)
        else if x.pkg ≠ s.pkg.toNat then
          if Config.freePick (s.tick * 65536) % 2 = 0 then .next (failMigration s m x 2)
          else .next { s with migs := tins s.migs m { x with di := some 0 } }
        else
          match s.allocStream x.die with
          | none => .next (failMigration s m x 2)
          | some (di, s') =>
            let y := s.stream sd si
            match (do
              let (s, r) ← pullTree sd x.die 2 y.croot s'
              let (s, p) ← pullTree sd x.die 0 y.pen s
              pure (s, r, p) : SRes (State × W64 × W64)) with
            | .error _ => .next s
            | .ok (s, r, p) =>
              let s := s.modStream x.die di (fun z => { z with croot := r, pen := p })
              .next { s with migs := tins s.migs m { x with di := some di } }

/-- MIGRATION_SWITCH (R340 steps 4 to 6). -/
def execMigrationSwitch (m : Nat) (s : State) : Host.Outcome State Fault Refusal :=
  match tfind s.migs m with
  | none => .next s
  | some x =>
    match x.di, s.streamOf x.h with
    | some di, some (sd, si) =>
      if s.here x.dst && !homeFree s x.dst then .next s
      else
        let y := s.stream sd si
        let (s, h) :=
          if x.pkg ≠ s.pkg.toNat then (s, awayHandle s x.pkg x.die)
          else
            let z := s.stream x.die di
            let s := s.setStream x.die di
              { y with gen := z.gen, croot := z.croot, pen := z.pen, oroot := 0, penc := 0, tb := 0, drove := none, posting := false,
                       wpins := 0, staged := [], st := .idle }
            (s.setSt x.die di y.pst, s.streamHandle x.die di)
        let s := endMigration s m x h 0
        .next (freeStream (forwardPrunes (releaseHeld s x.h (some h)) x.h h) sd si)
    | _, _ => .next s

end Sys2Proof.Machine
end

