-- ==== Sys2Proof/Machine/Units.lean ====
section
/-! DEFINITION. The registers of the die units, fabric class 4 UNIT 104 to 106, as 8-byte accesses of domain 0 see them (R325,
R336, R397, R406, R412, R425, R437, R442, R454, R467, R490). A location that the manual gives no register answers none. -/

namespace Sys2Proof.Machine

/-- Word `w` of a register whose bits [hi:lo] take their value from `v`. -/
def mergeReg (old v : W64) (hi lo : Nat) : W64 := BitVec.ofNat 64 (putFld old.toNat lo (hi + 1 - lo) (fld v hi lo))

/-! ## UNIT 104: the stream processor (R325, R336) -/

/-- Offsets of the stream processor's registers. -/
def spOffsets : List Nat :=
  [0x00, 0x08, 0x10, 0x18, 0x20, 0x28, 0x30, 0x38, 0x40, 0x48, 0x50, 0x58, 0x80, 0x88, 0x90, 0x98, 0xA0]

/-- Does an address name a class of this die, at an alignment? -/
def ownClass (s : State) (d cls align : Nat) (v : W64) : Bool :=
  decide (v.toNat % align = 0 ∧ faClass v.toNat = cls) && (decide (cls = 5) || (s.here v.toNat && decide (faDie v.toNat = d)))

/-- The value a write leaves in a stream-processor register; none when it is ignored. -/
def spValue (s : State) (d off : Nat) (v : W64) : Option W64 :=
  let low : W64 := (v.setWidth 32).setWidth 64
  let tier := fun t => match t with | 0 => 2 | 1 => 3 | _ => 5
  if off < 0x60 then
    match off % 0x20 with
    | 0x00 => if ownClass s d (tier (off / 0x20)) 65536 v then some v else none
    | 0x10 => if ownClass s d (tier (off / 0x20)) 4096 v then some v else none
    | _ => some low
  else if off = 0x90 then some low
  else if off = 0x98 then (if ownClass s d 2 65536 v then some v else none)
  else if off = 0xA0 then (if v.toNat % 65536 = 0 ∧ v.toNat < 2 ^ 57 then some v else none)
  else if ownClass s d 3 65536 v then some v else none

def spRead (s : State) (d off : Nat) : Option W64 :=
  let v := s.die d
  if spOffsets.contains off then some (tget 0 v.spw off)
  else if 0x10000 ≤ off ∧ off < 0x20000 then
    some (((tget 0 v.resid ((off - 0x10000) / 16)) >>> (8 * (off % 16))).setWidth 64)
  else none

def spWrite (s : State) (d off : Nat) (x : W64) : Option State :=
  let v := s.die d
  if spOffsets.contains off then
    if v.streams.all (fun p => p.2.st = .free) then
      match spValue s d off x with
      | some y => some (s.setDie d { v with spw := tset 0 v.spw off y })
      | none => some s
    else some s
  else if 0x10000 ≤ off ∧ off < 0x20000 then
    let e := (off - 0x10000) / 16
    some (s.setDie d (setResidency v e (BitVec.ofNat 128 (putFld (tget 0 v.resid e).toNat (8 * (off % 16)) 64 x.toNat))))
  else none

/-! ## UNIT 105: the translation agent (R397, R406) -/

def agentRead (s : State) (d off : Nat) : Option W64 :=
  let v := s.die d
  match off with
  | 0x00 => some v.root
  | 0x08 => some v.ddir
  | 0x10 => some v.shoot
  | 0x18 => some (v.malf.setWidth 64)
  | _ => none

/-- ROOT and DDIR: 64 KiB aligned, class 2 or 3; another value is ignored and counted in MALF. -/
def agentWrite (s : State) (d off : Nat) (x : W64) : Option State :=
  let v := s.die d
  let ok := decide (x.toNat % 65536 = 0 ∧ (faClass x.toNat = 2 ∨ faClass x.toNat = 3))
  let bad : Die := { v with malf := if v.malf = 0xFFFFFFFF then v.malf else v.malf + 1 }
  match off with
  | 0x00 => some (s.setDie d (if ok then { v with root := x } else bad))
  | 0x08 => some (s.setDie d (if ok then { v with ddir := x } else bad))
  | 0x10 => match execShootdown d x s with
    | .next s => some s
    | _ => some s
  | 0x18 => some s
  | _ => none

/-! ## UNIT 106: the die controller -/

/-- Mean of the last measurements, in mW (R489). -/
def Die.meanPower (v : Die) : Nat := (v.power.map (·.toNat)).sum / Nat.max 1 v.power.length

/-- TELEM (R490). -/
def Die.telem (v : Die) : W64 := BitVec.ofNat 64 (v.meanPower % 2 ^ 32 + v.temp.toNat * 2 ^ 32 + b2n v.capped * 2 ^ 48)

/-- Is this a die that carries a PCIe port? -/
def carriesPort (d : Nat) : Bool := decide (d = 0 ∨ d = 11)

/-- An 8-byte register that reads what `Die.reg` holds. -/
def plainReg (d off : Nat) : Bool :=
  decide (0x30000 ≤ off ∧ off < 0x30200) || decide (off = 0x58000 ∨ off = 0x60008) ||
  (carriesPort d && (decide (0x70000 ≤ off ∧ off < 0x70100) || decide (0x71000 ≤ off ∧ off < 0x71020)))

/-- FTHAW's read value is not stated (log entry 3). -/
def ctlRead (s : State) (d off : Nat) : Option W64 :=
  let v := s.die d
  if off % 8 ≠ 0 then none
  else if 0x20000 ≤ off ∧ off < 0x21000 then
    some (((v.part ((off - 0x20000) / 64)) >>> (8 * (off % 64))).setWidth 64)
  else if off = 0x40000 then some (s.free 0)
  else if 0x50000 ≤ off ∧ off < 0x50000 + 8 * 168 then some (v.err d ((off - 0x50000) / 8))
  else if off = 0x60000 then some v.telem
  else if plainReg d off then some (v.reg off)
  else none

/-- Word `w` (0 to 3) of a function record after a write of it (R412): a bad B4BASE or B4SZ leaves the field. -/
def fnWord (w : Nat) (old x : W64) : W64 :=
  match w with
  | 0 => 0
  | 1 => x
  | 2 => mergeReg (if fld x 63 43 ≤ 0x100000 then mergeReg old x 63 43 else old) x 0 0
  | _ => if x.toNat % 65536 = 0 ∧ (faClass x.toNat = 2 ∨ faClass x.toNat = 3) then x else old

/-- Word `w` of a window record after a write of it (R454): windows in 4 KiB units; the pool's on port 1 in CXL mode only. -/
def winWord (cxl : Bool) (w : Nat) (old x : W64) : W64 :=
  match w with
  | 0 => if cxl then BitVec.ofNat 64 (fld x 63 38 * 2 ^ 38) else old
  | 1 => if cxl then x else old
  | 2 => BitVec.ofNat 64 (fld x 63 38 * 2 ^ 38)
  | _ => BitVec.ofNat 64 (fld x 63 12 * 2 ^ 12)

/-- The value that a write leaves in a plain register. -/
def plainValue (s : State) (d off : Nat) (x : W64) : W64 :=
  let old := (s.die d).reg off
  if off < 0x31000 then (if x.toNat % 65536 = 0 then x else old)
  else if off = 0x58000 then x
  else if off = 0x60008 then (if fld x 31 0 ≤ 750000 then (x.setWidth 32).setWidth 64 else old)
  else if off < 0x71000 then fnWord (off / 8 % 4) old x
  else winWord (s.cxlMode && decide (d = 11)) (off / 8 % 4) old x

/-- A write of an error counter: CORR and UNC are W1C, SPLEFT read only (R467). -/
def errWrite (old x : W64) : W64 := old &&& ~~~(x &&& 0x000000FFFFFFFFFF)

def ctlWrite (s : State) (d off : Nat) (m : Bool) (x : W64) : Option State :=
  let v := s.die d
  if off % 8 ≠ 0 then none
  else if 0x20000 ≤ off ∧ off < 0x21000 then
    let p := (off - 0x20000) / 64
    some (writePart s d p (BitVec.ofNat 512 (putFld (v.part p).toNat (8 * (off % 64)) 64 x.toNat)))
  else if off = 0x40000 then
    some (if m then { s with fnFrz := s.fnFrz &&& ~~~(x.setWidth 16) } else s)
  else if 0x50000 ≤ off ∧ off < 0x50000 + 8 * 168 then
    let k := (off - 0x50000) / 8
    some (s.setDie d (v.setErr d k (errWrite (v.err d k) x)))
  else if off = 0x60000 then some s
  else if plainReg d off then some (s.setDie d (v.setReg off (plainValue s d off x)))
  else none

/-! ## All three -/

/-- An 8-byte read of a die unit. -/
def dieUnitRead (s : State) (d u off : Nat) : Option W64 :=
  match u with
  | 104 => spRead s d off
  | 105 => agentRead s d off
  | 106 => ctlRead s d off
  | _ => none

/-- An 8-byte write of a die unit, by M-mode or not. -/
def dieUnitWrite (s : State) (d u off : Nat) (m : Bool) (x : W64) : Option State :=
  match u with
  | 104 => spWrite s d off x
  | 105 => agentWrite s d off x
  | 106 => ctlWrite s d off m x
  | _ => none

end Sys2Proof.Machine
end

