-- ==== Sys2Proof/Machine/HartMem.lean ====
section
/-! DEFINITION. The hart's own memory accesses and fences (R119 to R121). What a RISC-V load, store, AMO, LR or SC does with its
registers is the standard's (log entry 5). -/

namespace Sys2Proof.Machine

/-! ## Registers -/

/-- An f register. -/
def Hart.fr (h : Hart) (r : Nat) : W64 := tget 0 h.f r

/-- An f register written: FS becomes dirty. -/
def Hart.setF (h : Hart) (r : Nat) (v : W64) : Hart :=
  { h with f := tset 0 h.f r v, mstatus := BitVec.ofNat 64 (putFld h.mstatus.toNat 13 2 3) }

/-- A narrower floating value fills its f register with ones above it. -/
def boxF (n v : Nat) : W64 := BitVec.ofNat 64 (v % 2 ^ (8 * n) + (2 ^ 64 - 2 ^ (8 * n)))

end Sys2Proof.Machine

namespace Sys2Proof

open Machine

/-- Does an access raise the exceptions of a store? -/
def HartOp.storing : HartOp → Bool
  | .load _ => false
  | .lr => false
  | _ => true

/-- Is it an AMO, LR or SC? -/
def HartOp.atomic : HartOp → Bool
  | .load _ => false
  | .store => false
  | _ => true

/-- The rights it needs. -/
def HartOp.need : HartOp → Need
  | .load _ => { r := true }
  | .lr => { r := true }
  | .amo _ => { r := true, w := true }
  | _ => { w := true }

/-- The AOP of R240 that does the same to memory. -/
def AmoOp.code : AmoOp → BitVec 6
  | .swap => 1 | .add => 2 | .and => 3 | .or => 4 | .xor => 5 | .min => 6 | .max => 7 | .minu => 8 | .maxu => 9

/-- Bytes of an access, and the address it names. -/
def HartAccess.bytes (x : HartAccess) : Nat := 2 ^ x.size.toNat
def HartAccess.addr (x : HartAccess) (h : Hart) : W64 := h.xr x.rs1.toNat + x.imm.signExtend 64

/-- The operand of a store, SC or AMO. -/
def HartAccess.operand (x : HartAccess) (h : Hart) : Nat :=
  (if x.fp then h.fr x.rs2.toNat else h.xr x.rs2.toNat).toNat % 2 ^ (8 * x.bytes)

end Sys2Proof

namespace Sys2Proof.Machine

/-- The value read goes to its register. -/
def hartLoaded (x : HartAccess) (h : Hart) (v : Nat) : Hart :=
  match x.fp, x.op with
  | true, _ => h.setF x.rd.toNat (boxF x.bytes v)
  | _, .load true => h.setX x.rd.toNat (BitVec.ofNat 64 (v % 2 ^ (8 * x.bytes)))
  | _, _ => h.setX x.rd.toNat (BitVec.ofInt 64 (sext (8 * x.bytes) v))

/-- The read is over: register written, nothing pending. -/
def hartGot (s : State) (d c : Nat) (x : HartAccess) (v : Nat) : State :=
  let s := endAccess s (.hart d c)
  s.setHart d c (hartLoaded x (s.hart d c) v)

/-! ## Exceptions (R120) -/

/-- The access fault and the page fault of an access's kind. -/
def accessFault (st : Bool) (va : W64) : HExit := .exc (if st then 7 else 5) va

/-- What a check raised, as the hart's exception: PAGE is the page fault of its kind, all else the access fault. -/
def toHart {α : Type} (st : Bool) (va : W64) : Res α → Except HExit α
  | .ok v => .ok v
  | .error (.stall s) => .error (.stall s)
  | .error (.wait _ s) => .error (.stall s)
  | .error (.fault f) => .error (if f.code = pageFault then .exc (if st then 15 else 13) va else accessFault st va)
  | .error _ => .error (accessFault st va)

/-- Alignment (R119), then the high bits of the address (R120). -/
def hartAddrCheck (x : HartAccess) (va : W64) : Except HExit Unit :=
  let n := x.bytes
  if x.op.atomic && decide (va.toNat % n ≠ 0) then .error (.exc 6 va)
  else if 64 < va.toNat % 64 + n then .error (.exc (if x.op.storing then 6 else 4) va)
  else if 2 ^ 57 ≤ va.toNat then .error (accessFault x.op.storing va)
  else .ok ()

/-! ## The save-area window (R120) -/

/-- The reservation of a window address. -/
def windowKey (va : Nat) : Nat := 2 ^ 64 + va

def hartWindow (d c : Nat) (x : HartAccess) (va : Nat) (s : State) : State :=
  let n := x.bytes
  let h := s.hart d c
  let old := saveRead (s.act d c) va n
  let v := x.operand h
  match x.op with
  | .load _ => s.setHart d c (hartLoaded x h old)
  | .store => s.setAct d c (saveWrite (s.act d c) va n v)
  | .amo o => (s.setAct d c (saveWrite (s.act d c) va n (aopVal o.code.toNat n old v))).setHart d c (hartLoaded x h old)
  | .lr => s.setHart d c { hartLoaded x h old with resv := some (windowKey va) }
  | .sc =>
    let held := decide (h.resv = some (windowKey va))
    let s := if held then s.setAct d c (saveWrite (s.act d c) va n v) else s
    s.setHart d c { h.setX x.rd.toNat (if held then 0 else 1) with resv := none }

/-! ## The virtual space (R120, R121) -/

/-- A load's value: rights, translation and class, then the bytes. -/
def hartRead (s : State) (d c : Nat) (va n : Nat) : Res (Nat × Nat) :=
  let a := Agent.hart d c
  match rightsAt (s.core d c) (s.pend a) (s.domOf a) { r := true } va with
  | .ok _ => do
    let fa ← loadFa s a 1 va va
    windowCheck fa n
    let v ← loadPiece s a 1 va va n
    pure (fa, v)
  | l => lookFail s a va 1 0 l

/-- An SC: after the buffer's older entries have performed and while no write to the line is pending, in one step; the reservation must have
lasted, with the line in the core's cache portion. -/
def hartSc (d c : Nat) (x : HartAccess) (va : Nat) (s : State) : Res State := noteSeq s (.hart d c) (do
  let a := Agent.hart d c
  match rightsAt (s.core d c) (s.pend a) (s.domOf a) { w := true } va with
  | .ok _ =>
    let fa ← hitFa s a 2 (.atomic false) va va
    let k := s.core d c
    let h := k.hart
    if !olderDone k (s.pend a) then .error (.stall s)
    else if h.resv = some fa ∧ (tfind k.act.lines (fa / 64 * 64)).isSome then
      if homeFree s fa then
        let s := storeBytes (endAccess s a) fa (bytesOf x.bytes (x.operand h))
        pure (s.setHart d c { (s.hart d c).setX x.rd.toNat 0 with resv := none })
      else .error (.stall s)
    else
      let s := endAccess s a
      pure (s.setHart d c { (s.hart d c).setX x.rd.toNat 1 with resv := none })
  | l => lookFail s a va 2 0 l)

/-- An access of the virtual space. -/
def hartGlobal (d c : Nat) (x : HartAccess) (va : Nat) (s : State) : Res State := do
  let a := Agent.hart d c
  let n := x.bytes
  let v := x.operand (s.hart d c)
  match x.op with
  | .load _ =>
    let r ← hartRead s d c va n
    pure (hartGot (retagLine s a va) d c x r.2)
  | .lr =>
    let r ← hartRead s d c va n
    let held := (tfind (s.act d c).lines (r.1 / 64 * 64)).isSome
    let s := hartGot (retagLine s a va) d c x r.2
    pure (s.setHart d c { s.hart d c with resv := if held then some r.1 else none })
  | .store =>
    let ps ← storePieces s a false va n [(0, v)]
    if sbRoom (s.core d c) < sbPlaces ps then .error (.stall s)
    else pure (endAccess (pushStore (retagLine s a va) a va ps .store 0 0) a)
  | .amo o =>
    let m ← atomicValue s a va n (.atom o.code) (BitVec.ofNat 128 v) 0
    pure (hartGot s d c x m)
  | .sc => hartSc d c x va s

/-- The whole access but for the die units: window, hole, or virtual space. A release bit waits for the hart's earlier stores. -/
def hartAccess (d c : Nat) (x : HartAccess) (va : W64) (s : State) : HRes := do
  hartAddrCheck x va
  if x.rl then hartReleased s d c
  if va.toNat < 0x2000 then pure (hartWindow d c x va.toNat s, 0)
  else if va.toNat < 0x100000 then .error (accessFault x.op.storing va)
  else
    let s ← toHart x.op.storing va (hartGlobal d c x va.toNat s)
    pure (s, 0)

/-! ## The die units (R227, R398) -/

/-- The die-unit address an access reaches, its rights being granted. -/
def hartUnit (s : State) (d c : Nat) (x : HartAccess) (va : W64) : Option Nat :=
  let a := Agent.hart d c
  let k := s.core d c
  match hartAddrCheck x va with
  | .error _ => none
  | .ok _ =>
    if va.toNat < 0x100000 ∨ (hitAny (s.die d) c va.toNat).isSome then none
    else
      match rightsAt k (s.pend a) (s.domOf a) x.op.need va.toNat, transAt (s.die d) (s.pend a) va.toNat with
      | .ok _, .ok fa => if faClass fa = 4 ∧ 104 ≤ faUnit fa then some fa else none
      | _, _ => none

/-- An access of a die unit: domain 0 alone, 8 bytes; the registers of another package are out of this model's sight (log entry
3). A location, or a size, that the manual gives no register is another use of the class, which faults PROT (R228): the access fault of its
kind (R120; log entry 22). -/
def unitAccess (len : W64) (d c : Nat) (x : HartAccess) (va : W64) (fa : Nat) (s : State) : Host.Outcome State Fault Refusal :=
  let h := s.hart d c
  let fail := hartDone len s d c 0 0 (.error (accessFault x.op.storing va))
  if (s.core d c).dom ≠ 0 ∨ x.op.atomic ∨ s.unreachable (faPkg fa) ∨ 12 ≤ faDie fa ∨ x.bytes ≠ 8 ∨ fa % 8 ≠ 0 then fail
  else
    match x.op with
    | .store =>
      if lastHartStore (s.core d c) ≠ 0 then hartDone len s d c 0 0 (.error (.stall s))
      else
        let t := if s.here fa then
            dieUnitWrite s (faDie fa) (faUnit fa) (faOff fa) (decide (h.mode = .m)) (BitVec.ofNat 64 (x.operand h))
          else some s
        match t with
        | some t => hartDone len t d c 0 0 (.ok (endAccess t (.hart d c), 0))
        | none => fail
    | _ =>
      let v := if s.here fa then dieUnitRead s (faDie fa) (faUnit fa) (faOff fa) else some (s.free 0)
      match v with
      | some v => hartDone len s d c 0 0 (.ok (hartGot s d c x v.toNat, 0))
      | none => fail

/-- A memory access by an instruction of `len` bytes (R119 to R121). A floating access with FS off raises illegal-instruction; the
instruction's bits are not part of the step, so xtval is then a free value (log entry 3). -/
def hartMemory (len : W64) (x : HartAccess) (s : State) : Host.Outcome State Fault Refusal :=
  match s.cur with
  | .slot _ _ _ => .next s
  | .hart d c =>
    let h := s.hart d c
    let va := x.addr h
    if h.wfi then .next s
    else if x.fp && decide (fld h.mstatus 14 13 = 0) then .next (s.hartTrap d c false 2 (s.free 0))
    else
      match hartUnit s d c x va with
      | some fa => unitAccess len d c x va fa s
      | none => hartDone len s d c 0 0 (hartAccess d c x va s)

/-- HART_MEMORY_ACCESS: the access of a 32-bit instruction. -/
def execHartMemoryAccess (x : HartAccess) (s : State) : Host.Outcome State Fault Refusal := hartMemory 4 x s

/-- HART_FENCE (R121): FENCE and FENCE.TSO wait, as a FENCE at scope sys, for the buffer's entries older than they; FENCE.I waits
for the hart's stores and empties the die's fabric cache. -/
def execHartFence (x : HartFence) (s : State) : Host.Outcome State Fault Refusal :=
  match s.cur with
  | .slot _ _ _ => .next s
  | .hart d c =>
    let a := Agent.hart d c
    let k := s.core d c
    if k.hart.wfi then .next s
    else
      match x with
      | .fenceI =>
        hartFinish s d c 0 0 (do
          hartReleased s d c
          pure (fabEmpty s d, 0))
      | _ =>
        hartFinish s d c 0 0
          (match (s.pend a).ask with
           | .fence n =>
             if k.sb.all (fun e => decide (n < e.seq)) then .ok (endAccess s a, 0) else .error (.stall s)
           | _ => if k.sb.isEmpty then .ok (s, 0) else .error (.stall (s.ask a (.fence (k.sbSeq - 1)))))

end Sys2Proof.Machine
end

