-- ==== Sys2Proof/Machine/HostPorts.lean ====
section
/-! DEFINITION. What the host does through a PCIe port (R412, R440, R453, R455, R496), the post box (R457, R458), and writes of
registers without behaviour of their own. -/

namespace Sys2Proof.Machine

/-- Adds to what the module answers the host. -/
def State.answerHost (s : State) (x : HostOut) : State := { s with hostOut := s.hostOut ++ [x] }

/-! ## BAR 4 (R412, R453) -/

/-- The BAR 4 window of a function: its fabric address and its length in bytes. -/
def bar4Base (s : State) (port fn : Nat) : Nat := ((s.die (portDie port)).reg (0x70018 + 32 * fn)).toNat
def bar4Len (s : State) (port fn : Nat) : Nat := fld ((s.die (portDie port)).reg (0x70010 + 32 * fn)) 63 43 * 65536

/-- Does a BAR 4 access of `n` bytes lie in the window, in classes 2 and 3 of this package? -/
def bar4Ok (s : State) (port fn off n : Nat) : Bool :=
  decide (off + n ≤ bar4Len s port fn) &&
  (List.range n).all (fun i =>
    let fa := bar4Base s port fn + off + i
    faOk fa && s.here fa && decide (faClass fa = 2 ∨ faClass fa = 3))

/-- A BAR 4 access that the window does not allow: Unsupported Request, and nothing else of the access happens (R412). One that begins or
ends outside the function's window is a violation by the function, which freezes (R439 reason 4, log entry 19). -/
def bar4Refused (s : State) (port fn off n : Nat) : State :=
  let s' := s.answerHost (.unsupported port fn)
  if off + n ≤ bar4Len s port fn then s' else freezeFn s' port fn 0xFFF (bar4Base s port fn + off)

/-- BAR4_WRITE (R453, R455): performs at the lines' homes once none of them has a write pending. -/
def execBar4Write (port fn off : Nat) (bytes : List Byte) (_relaxed : Bool) (s : State) : Host.Outcome State Fault Refusal :=
  if 2 ≤ port ∨ 8 ≤ fn ∨ fnFrozen s port fn then .next s
  else if !bar4Ok s port fn off bytes.length then .next (bar4Refused s port fn off bytes.length)
  else
    let fa := bar4Base s port fn + off
    if (List.range bytes.length).all (fun i => homeFree s (fa + i)) then .next (storeBytes s fa bytes) else .next s

/-- A read found an uncorrected error (R465): it is counted and reported, and the host sees Completer Abort. -/
def bar4Bad (s : State) (port fn w : Nat) : State :=
  let d := faDie w
  let k := if faClass w = 3 then 128 + faUnit w else 104 + faUnit w
  (integrityReport (s.detectWord w) d 3 0 k w).answerHost (.abort port fn)

/-- BAR4_READ (R453): backing memory, past any cached copy. -/
def execBar4Read (port fn off n : Nat) (s : State) : Host.Outcome State Fault Refusal :=
  if 2 ≤ port ∨ 8 ≤ fn then .next s
  else if fnFrozen s port fn then .next (s.answerHost (.abort port fn))
  else if !bar4Ok s port fn off n then .next (bar4Refused s port fn off n)
  else
    let fa := bar4Base s port fn + off
    if let some w := s.badWord fa n then .next (bar4Bad s port fn w) else
    .next (s.answerHost (.data port fn ((List.range n).map (fun i => memGet s.mem (fa + i)))))

/-- CONFIG_REQUEST (R496). -/
def execConfigRequest (port fn : Nat) (s : State) : Host.Outcome State Fault Refusal :=
  if 2 ≤ port ∨ 8 ≤ fn then .next s
  else .next (s.answerHost (if s.boot < 5 then .retry port fn else .configured port fn (2 ^ 36)))

/-! ## BAR 2: the launch aperture (R411, R412, R440) -/

/-- The bytes of a slot after a write at an offset of the aperture. -/
def slotWritten (old : Rec) (slot off : Nat) (bytes : List Byte) : Rec :=
  bytes.zipIdx.foldl (fun w b =>
    let o := off + b.2
    if o / 256 = slot then BitVec.ofNat 2048 (putFld w.toNat (8 * (o % 256)) 8 b.1.toNat) else w) old

/-- A host write in one slot of the aperture: its bytes land, and one that covers bytes 0xF8 to 0xFF submits the packet. -/
def slotWrite (s : State) (port fn off : Nat) (bytes : List Byte) (relaxed : Bool) (slot : Nat) : State :=
  let key := apKey port fn slot
  let w := slotWritten (tget 0 s.slots key) slot off bytes
  let s := { s with slots := tset 0 s.slots key w }
  if off ≤ 256 * slot + 0xF8 ∧ 256 * slot + 256 ≤ off + bytes.length then submitSlot s port fn slot w relaxed else s

/-- A host write of BAR 2: nothing at a frozen function, at one without an aperture, or outside the slots. -/
def bar2Write (s : State) (port fn off : Nat) (bytes : List Byte) (relaxed : Bool) : State :=
  if 2 ≤ port ∨ 8 ≤ fn ∨ fnFrozen s port fn ∨ !fnLen s port fn then s
  else ((List.range 16).filter (fun i => decide (off < 256 * i + 256 ∧ 256 * i < off + bytes.length))).foldl
    (fun s i => slotWrite s port fn off bytes relaxed i) s

/-- Byte `o` of BAR 2: a slot's status, zero above its bit 0; what else the aperture reads as is not stated (log entry 3). -/
def bar2Byte (s : State) (port fn o : Nat) : Byte :=
  if !fnLen s port fn then 0
  else if 0x1000 ≤ o ∧ o < 0x1080 then
    if o % 8 = 0 ∧ (tfind s.aper (apKey port fn ((o - 0x1000) / 8))).isSome then 1 else 0
  else (s.free o).setWidth 8

/-- A host read of `n` bytes of BAR 2. -/
def bar2Read (s : State) (port fn off n : Nat) : State :=
  if 2 ≤ port ∨ 8 ≤ fn then s
  else if fnFrozen s port fn then s.answerHost (.abort port fn)
  else s.answerHost (.data port fn ((List.range n).map (fun i => bar2Byte s port fn (off + i))))

/-! ## The post box (R457 to R459) -/

/-- The 64 bytes of a record of die `d`. -/
def postBytes (s : State) (d : Nat) (r : Report) : Nat :=
  (s.die d).dcyc.toNat % 2 ^ 48 + s.postBox.lost % 256 * 2 ^ 64 + r.kind % 256 * 2 ^ 72 + d % 16 * 2 ^ 80 +
  s.pkg.toNat * 2 ^ 84 + s.postBox.seq.toNat * 2 ^ 96 + r.body.toNat * 2 ^ 128

/-- POST_RECORD (R458): the oldest record of a die is written to the ring, and its MSI-X message follows; a frozen function
sends no message (R440). -/
def execPostRecord (d : Nat) (s : State) : Host.Outcome State Fault Refusal :=
  let p := s.postBox
  match (s.die d).reports with
  | [] => .next s
  | r :: rest =>
    if !p.en || p.full then .next s
    else
      let a := p.base.toNat + 64 * (p.seq.toNat % p.ring)
      .next { s.setDie d { s.die d with reports := rest } with
        host := memWrite s.host a 64 (postBytes s d r)
        postBox := { p with seq := p.seq + 1, lost := 0 }
        msix := if fnFrozen s 0 0 then s.msix else s.msix ++ [(0, 0, p.vec.toNat)] }

/-- PBCTL after a write: SIZE 11 to 15 leaves SIZE; EN rising starts the ring empty. -/
def pbctlValue (p : PostBox) (v : W64) : PostBox :=
  let p := { p with vec := BitVec.ofNat 5 (fld v 20 16), size := if fld v 11 8 ≤ 10 then BitVec.ofNat 4 (fld v 11 8) else p.size }
  if bit v 0 && !p.en then { p with en := true, seq := 0, rd := 0 } else { p with en := bit v 0 }

/-- Ports that came up during start-up are reported once the post box is enabled (R496). -/
def reportPorts (s : State) : State :=
  (List.range 6).foldl (fun s i =>
    if s.unreported.getLsbD i then
      { s with unreported := s.unreported &&& ~~~(1#6 <<< i) }.report (lamongDie i) 11 (i + 256)
    else s) s

/-- PBCTL_WRITE (R457, R458), through function 0 of port 0. -/
def execPbctlWrite (v : BitVec 64) (s : State) : Host.Outcome State Fault Refusal :=
  if fnFrozen s 0 0 then .next s
  else
    let s := { s with postBox := pbctlValue s.postBox v }
    .next (if s.postBox.en then reportPorts s else s)

/-! ## REGISTER_WRITE -/

/-- The four 8-byte words of a record at a die controller, each by its own rule. -/
def writeWords (v : Die) (base : Nat) (f : Nat → W64 → W64 → W64) (x : BitVec 256) : Die :=
  (List.range 4).foldl (fun v w =>
    v.setReg (base + 8 * w) (f w (v.reg (base + 8 * w)) (x.extractLsb' (64 * w) 64))) v

/-- A whole function record (R412): a bad B4BASE leaves B4BASE and B4SZ. -/
def writeFunction (v : Die) (f : Nat) (x : BitVec 256) : Die :=
  let b : W64 := x.extractLsb' 192 64
  let good := decide (b.toNat % 65536 = 0 ∧ (faClass b.toNat = 2 ∨ faClass b.toNat = 3))
  writeWords v (0x70000 + 32 * f) (fun w old y =>
    if w = 2 ∧ ¬good then mergeReg (fnWord 2 old y) old 63 43 else fnWord w old y) x

/-- A frame's area is free: aligned (R86), clear of everything live and of the other frames (R89). -/
def frameOk (k : Core) (i : Nat) (wp : Nat) : Bool :=
  let k : Core := { k with act := { k.act with frames := tdel k.act.frames i } }
  decide (128 ≤ wp ∧ wp % 64 = 0) && placeFree k (wp - 128) 640

/-- The value a register target takes, written into the state. -/
def writeTarget (r : RegTarget) (v : BitVec 256) (s : State) : State :=
  let x : W64 := v.setWidth 64
  match r with
  | .csr d c addr => csrStep s d c addr x
  | .unit d u off => (dieUnitWrite s d u off true x).getD s
  | .functionRecord d f => if carriesPort d && decide (f < 8) then s.setDie d (writeFunction (s.die d) f v) else s
  | .windowRecord d =>
    if carriesPort d then
      s.setDie d (writeWords (s.die d) 0x71000 (winWord (s.cxlMode && decide (d = 11))) v)
    else s
  | .bar0 off =>
    if fnFrozen s 0 0 then s
    else if off = 0 then { s with postBox := { s.postBox with base := BitVec.ofNat 64 (x.toNat / 64 * 64) } }
    else if off = 0x10 then { s with postBox := { s.postBox with rd := x.setWidth 32 } }
    else s
  | .rings =>
    let sx := fld v 4 0
    let sy := fld v 12 8
    let sz := fld v 20 16
    if 1 ≤ sx ∧ sx ≤ 16 ∧ 1 ≤ sy ∧ sy ≤ 16 ∧ 1 ≤ sz ∧ sz ≤ 16 then { s with sx := sx, sy := sy, sz := sz } else s
  | .frame d c i =>
    let k := s.core d c
    let wp := fld v 19 0
    if i < 16 ∧ frameOk k i wp ∧ k.act.ctxs.all (fun p => decide (p.2.frame ≠ some i ∨ p.2.state = .free)) then
      s.setAct d c { k.act with frames := tins k.act.frames i (BitVec.ofNat 20 wp) }
    else s
  | .pcopy d p =>
    if p < 64 then
      let w := s.die d
      s.setDie d { w with pcopy := tins w.pcopy p (x, v.extractLsb' 64 64, v.extractLsb' 128 64) }
    else s
  | .keeper d q =>
    if q < 24 then
      let w := s.die d
      s.setDie d { w with keepers := tins w.keepers q (fld v 15 0) }
    else s
  | .cxlMode => { s with cxlMode := true }

/-- REGISTER_WRITE (R7): a register or CSR without behaviour of its own, or an item system software places. -/
def execRegisterWrite (r : RegTarget) (v : BitVec 256) (s : State) : Host.Outcome State Fault Refusal := .next (writeTarget r v s)

end Sys2Proof.Machine
end

