-- ==== Sys2Proof/Machine/Signature.lean ====
section
/-! DEFINITION. SHA-384 and ECDSA over the 384-bit Brainpool prime curve, as published (R3, R492, R493). -/

namespace Sys2Proof.Machine

/-! ## SHA-384 -/

abbrev ShaWord := BitVec 64

def rotr (x : ShaWord) (n : Nat) : ShaWord := (x >>> n) ||| (x <<< (64 - n))

/-- The 80 round constants: the first 64 bits of the fractions of the cube roots of the first 80 primes. -/
def shaK : List ShaWord :=
  [0x428A2F98D728AE22, 0x7137449123EF65CD, 0xB5C0FBCFEC4D3B2F, 0xE9B5DBA58189DBBC,
   0x3956C25BF348B538, 0x59F111F1B605D019, 0x923F82A4AF194F9B, 0xAB1C5ED5DA6D8118,
   0xD807AA98A3030242, 0x12835B0145706FBE, 0x243185BE4EE4B28C, 0x550C7DC3D5FFB4E2,
   0x72BE5D74F27B896F, 0x80DEB1FE3B1696B1, 0x9BDC06A725C71235, 0xC19BF174CF692694] ++
  [0xE49B69C19EF14AD2, 0xEFBE4786384F25E3, 0x0FC19DC68B8CD5B5, 0x240CA1CC77AC9C65,
   0x2DE92C6F592B0275, 0x4A7484AA6EA6E483, 0x5CB0A9DCBD41FBD4, 0x76F988DA831153B5,
   0x983E5152EE66DFAB, 0xA831C66D2DB43210, 0xB00327C898FB213F, 0xBF597FC7BEEF0EE4,
   0xC6E00BF33DA88FC2, 0xD5A79147930AA725, 0x06CA6351E003826F, 0x142929670A0E6E70] ++
  [0x27B70A8546D22FFC, 0x2E1B21385C26C926, 0x4D2C6DFC5AC42AED, 0x53380D139D95B3DF,
   0x650A73548BAF63DE, 0x766A0ABB3C77B2A8, 0x81C2C92E47EDAEE6, 0x92722C851482353B,
   0xA2BFE8A14CF10364, 0xA81A664BBC423001, 0xC24B8B70D0F89791, 0xC76C51A30654BE30,
   0xD192E819D6EF5218, 0xD69906245565A910, 0xF40E35855771202A, 0x106AA07032BBD1B8] ++
  [0x19A4C116B8D2D0C8, 0x1E376C085141AB53, 0x2748774CDF8EEB99, 0x34B0BCB5E19B48A8,
   0x391C0CB3C5C95A63, 0x4ED8AA4AE3418ACB, 0x5B9CCA4F7763E373, 0x682E6FF3D6B2B8A3,
   0x748F82EE5DEFB2FC, 0x78A5636F43172F60, 0x84C87814A1F0AB72, 0x8CC702081A6439EC,
   0x90BEFFFA23631E28, 0xA4506CEBDE82BDE9, 0xBEF9A3F7B2C67915, 0xC67178F2E372532B] ++
  [0xCA273ECEEA26619C, 0xD186B8C721C0C207, 0xEADA7DD6CDE0EB1E, 0xF57D4F7FEE6ED178,
   0x06F067AA72176FBA, 0x0A637DC5A2C898A6, 0x113F9804BEF90DAE, 0x1B710B35131C471B,
   0x28DB77F523047D84, 0x32CAAB7B40C72493, 0x3C9EBE0A15C9BEBC, 0x431D67C49C100D4C,
   0x4CC5D4BECB3E42B6, 0x597F299CFC657E2A, 0x5FCB6FAB3AD6FAEC, 0x6C44198C4A475817]

/-- The initial hash value of SHA-384. -/
def shaInit : List ShaWord :=
  [0xCBBB9D5DC1059ED8, 0x629A292A367CD507, 0x9159015A3070DD17, 0x152FECD8F70E5939,
   0x67332667FFC00B31, 0x8EB44A8768581511, 0xDB0C2E0D64F98FA7, 0x47B5481DBEFA4FA4]

/-- The next word of the message schedule, from the words so far, newest first. -/
def shaNext (w : List ShaWord) : ShaWord :=
  let a := w.getD 14 0
  let b := w.getD 1 0
  (rotr b 19 ^^^ rotr b 61 ^^^ (b >>> 6)) + w.getD 6 0 + (rotr a 1 ^^^ rotr a 8 ^^^ (a >>> 7)) + w.getD 15 0

/-- The schedule of a block of 16 words, newest first, grown by `n` words. -/
def shaSchedule : Nat → List ShaWord → List ShaWord
  | 0, w => w
  | n + 1, w => shaSchedule n (shaNext w :: w)

/-- One round on the eight working variables. -/
def shaRound (v : List ShaWord) (kw : ShaWord × ShaWord) : List ShaWord :=
  match v with
  | [a, b, c, d, e, f, g, h] =>
    let t := h + (rotr e 14 ^^^ rotr e 18 ^^^ rotr e 41) + ((e &&& f) ^^^ (~~~e &&& g)) + kw.1 + kw.2
    let u := (rotr a 28 ^^^ rotr a 34 ^^^ rotr a 39) + ((a &&& b) ^^^ (a &&& c) ^^^ (b &&& c))
    [t + u, a, b, c, d + t, e, f, g]
  | v => v

/-- A block of 16 words taken into a hash value. -/
def shaBlock (h : List ShaWord) (block : List ShaWord) : List ShaWord :=
  (h.zip ((shaK.zip (shaSchedule 64 block.reverse).reverse).foldl shaRound h)).map (fun p => p.1 + p.2)

/-- A number from bytes, the first the most significant. -/
def bigEndian (l : List (BitVec 8)) : Nat := l.foldl (fun v b => v * 256 + b.toNat) 0

/-- `n` bytes of a number, the first the most significant. -/
def bigBytes : Nat → Nat → List (BitVec 8)
  | 0, _ => []
  | n + 1, v => BitVec.ofNat 8 (v / 256 ^ n) :: bigBytes n v

/-- A message padded to whole blocks of 128 bytes: a one bit, zeros, the length in bits. -/
def shaPad (l : List (BitVec 8)) : List (BitVec 8) :=
  l ++ 0x80 :: (List.replicate ((256 - (l.length + 17) % 128) % 128) 0 ++ bigBytes 16 (8 * l.length))

/-- Blocks taken in one after another. -/
def shaBlocks : Nat → List ShaWord → List (BitVec 8) → List ShaWord
  | 0, h, _ => h
  | n + 1, h, l =>
    shaBlocks n (shaBlock h ((List.range 16).map (fun i => BitVec.ofNat 64 (bigEndian ((l.drop (8 * i)).take 8))))) (l.drop 128)

/-- SHA-384 of a message, as a number whose most significant byte is the digest's first. -/
def sha384 (l : List (BitVec 8)) : BitVec 384 :=
  let p := shaPad l
  BitVec.ofNat 384 (((shaBlocks (p.length / 128) shaInit p).take 6).foldl (fun v w => v * 2 ^ 64 + w.toNat) 0)

/-! ## The curve y^2 = x^3 + A x + B over the field of P elements, and ECDSA -/

abbrev ecP : Nat :=
  0x8CB91E82A3386D280F5D6F7E50E641DF152F7109ED5456B412B1DA197FB71123ACD3A729901D1A71874700133107EC53
abbrev ecA : Nat :=
  0x7BC382C63D8C150C3C72080ACE05AFA0C2BEA28E4FB22787139165EFBA91F90F8AA5814A503AD4EB04A8C7DD22CE2826
abbrev ecB : Nat :=
  0x04A8C7DD22CE28268B39B55416F0447C2FB77DE107DCD2A62E880EA53EEB62D57CB4390295DBC9943AB78696FA504C11
/-- The order of the base point. -/
abbrev ecN : Nat :=
  0x8CB91E82A3386D280F5D6F7E50E641DF152F7109ED5456B31F166E6CAC0425A7CF3AB6AF6B7FC3103B883202E9046565
/-- The base point. -/
def ecG : Nat × Nat :=
  (0x1D1C64F068CF45FFA2A63A81B7C13F6B8847A3E77EF14FE3DB7FCAFE0CBD10E8E826E03436D646AAEF87B2E247D4AF1E,
   0x8ABE1D7520F9C2A45CB1EB8E95CFD55262B70B29FEEC5864E19C054FF99129280E4646217791811142820341263C5315)

/-- `b` to the power whose low `n` bits are those of `e`, modulo `m`. -/
def powMod (m : Nat) : Nat → Nat → Nat → Nat
  | 0, _, _ => 1 % m
  | n + 1, b, e => (if e % 2 = 1 then b else 1) * powMod m n (b * b % m) (e / 2) % m

/-- The inverse of a number modulo a prime. -/
def invMod (m x : Nat) : Nat := powMod m 384 (x % m) (m - 2)

/-- The chord or tangent of slope `l` through (x1, y1) and a point with abscissa x2 gives the sum. -/
def ecThird (l x1 y1 x2 : Nat) : Nat × Nat :=
  let x := (l * l + 2 * ecP - x1 - x2) % ecP
  (x, (l * (x1 + ecP - x) + ecP - y1) % ecP)

/-- The sum of two points; none is the point at infinity. -/
def ecAdd : Option (Nat × Nat) → Option (Nat × Nat) → Option (Nat × Nat)
  | none, q => q
  | p, none => p
  | some (x1, y1), some (x2, y2) =>
    if x1 = x2 then
      if (y1 + y2) % ecP = 0 then none
      else some (ecThird ((3 * x1 * x1 + ecA) * invMod ecP (2 * y1) % ecP) x1 y1 x2)
    else some (ecThird ((y2 + ecP - y1) * invMod ecP (x2 + ecP - x1) % ecP) x1 y1 x2)

/-- The multiple of a point by the low `n` bits of a number. -/
def ecMul : Nat → Nat → Option (Nat × Nat) → Option (Nat × Nat)
  | 0, _, _ => none
  | n + 1, k, p => ecAdd (if k % 2 = 1 then p else none) (ecMul n (k / 2) (ecAdd p p))

/-- Does the signature (r, s) of a digest hold under a public key? -/
def ecVerify (key : Nat × Nat) (digest : BitVec 384) (sig : BitVec 768) : Bool :=
  let r := sig.toNat / 2 ^ 384
  let t := sig.toNat % 2 ^ 384
  if r = 0 ∨ ecN ≤ r ∨ t = 0 ∨ ecN ≤ t then false
  else
    let w := invMod ecN t
    match ecAdd (ecMul 384 (digest.toNat * w % ecN) (some ecG)) (ecMul 384 (r * w % ecN) (some key)) with
    | some (x, _) => decide (x % ecN = r)
    | none => false

/-- The signature of a digest under a private key with a per-signature number: r in the high half, s in the low. -/
def ecSign (key k : Nat) (digest : BitVec 384) : BitVec 768 :=
  let r := ((ecMul 384 k (some ecG)).map (fun p => p.1)).getD 0 % ecN
  BitVec.ofNat 768 (r * 2 ^ 384 + invMod ecN k * ((digest.toNat + r * key) % ecN) % ecN)

end Sys2Proof.Machine
end

