-- ==== Sys2Proof/Machine/Manage.lean ====
section
/-! DEFINITION. Power, trips, resets and the Dilvoac controller: chapter 25 (R488 to R496), failing cores and die resets (R11, R153,
R466, R468). -/

namespace Sys2Proof.Machine

/-! ## Resets -/

/-- Granules of a set left after repair (R126, R153): `off` 0 for set A, 16 for set B. -/
def capacity (lost : Sparse Nat) (off : Nat) : Nat := 65536 - 256 * ((List.range 16).map (fun b => tget 0 lost (off + b))).sum

/-- Must a core be replaced at bring-up (R153, R466)? -/
def mustReplace (k : Core) : Bool :=
  k.failed || decide (14 < tget 0 k.lost 0 ∨ 14 < tget 0 k.lost 16) ||
  decide (capacity k.lost 0 < 49152 ∨ capacity k.lost 16 < 49152)

/-- Steps lost in each bank after a reset: those that were due have gone too (R466). -/
def lostThen (k : Core) : Sparse Nat := k.lostDue.foldl (fun t p => tset 0 t p.1 (Nat.min 16 (tget 0 t p.1 + p.2))) k.lost

/-- A core after a reset: its repairs stay, mk_cap shows them. -/
def coldCore (k : Core) : Core :=
  let lost := lostThen k
  { failed := k.failed, lost := lost, capA := BitVec.ofNat 17 (capacity lost 0), capB := BitVec.ofNat 17 (capacity lost 16) }

/-- A die held in reset: only repairs stay (the mapping of R11, cores out of service, lost banks, SPLEFT). -/
def coldDie (d : Nat) (v : Die) : Die :=
  v.errs.foldl (fun w p => w.setErr d p.1 (p.2 &&& 0x00FF000000000000))
    { cores := v.cores.map (fun p => (p.1, coldCore p.2)), phys := v.phys, dead := v.dead }

/-- A physical core that serves no logical core and is in service. -/
def spareCore (v : Die) : Option Nat :=
  (List.range 104).find? (fun p => !v.dead.contains p && (List.range 96).all (fun c => decide (physOf v c ≠ p)))

/-- Bring-up of a logical core: a spare replaces a core that must be, and the physical core replaced is reported; or none is
left. -/
def bringCore (v : Die) (c : Nat) : Die × Option (Nat × Bool) :=
  if !mustReplace (v.core c) then (v, none)
  else
    let old := physOf v c
    match spareCore v with
    | some p => ({ v.setCore c {} with phys := tins v.phys c p, dead := v.dead ++ [old] }, some (old, true))
    | none => (v, some (old, false))

/-- Bring-up of a die (R496 step 2): spares are mapped, and each spare brought in, or missing, is reported (R468). -/
def bringDie (s : State) (d : Nat) : State :=
  (List.range 96).foldl (fun s c =>
    let (v, r) := bringCore (s.die d) c
    let s := s.setDie d v
    match r with
    | none => s
    | some (k, true) => integrityReport s d evSpare 0 k 0
    | some (k, false) => integrityReport s d evFailwarn 2 k 0) s

/-- Memory once the SRAM of the dies chosen has lost its contents: it then reads as memory that nothing has written. -/
def lostSram (m : Mem) (dies : Nat → Bool) : Mem := m.filter (fun p => decide (faClass p.1 ≠ 2) || !dies (faDie p.1))

/-- DIE_RESET (R466). -/
def execDieReset (d : Nat) (s : State) : Host.Outcome State Fault Refusal :=
  if 12 ≤ d then .next s
  else .next (bringDie { s.setDie d (coldDie d (s.die d)) with mem := lostSram s.mem (fun e => decide (e = d)) } d)

/-- CORE_FAILURE (R466, R468): FAILWARN with CAUSE 3; the core is out of use until a die reset replaces it. -/
def execCoreFailure (d phys : Nat) (s : State) : Host.Outcome State Fault Refusal :=
  match logicalOf (s.die d) phys with
  | none => .next s
  | some c =>
    let k := s.core d c
    if k.failed ∨ 12 ≤ d then .next s
    else .next (integrityReport (s.setCore d c { k with failed := true }) d evFailwarn 3 phys 0)

/-- Every die held in reset: what the dies held is lost, the HBM, the host and the pool are not. -/
def heldState (s : State) (boot : Nat) : State :=
  { cur := s.cur, sched := s.sched, tick := s.tick, pkg := s.pkg, host := s.host, pool := s.pool, cxlMode := s.cxlMode
    mem := lostSram s.mem (fun _ => true), dies := s.dies.map (fun p => (p.1, coldDie p.1 p.2)), dil := s.dil
    hostOut := s.hostOut, msix := s.msix, boot := boot }

/-- MODULE_RESET (R496): from a running or a held module Dilvoac starts, applies the staged images (R492) and leaves the trip
(R491); then the die controllers, the PCIe ports, the Lamong ports and the harts start, one step each. -/
def execModuleReset (s : State) : Host.Outcome State Fault Refusal :=
  match s.boot with
  | 1 =>
    let s : State := { s with boot := 2 }
    .next ((List.range 12).foldl bringDie s)
  | 2 => .next { s with boot := 3 }
  | 3 => .next { s with boot := 4 }
  | 4 => .next { s with boot := 5 }
  | _ =>
    let s := heldState s 1
    let q := s.dil
    .next { s with dil := { q with
      boots := q.boots + 1, trip := none, staged := [], images := q.staged.foldl (fun t p => tins t p.1 p.2) q.images } }

/-- A trip: every die is held in reset, and the cause is recorded. -/
def tripped (s : State) (t : Trip) : State :=
  let s := heldState s 0
  { s with dil := { s.dil with trip := some t } }

/-- Sends on a management path. -/
def State.mctp (s : State) (x : MctpOut) : State := { s with dil := { s.dil with out := s.dil.out ++ [x] } }

/-- THERMAL_TRIP (R491). -/
def execThermalTrip (coolant : Bool) (s : State) : Host.Outcome State Fault Refusal :=
  let t := if coolant then Trip.coolant else Trip.junction
  .next ((tripped s t).mctp (.thermal t))

/-- SUPPLY_FAULT (R488). -/
def execSupplyFault (s : State) : Host.Outcome State Fault Refusal := .next (tripped s .supply)

/-! ## Power (R489, R490) -/

/-- POWER_MEASURE: once every 4,096 controller cycles; power in mW, the hottest junction in 1/8 °C. -/
def execPowerMeasure (d power temp : Nat) (s : State) : Host.Outcome State Fault Refusal :=
  let v := s.die d
  if v.dcyc = 0 ∨ v.dcyc.toNat % 4096 ≠ 0 ∨ v.measured = some v.dcyc then .next s
  else
    let v : Die := { v with power := (BitVec.ofNat 32 power :: v.power).take 16, temp := BitVec.ofNat 16 temp, measured := some v.dcyc }
    let cap := fld (v.reg 0x60008) 31 0
    let capped := if cap < v.meanPower ∨ 800 ≤ v.temp.toNat then true
      else if v.meanPower < cap then false else v.capped
    .next (s.setDie d { v with capped := capped })

/-! ## Dilvoac (R492 to R495) -/

/-- Does a request reach Dilvoac: over I3C always, over PCIe once port 0 has trained and while its function 0 is not frozen? -/
def mctpHeard (s : State) (m : MctpMsg) : Bool := m.i3c || (decide (3 ≤ s.boot) && !fnFrozen s 0 0)

/-- The dies a request names, when they are out of reset. -/
def namedDies (s : State) (m : MctpMsg) : List Nat :=
  if 2 ≤ s.boot then (List.range 12).filter (fun d => m.dies.getLsbD d) else []

/-- MCTP_TELEMETRY (R490, R495). -/
def execMctpTelemetry (m : MctpMsg) (s : State) : Host.Outcome State Fault Refusal :=
  if mctpHeard s m then .next (s.mctp (.telemetry m.i3c ((namedDies s m).map (fun d => (d, (s.die d).telem))))) else .next s

/-- The signed part of an attestation report (R493), bytes 0x00 to 0xBF. The digests of the images that run as shipped are free: the
manual gives no image (log entry 9). -/
def reportBody (s : State) (m : MctpMsg) : List Byte :=
  [0x44, 0x56, 0x41, 0x52] ++ bytesOf 4 1 ++ bytesOf 32 m.nonce.toNat ++ bytesOf 8 s.dil.boots.toNat ++
  ((List.range 3).flatMap (fun i => bigBytes 48 ((tfind s.dil.images i).getD (Config.imageDigest i)).toNat))

/-- The signature of the device over some bytes (R493): r, then s, big-endian. -/
def deviceSigns (b : List Byte) : List Byte :=
  let h := sha384 b
  bigBytes 96 (ecSign Config.identityKey (Config.identityNonce h.toNat) h).toNat

/-- MCTP_ATTESTATION (R493). -/
def execMctpAttestation (m : MctpMsg) (s : State) : Host.Outcome State Fault Refusal :=
  if mctpHeard s m then
    let b := reportBody s m
    .next (s.mctp (.report m.i3c (b ++ deviceSigns b)))
  else .next s

/-- MCTP_IMAGE_STAGE (R492): verified at staging, and discarded when that fails. -/
def execMctpImageStage (m : MctpMsg) (s : State) : Host.Outcome State Fault Refusal :=
  if !mctpHeard s m then .next s
  else if m.image ≠ 3 ∧ ecVerify Config.imageKey (sha384 m.data) m.signature then
    let q := s.dil
    .next (({ s with dil := { q with staged := tins q.staged m.image.toNat (sha384 m.data) } }).mctp (.done m.i3c true))
  else .next (s.mctp (.done m.i3c false))

/-- MCTP_KEY_LOAD (R494). -/
def execMctpKeyLoad (m : MctpMsg) (s : State) : Host.Outcome State Fault Refusal :=
  if mctpHeard s m then
    let s' := (namedDies s m).foldl (fun s d =>
      let v := s.die d
      s.setDie d { v with keys := tins v.keys m.keySlot.toNat (m.dom, m.key) }) s
    .next (s'.mctp (.done m.i3c (decide (2 ≤ s.boot))))
  else .next s

/-- MCTP_KEY_CLEAR (R494): on request of the domain the slot is loaded for. -/
def execMctpKeyClear (m : MctpMsg) (s : State) : Host.Outcome State Fault Refusal :=
  if mctpHeard s m then
    let s' := (namedDies s m).foldl (fun s d =>
      let v := s.die d
      match tfind v.keys m.keySlot.toNat with
      | some k => if k.1 = m.dom then s.setDie d { v with keys := tdel v.keys m.keySlot.toNat } else s
      | none => s) s
    .next (s'.mctp (.done m.i3c (decide (2 ≤ s.boot))))
  else .next s

/-- MCTP_DEBUG_AUTH (R494). -/
def execMctpDebugAuth (m : MctpMsg) (s : State) : Host.Outcome State Fault Refusal :=
  if mctpHeard s m then
    let ok := ecVerify Config.debugKey (sha384 m.data) m.signature
    .next (({ s with debug := s.debug || ok }).mctp (.done m.i3c ok))
  else .next s

/-- MCTP_DEBUG_REVOKE (R494). -/
def execMctpDebugRevoke (m : MctpMsg) (s : State) : Host.Outcome State Fault Refusal :=
  if mctpHeard s m then .next (({ s with debug := false }).mctp (.done m.i3c true)) else .next s

/-- MCTP_CONTROL (R495): control messages have type 0 (log entry 9); a message of another type is discarded. -/
def execMctpControl (m : MctpMsg) (s : State) : Host.Outcome State Fault Refusal :=
  if mctpHeard s m ∧ m.msgType = 0 then .next (s.mctp (.control m.i3c m.cmd (Config.mctpSupports m.cmd))) else .next s

end Sys2Proof.Machine
end

