-- ==== Sys2Proof/Machine/Ports.lean ====
section
/-! DEFINITION. The hart's engine ports: MK.ENGW and MK.ENGR (R137, R138). -/

namespace Sys2Proof.Machine

/-! ## What a commit issues (R138) -/

/-- A command that an instruction with a status result makes: the status has no register here. -/
def dropStatus (f : Who → Vals → State → Res (State × Nat)) (w : Who) (v : Vals) (s : State) : Res State := do
  let (s, _) ← f w v s
  pure s

/-- The hart now waits for the gang of its command `n`, unless that has formed (R138, R310). -/
def hartWaits (s : State) (d c n : Nat) (formed : Bool) : State :=
  if formed then s else s.setAct d c { s.act d c with hgang := some { pc := (s.hart d c).pc, n := n } }

/-- MMA of a hart: a gang member's arrival waits for its gang, as a context's would (R310). -/
def commitMma (t : TailE) (w : Who) (v : Vals) (s : State) : Res State := do
  let (s', n) ← issueMma t w v s
  if ctlGs v.b = 0 then pure s'
  else
    let d := w.a.die
    let c := w.a.core
    let a := s.act d c
    match arriveGang s' d c v.b (t.f12.getLsbD 4) (a.half (b2n a.sel)).mf n with
    | some (s', formed) => pure (hartWaits s' d c n formed)
    | none =>
      match gangFor (s.die d) c (ctlTag v.b) with
      | some (g, y) => .error (.faultIn { code := gangMismatch } (dissolve s d g y))
      | none => raise gangMismatch

/-- MMZ of a hart: the head's D names the tile, or W(B) the mask. -/
def commitMmz (w0 : W64) (d : BitVec 7) (w : Who) (v : Vals) (s : State) : Res State := do
  let m := bit w0 0
  let mask := if m then v.b else 1#128 <<< d.toNat
  need (decide (fld mask 127 16 = 0))
  issueMmz (mask.setWidth 16) (portWords w0.toNat (0xBD00 + d.toNat) (if m then v.b.toNat else 0) 0 0) w s

/-- The form V tail of MMZ in word 0. -/
def mmzTail (w0 : W64) : TailV :=
  { b := BitVec.ofNat 7 (fld w0 31 25), c := BitVec.ofNat 7 (fld w0 24 18), ty := BitVec.ofNat 5 (fld w0 17 13),
    sh := BitVec.ofNat 2 (fld w0 12 11), p := BitVec.ofNat 3 (fld w0 10 8), pn := bit w0 7, f := BitVec.ofNat 7 (fld w0 6 0) }

/-- The command that a head and tail name on a port: whether its fields are legal, and its issue. -/
def commitOf (port : Nat) (head w0 : W64) : Option (Bool × (Who → Vals → State → Res State)) :=
  let t := tailOf w0
  let d : BitVec 7 := BitVec.ofNat 7 (fld head 6 0)
  match port, fld head 63 7, t.f12.toNat / 256 with
  | 0, 0x1F8, 0 => some ((useGet d t).legal, issueGet t)
  | 0, 0x1F8, 1 => some ((usePut d t).legal, issuePut t)
  | 0, 0x1F8, 2 => some ((useTcopy d t).legal, issueTcopy t)
  | 0, 0x1F8, 3 => some ((useTgath d t).legal, issueRows false t)
  | 0, 0x1F8, 4 => some ((useTscat d t).legal, issueRows true t)
  | 0, 0x1F8, 5 => some ((useCfill d t).legal, issueCfill t)
  | 0, 0x1FA, 4 => some ((useAccvt d t).legal, issueAccvt t)
  | 0, 0x1FD, 3 => some ((usePsort d t).legal, issuePsort t)
  | 1, 0x1FA, 0 => some ((useMma d t).legal, commitMma t)
  | 1, 0x17A, _ => some (decide (w0.toNat < 2 ^ 32) && (useMmz d (mmzTail w0)).legal, commitMmz w0 d)
  | 2, 0x1FA, 2 => some ((useWbld d t).legal, issueWbld t)
  | 3, 0x1FB, 5 => some ((useSpgr d t).legal, dropStatus (issueSpg false t))
  | 3, 0x1FB, 6 => some ((useSpgw d t).legal, dropStatus (issueSpg true t))
  | 3, 0x1FB, 11 => some ((useSmig d t).legal, dropStatus (issueSmig t))
  | _, _, _ => none

/-- The values of a shadow set: words 2 and 3, 4 and 5, 6 and 7. -/
def wordVals (p : Sparse W64) : Vals :=
  let w := fun i => (tget 0 p (i + 1) ++ tget 0 p i : W128)
  { b := w 2, c := w 4, c1 := w 6 }

/-- A fault of a committed command as the hart's exception: page and access faults of the access, else illegal-instruction. -/
def commitFault (f : FaultInfo) : Option (Nat × W64) :=
  let va := BitVec.ofNat 64 (f.faddr.getD 0)
  let write := f.acc.testBit 1
  if f.code = pageFault then some (if write then 15 else 13, va)
  else if f.code = prot ∨ f.code = remoteFault then some (if write then 7 else 5, va)
  else none

/-- The committed command issued as by a context of domain mk_dom. -/
def commit (s : State) (d c port : Nat) : HRes :=
  let p := ((s.act d c).port port).shadow
  match commitOf port (tget 0 p 1) (tget 0 p 0) with
  | some (true, f) =>
    match f (hartWho s d c) (wordVals p) s with
    | .ok s' => .ok (endAccess s' (.hart d c), 0)
    | .error (.fault e) => .error (.excIn (commitFault e) s)
    | .error (.faultIn e s') => .error (.excIn (commitFault e) s')
    | .error (.stall s') => .error (.stall s')
    | .error _ => .error (.stall s)
  | _ => .error .illegal

/-- MK.ENGW (R137, R138): a full shadow set stalls the hart; COMMIT is a release. One that waits for its gang goes on where that has formed,
and after a gang fault ends as a bad command does (log entry 21). -/
def execMkEngw (r : RType) (s : State) : Host.Outcome State Fault Refusal :=
  hartRun .u 2 4 r { rs1 := true, rs2 := true } (fun d c v w s => do
    legal (decide (fld v 7 5 = 0 ∧ fld v 63 9 = 0))
    let port := fld v 1 0
    let a := s.act d c
    let p := a.port port
    if let some g := (a.hgang.filter (fun g => decide (g.pc = (s.hart d c).pc))) then
      let t := s.setAct d c { a with hgang := none }
      if g.fault then .error (.excIn none t) else if g.done then pure (t, 0) else .error (.stall s)
    else if p.shadowCmd.isSome then .error (.stall s)
    else
      let s' := s.setAct d c (a.setPort port { p with shadow := tset 0 p.shadow (fld v 4 2) w })
      if bit v 8 then do
        hartReleased s d c
        match commit s' d c port with
        | .error (.stall s2) => .error (.stall (s2.setAct d c ((s2.act d c).setPort port p)))
        | .ok (s2, v) => if (s2.act d c).hgang.isSome && a.hgang.isNone then .error (.stall s2) else .ok (s2, v)
        | x => x
      else pure (s', 0)) s

/-- MK.ENGR (R137). -/
def execMkEngr (r : RType) (s : State) : Host.Outcome State Fault Refusal :=
  hartRun .u 2 5 r { rd := true, rs1 := true } (fun d c v _ s => do
    legal (decide (fld v 7 5 = 0 ∧ fld v 63 10 = 0))
    let p := (s.act d c).port (fld v 1 0)
    pure (s, tget 0 (if bit v 9 then p.active else p.shadow) (fld v 4 2))) s

end Sys2Proof.Machine
end

