-- ==== Sys2Proof/Machine/Restore.lean ====
section
/-! DEFINITION. Sets copied out to HBM and back (R152, R154, R213, R437, R438). -/

namespace Sys2Proof.Machine

/-! ## The image in memory (R437) -/

/-- Bytes of one image; the offset of its parts: tags, accumulators, the controller's own 64 KiB. -/
abbrev imageSize : Nat := 0x170000

/-- SAVE(p), the virtual address of a partition's images. -/
def saveVa (v : Die) (p : Nat) : Nat := (v.reg (0x30000 + 8 * p)).toNat

/-- Byte `o` of a set's image. The last 64 KiB have a form that the manual does not give (log entry 3). -/
def imageByte (s : State) (a : SetState) (o : Nat) : Byte :=
  if o < 0x100000 then BitVec.ofNat 8 (byteAt (rawData a (o / 16)).toNat (o % 16))
  else if o < 0x120000 then
    let g := (o - 0x100000) / 2
    BitVec.ofNat 8 (byteAt (tget {} a.pad g).tag.toNat (o % 2))
  else if o < 0x160000 then memGet a.acc (o - 0x120000)
  else (s.free (o - 0x160000)).setWidth 8

/-- The fabric addresses of an image's 64 KiB pages, of class 3, under domain 0; none when one has no translation. -/
def imagePages (d va : Nat) : List Nat → State → State × Option (List Nat)
  | [], s => (s, some [])
  | i :: t, s =>
    match unitFa s d 0 (va + 65536 * i) true with
    | (s, some fa) =>
      if faClass fa = 3 && s.here fa then
        let (s, r) := imagePages d va t s
        (s, r.map (fun l => fa :: l))
      else (s, none)
    | (s, none) => (s, none)

/-- One page of an image written, as stores at their homes. -/
def putPage (a : SetState) (s0 : State) (base fa : Nat) (s : State) : State :=
  storeBytes s fa ((List.range 65536).map (fun i => imageByte s0 a (base + i)))

/-- A line leaves a core's shadow set, written back when dirty (R233). -/
def castOutShadow (s : State) (d c f : Nat) : State :=
  let k := s.core d c
  let dirty := (tfind k.shd.lines f).any (fun l => l.dirty)
  let s := if dirty then cleanLine s f else s
  let k := s.core d c
  let s := s.setCore d c { k with shd := { k.shd with lines := tdel k.shd.lines f } }
  if (tfind k.act.lines f).isSome then s else movePtr s f d c none

/-- May a set be copied out: a partition holds it, and none of its messages or migrations is unanswered. -/
def savable (a : SetState) : Bool :=
  a.part.isSome && a.post.all (fun p => p.2.engine.isNone || p.2.op.byChunks)

/-- The set that a copy-out leaves: its regions are released, and the banks they lay in gated, but for the save region's (R151). -/
def emptied (a : SetState) : SetState := gateBanks { gated := a.gated } a.liveRanges

/-- COPY_OUT (R437): the shadow set's cache portion is written back, its image written, and the set is free. -/
def execCopyOut (d c : Nat) (s : State) : Host.Outcome State Fault Refusal :=
  let k := s.core d c
  match k.shd.part with
  | none => .next s
  | some p =>
    if !savable k.shd || (tfind (s.die d).saved (128 * p + c)).isSome then .next s
    else
      match imagePages d (saveVa (s.die d) p + imageSize * c) (List.range 23) s with
      | (s, none) => .next s
      | (s, some fas) =>
        let s := (k.shd.lines.map (·.1)).foldl (fun s f => castOutShadow s d c f) s
        let a := (s.core d c).shd
        let s0 := s
        let s := fas.zipIdx.foldl (fun s q => putPage a s0 (65536 * q.2) q.1 s) s
        let k := s.core d c
        let v := s.die d
        let keep : Saved := { set := { a with pad := [], acc := [] } }
        .next ((s.setDie d { v with saved := tins v.saved (128 * p + c) keep }).setCore d c { k with shd := emptied a })

/-! ## Copying in (R152, R154, R438) -/

/-- `n` bytes of an image, from its pages. -/
def imageRead (s : State) (fas : List Nat) (o n : Nat) : Nat :=
  (List.range n).foldr (fun i v =>
    (cohRead s (fas.getD ((o + i) / 65536) 0 + (o + i) % 65536) 1) + 256 * v) 0

/-- The paddock of an image, data and tags. -/
def imagePad (s : State) (fas : List Nat) : Sparse Gran :=
  (List.range 65536).filterMap (fun g =>
    let x : Gran := { tag := BitVec.ofNat 10 (imageRead s fas (0x100000 + 2 * g) 2), data := BitVec.ofNat 128 (imageRead s fas (16 * g) 16) }
    if x = {} then none else some (g, x))

/-- The accumulators of an image. -/
def imageAcc (s : State) (fas : List Nat) : Mem :=
  (List.range 0x40000).filterMap (fun b =>
    let v : Byte := BitVec.ofNat 8 (imageRead s fas (0x120000 + b) 1)
    if v = 0 then none else some (b, v))

/-- The byte after the last one of a context's ranges. -/
def Ctx.top (x : Ctx) : Nat := x.ranges.foldl (fun m r => if r.2 = 0 then m else Nat.max m (r.1 + r.2)) 0

/-- CACHE lowered, not below 1, until a byte range below `top` lies in scratch (R154). -/
def fitCache (cache top : Nat) : Nat := Nat.max 1 (Nat.min cache (16 - (top + 65535) / 65536))

/-- Does a context fit a set: usable granules, in scratch, and clear of the save area and of every other context? -/
def fitsSet (a : SetState) (holes : List (Nat × Nat)) (ix : Nat) (x : Ctx) : Bool :=
  let others := (a.ctxs.filter (fun p => decide (p.1 ≠ ix ∧ p.2.state ≠ .free))).flatMap (fun p => p.2.ranges)
  x.ranges.all (fun r => decide (r.2 = 0) ||
    (decide (r.1 + r.2 ≤ a.scratch) && (saveRange :: (holes ++ others)).all (fun h => !meets r.1 r.2 h.1 h.2)))

/-- A context refused with CAPACITY is FREE in the restored set, off its slot and queue, without bindings (R438). -/
def dropRefused (a : SetState) (ix : Nat) : SetState :=
  let x := a.ctx ix
  let a := match slotHolding a ix with
    | some i => emptySlot a i
    | none => a
  let a := runqDrop a ix
  let a := { a with chq := a.chq.filter (fun q => decide (q.1 / 8 ≠ ix)) }
  a.setCtx ix { ({} : Ctx) with inc := x.inc, wp := x.wp }

/-- The held entries of a refused context end by R273, without a report. -/
def endHeldOf (s : State) (d c : Nat) (sh : Bool) (ix : Nat) (inc : BitVec 10) : State :=
  ((s.core d c).set sh).post.foldl (fun s p =>
    let i := p.2.issuer
    if i.hart ∨ i.ix ≠ ix ∨ i.inc ≠ inc then s
    else
      let k := (s.core d c).count 2 1
      dropPins (s.setCore d c (k.putSet sh (wakeAll (freeEntry (k.set sh) p.1)))) p.2.op) s

/-- A context of a restored shadow set, placed by R154, or refused and reported; one refused is live no more, so barriers that missed it
alone complete (R224). -/
def placeRestored (d c : Nat) (s : State) (ix : Nat) : State :=
  let k := s.core d c
  let x := k.shd.ctx ix
  if x.state = .free then s
  else
    let a := { k.shd with cache := BitVec.ofNat 4 (fitCache k.shd.cache.toNat x.top) }
    let s := s.setCore d c { k with shd := a }
    if fitsSet a (holesOf k (!k.setB)) ix x then s
    else
      let s := endHeldOf s d c true ix x.inc
      let k := s.core d c
      taskGone ((s.setCore d c { k with shd := dropRefused k.shd ix }).report d 7 (ctxHandle d c ix x.inc)) d x

/-- A region of a set that is being restored takes generation `g`: granules with the saved generation are written with it. -/
def freshRegion (a : SetState) (done : List Nat) (ix g : Nat) (new : BitVec 10) : SetState × List Nat :=
  match liveRegion a ix g with
  | none => (a, done)
  | some (lo, n, old) =>
    let hit := fun (q : Nat × Gran) => meets (16 * q.1) 16 lo n && decide (q.2.tag = old ∧ old ≠ 0) && !done.contains q.1
    let moved := (a.pad.filter hit).map (·.1)
    (setRegionGen { a with pad := a.pad.map (fun q => if hit q then (q.1, { q.2 with tag := new }) else q) } ix g new, done ++ moved)

/-- The regions of a set, by context index (64: the save region) and region number. -/
def SetState.regionKeys (a : SetState) : List (Nat × Nat) :=
  (64, 0) :: a.ctxs.flatMap (fun p => [0, 1, 2, 3].filterMap (fun g => if (liveRegion a p.1 g).isSome then some (p.1, g) else none))

/-- Up to `n` generations drawn, after those drawn before; fewer while Alloc stalls (R147, R152). -/
def drawGens (k : Core) (l : List (BitVec 10)) : Nat → Core × List (BitVec 10)
  | 0 => (k, l)
  | n + 1 => if allocStalls k then (k.allocWait, l) else drawGens k.allocDone (l ++ [k.next]) n

/-- Every region of a restored set takes a generation of those drawn for it. -/
def renewAll (a : SetState) (done : List Nat) : List (Nat × Nat) → List (BitVec 10) → SetState × List Nat
  | (ix, g) :: t, new :: l =>
    let (a, done) := freshRegion a done ix g new
    renewAll a done t l
  | _, _ => (a, done)

/-- Granules that no region of the restored set has taken carry tag 0. -/
def keepTags (a : SetState) (done : List Nat) : SetState :=
  { a with pad := a.pad.filterMap (fun q =>
      if done.contains q.1 then some q else voidGran q) }

/-- COPY_IN (R437): image `img` of partition `p` into a free shadow set, once a fresh generation is drawn for each region; contexts that do not fit are
refused; held updates are applied in order. -/
def execCopyIn (d c p img : Nat) (s : State) : Host.Outcome State Fault Refusal :=
  let k := s.core d c
  match tfind (s.die d).saved (128 * p + img) with
  | none => .next s
  | some x =>
    if k.shd.part.isSome || k.shd.anyLive || !partCore ((s.die d).part p) c then .next s
    else
      match imagePages d (saveVa (s.die d) p + imageSize * img) (List.range 23) s with
      | (s, none) => .next s
      | (s, some fas) =>
        let k := s.core d c
        let a := { x.set with pad := imagePad s fas, acc := imageAcc s fas, part := some p, lines := [] }
        let s' := s.setCore d c { k with shd := a }
        let s' := (List.range 64).foldl (placeRestored d c) s'
        let k' := s'.core d c
        let keys := k'.shd.regionKeys
        let (k, gens) := drawGens k x.drawn (keys.length - x.drawn.length)
        let v := s.die d
        if gens.length < keys.length then
          .next ((s.setDie d { v with saved := tins v.saved (128 * p + img) { x with drawn := gens } }).setCore d c k)
        else
          let (a, done) := renewAll k'.shd [] keys gens
          let a := x.held.foldl setUpd (keepTags a done)
          let s' := s'.setCore d c { k' with shd := a, next := k.next, shear := k.shear }
          let v := s'.die d
          .next (s'.setDie d { v with saved := tdel v.saved (128 * p + img) })

end Sys2Proof.Machine
end

