-- ==== Sys2Proof/Machine/Dispatch.lean ====
section
/-! DEFINITION. One arm per instruction: each calls its meaning. -/

namespace Sys2Proof.Machine

/-- The meaning of every instruction. -/
def exec (i : Instr) (s : State) : Host.Outcome State Fault Refusal :=
  match i with
  | .nop d => Sys2Proof.Machine.execNop d s
  | .bra d t => Sys2Proof.Machine.execBra d t s
  | .call d t => Sys2Proof.Machine.execCall d t s
  | .jmpx d t => Sys2Proof.Machine.execJmpx d t s
  | .loop d t => Sys2Proof.Machine.execLoop d t s
  | .fetch d t => Sys2Proof.Machine.execFetch d t s
  | .stop d => Sys2Proof.Machine.execStop d s
  | .halt d => Sys2Proof.Machine.execHalt d s
  | .yield d => Sys2Proof.Machine.execYield d s
  | .trap d => Sys2Proof.Machine.execTrap d s
  | .plog d t => Sys2Proof.Machine.execPlog d t s
  | .pmov d t => Sys2Proof.Machine.execPmov d t s
  | .cyc d => Sys2Proof.Machine.execCyc d s
  | .sysr d t => Sys2Proof.Machine.execSysr d t s
  | .addS d t => Sys2Proof.Machine.execAddS d t s
  | .addV d t => Sys2Proof.Machine.execAddV d t s
  | .subS d t => Sys2Proof.Machine.execSubS d t s
  | .subV d t => Sys2Proof.Machine.execSubV d t s
  | .mulS d t => Sys2Proof.Machine.execMulS d t s
  | .mulV d t => Sys2Proof.Machine.execMulV d t s
  | .mulhS d t => Sys2Proof.Machine.execMulhS d t s
  | .mulhV d t => Sys2Proof.Machine.execMulhV d t s
  | .divS d t => Sys2Proof.Machine.execDivS d t s
  | .divV d t => Sys2Proof.Machine.execDivV d t s
  | .remS d t => Sys2Proof.Machine.execRemS d t s
  | .remV d t => Sys2Proof.Machine.execRemV d t s
  | .andS d t => Sys2Proof.Machine.execAndS d t s
  | .andV d t => Sys2Proof.Machine.execAndV d t s
  | .orS d t => Sys2Proof.Machine.execOrS d t s
  | .orV d t => Sys2Proof.Machine.execOrV d t s
  | .xorS d t => Sys2Proof.Machine.execXorS d t s
  | .xorV d t => Sys2Proof.Machine.execXorV d t s
  | .andnS d t => Sys2Proof.Machine.execAndnS d t s
  | .andnV d t => Sys2Proof.Machine.execAndnV d t s
  | .shlS d t => Sys2Proof.Machine.execShlS d t s
  | .shlV d t => Sys2Proof.Machine.execShlV d t s
  | .shrS d t => Sys2Proof.Machine.execShrS d t s
  | .shrV d t => Sys2Proof.Machine.execShrV d t s
  | .sraS d t => Sys2Proof.Machine.execSraS d t s
  | .sraV d t => Sys2Proof.Machine.execSraV d t s
  | .rotS d t => Sys2Proof.Machine.execRotS d t s
  | .rotV d t => Sys2Proof.Machine.execRotV d t s
  | .minS d t => Sys2Proof.Machine.execMinS d t s
  | .minV d t => Sys2Proof.Machine.execMinV d t s
  | .maxS d t => Sys2Proof.Machine.execMaxS d t s
  | .maxV d t => Sys2Proof.Machine.execMaxV d t s
  | .abs d t => Sys2Proof.Machine.execAbs d t s
  | .neg d t => Sys2Proof.Machine.execNeg d t s
  | .clz d t => Sys2Proof.Machine.execClz d t s
  | .popc d t => Sys2Proof.Machine.execPopc d t s
  | .cmp d t => Sys2Proof.Machine.execCmp d t s
  | .sel d t => Sys2Proof.Machine.execSel d t s
  | .addi d t => Sys2Proof.Machine.execAddi d t s
  | .movi d imm => Sys2Proof.Machine.execMovi d imm s
  | .movq d imm => Sys2Proof.Machine.execMovq d imm s
  | .lea d t => Sys2Proof.Machine.execLea d t s
  | .bext d t => Sys2Proof.Machine.execBext d t s
  | .bins d t => Sys2Proof.Machine.execBins d t s
  | .madd d t => Sys2Proof.Machine.execMadd d t s
  | .doti d t => Sys2Proof.Machine.execDoti d t s
  | .satn d t => Sys2Proof.Machine.execSatn d t s
  | .shuf d t => Sys2Proof.Machine.execShuf d t s
  | .fadd d t => Sys2Proof.Machine.execFadd d t s
  | .fsub d t => Sys2Proof.Machine.execFsub d t s
  | .fmul d t => Sys2Proof.Machine.execFmul d t s
  | .fma d t => Sys2Proof.Machine.execFma d t s
  | .fmin d t => Sys2Proof.Machine.execFmin d t s
  | .fmax d t => Sys2Proof.Machine.execFmax d t s
  | .fsgn d t => Sys2Proof.Machine.execFsgn d t s
  | .fcmp d t => Sys2Proof.Machine.execFcmp d t s
  | .fcvt d t => Sys2Proof.Machine.execFcvt d t s
  | .frnd d t => Sys2Proof.Machine.execFrnd d t s
  | .fscl d t => Sys2Proof.Machine.execFscl d t s
  | .fcls d t => Sys2Proof.Machine.execFcls d t s
  | .frcp d t => Sys2Proof.Machine.execFrcp d t s
  | .frsq d t => Sys2Proof.Machine.execFrsq d t s
  | .fsqrt d t => Sys2Proof.Machine.execFsqrt d t s
  | .fdiv d t => Sys2Proof.Machine.execFdiv d t s
  | .fexp2 d t => Sys2Proof.Machine.execFexp2 d t s
  | .flog2 d t => Sys2Proof.Machine.execFlog2 d t s
  | .fsin d t => Sys2Proof.Machine.execFsin d t s
  | .fcos d t => Sys2Proof.Machine.execFcos d t s
  | .ftanh d t => Sys2Proof.Machine.execFtanh d t s
  | .fred d t => Sys2Proof.Machine.execFred d t s
  | .imax d t => Sys2Proof.Machine.execImax d t s
  | .fdot d t => Sys2Proof.Machine.execFdot d t s
  | .qnt d t => Sys2Proof.Machine.execQnt d t s
  | .qntScl d t => Sys2Proof.Machine.execQntScl d t s
  | .dqnt d t => Sys2Proof.Machine.execDqnt d t s
  | .rand d t => Sys2Proof.Machine.execRand d t s
  | .rope d t => Sys2Proof.Machine.execRope d t s
  | .ropeSet d t => Sys2Proof.Machine.execRopeSet d t s
  | .fpcset d t => Sys2Proof.Machine.execFpcset d t s
  | .ld d t => Sys2Proof.Machine.execLd d t s
  | .st d t => Sys2Proof.Machine.execSt d t s
  | .lda d t => Sys2Proof.Machine.execLda d t s
  | .sta d t => Sys2Proof.Machine.execSta d t s
  | .movx d t => Sys2Proof.Machine.execMovx d t s
  | .movxs d t => Sys2Proof.Machine.execMovxs d t s
  | .lnkr d t => Sys2Proof.Machine.execLnkr d t s
  | .lnkw d t => Sys2Proof.Machine.execLnkw d t s
  | .chbind d t => Sys2Proof.Machine.execChbind d t s
  | .chbindOff d t => Sys2Proof.Machine.execChbindOff d t s
  | .chsend d t => Sys2Proof.Machine.execChsend d t s
  | .gath d t => Sys2Proof.Machine.execGath d t s
  | .scat d t => Sys2Proof.Machine.execScat d t s
  | .gennew d t => Sys2Proof.Machine.execGennew d t s
  | .genq d t => Sys2Proof.Machine.execGenq d t s
  | .genqGran d t => Sys2Proof.Machine.execGenqGran d t s
  | .ldg d t => Sys2Proof.Machine.execLdg d t s
  | .stg d t => Sys2Proof.Machine.execStg d t s
  | .atom d t => Sys2Proof.Machine.execAtom d t s
  | .cas d t => Sys2Proof.Machine.execCas d t s
  | .red d t => Sys2Proof.Machine.execRed d t s
  | .fence d t => Sys2Proof.Machine.execFence d t s
  | .pref d t => Sys2Proof.Machine.execPref d t s
  | .ldnc d t => Sys2Proof.Machine.execLdnc d t s
  | .fabinv d t => Sys2Proof.Machine.execFabinv d t s
  | .flushl d t => Sys2Proof.Machine.execFlushl d t s
  | .invl d t => Sys2Proof.Machine.execInvl d t s
  | .send d t => Sys2Proof.Machine.execSend d t s
  | .sendLaunch d t => Sys2Proof.Machine.execSendLaunch d t s
  | .spawn d t => Sys2Proof.Machine.execSpawn d t s
  | .cwait d t => Sys2Proof.Machine.execCwait d t s
  | .cwaitr d t => Sys2Proof.Machine.execCwaitr d t s
  | .csig d t => Sys2Proof.Machine.execCsig d t s
  | .csigRmt d t => Sys2Proof.Machine.execCsigRmt d t s
  | .cset d t => Sys2Proof.Machine.execCset d t s
  | .cget d t => Sys2Proof.Machine.execCget d t s
  | .ctrig d t => Sys2Proof.Machine.execCtrig d t s
  | .ctrigOff d t => Sys2Proof.Machine.execCtrigOff d t s
  | .bar d t => Sys2Proof.Machine.execBar d t s
  | .chkw d t => Sys2Proof.Machine.execChkw d t s
  | .get d t => Sys2Proof.Machine.execGet d t s
  | .put d t => Sys2Proof.Machine.execPut d t s
  | .tcopy d t => Sys2Proof.Machine.execTcopy d t s
  | .tgath d t => Sys2Proof.Machine.execTgath d t s
  | .tscat d t => Sys2Proof.Machine.execTscat d t s
  | .cfill d t => Sys2Proof.Machine.execCfill d t s
  | .creplay d t => Sys2Proof.Machine.execCreplay d t s
  | .layset d t => Sys2Proof.Machine.execLayset d t s
  | .layget d t => Sys2Proof.Machine.execLayget d t s
  | .laykey d t => Sys2Proof.Machine.execLaykey d t s
  | .mma d t => Sys2Proof.Machine.execMma d t s
  | .mmz d t => Sys2Proof.Machine.execMmz d t s
  | .wbld d t => Sys2Proof.Machine.execWbld d t s
  | .wbsel d t => Sys2Proof.Machine.execWbsel d t s
  | .accvt d t => Sys2Proof.Machine.execAccvt d t s
  | .sfork d t => Sys2Proof.Machine.execSfork d t s
  | .sret d t => Sys2Proof.Machine.execSret d t s
  | .sprune d t => Sys2Proof.Machine.execSprune d t s
  | .sadv d t => Sys2Proof.Machine.execSadv d t s
  | .sactPush d t => Sys2Proof.Machine.execSactPush d t s
  | .sactPop d t => Sys2Proof.Machine.execSactPop d t s
  | .sactPeek d t => Sys2Proof.Machine.execSactPeek d t s
  | .spgr d t => Sys2Proof.Machine.execSpgr d t s
  | .spgw d t => Sys2Proof.Machine.execSpgw d t s
  | .scommitBegin d t => Sys2Proof.Machine.execScommitBegin d t s
  | .scommitCommit d t => Sys2Proof.Machine.execScommitCommit d t s
  | .scommitDiscard d t => Sys2Proof.Machine.execScommitDiscard d t s
  | .sstat d t => Sys2Proof.Machine.execSstat d t s
  | .ssetBind d t => Sys2Proof.Machine.execSsetBind d t s
  | .ssetPrio d t => Sys2Proof.Machine.execSsetPrio d t s
  | .ssetModel d t => Sys2Proof.Machine.execSsetModel d t s
  | .ssetJoin d t => Sys2Proof.Machine.execSsetJoin d t s
  | .ssetRun d t => Sys2Proof.Machine.execSsetRun d t s
  | .ssetRng d t => Sys2Proof.Machine.execSsetRng d t s
  | .ssetQueue d t => Sys2Proof.Machine.execSsetQueue d t s
  | .ssetPen d t => Sys2Proof.Machine.execSsetPen d t s
  | .shor d t => Sys2Proof.Machine.execShor d t s
  | .smig d t => Sys2Proof.Machine.execSmig d t s
  | .ttreset d t => Sys2Proof.Machine.execTtreset d t s
  | .ttadd d t => Sys2Proof.Machine.execTtadd d t s
  | .ttmask d t => Sys2Proof.Machine.execTtmask d t s
  | .ttpos d t => Sys2Proof.Machine.execTtpos d t s
  | .ttposHdr d t => Sys2Proof.Machine.execTtposHdr d t s
  | .ttanc d t => Sys2Proof.Machine.execTtanc d t s
  | .ttpath d t => Sys2Proof.Machine.execTtpath d t s
  | .ttprune d t => Sys2Proof.Machine.execTtprune d t s
  | .jopen d t => Sys2Proof.Machine.execJopen d t s
  | .jput d t => Sys2Proof.Machine.execJput d t s
  | .jget d t => Sys2Proof.Machine.execJget d t s
  | .jgetClose d t => Sys2Proof.Machine.execJgetClose d t s
  | .psort d t => Sys2Proof.Machine.execPsort d t s
  | .sdesc d t => Sys2Proof.Machine.execSdesc d t s
  | .rlq d t => Sys2Proof.Machine.execRlq d t s
  | .perfr d t => Sys2Proof.Machine.execPerfr d t s
  | .mkBcast r => Sys2Proof.Machine.execMkBcast r s
  | .mkLoose r => Sys2Proof.Machine.execMkLoose r s
  | .mkStopped r => Sys2Proof.Machine.execMkStopped r s
  | .mkWaitf r => Sys2Proof.Machine.execMkWaitf r s
  | .mkHaltf r => Sys2Proof.Machine.execMkHaltf r s
  | .mkLink r => Sys2Proof.Machine.execMkLink r s
  | .mkCtxnew r => Sys2Proof.Machine.execMkCtxnew r s
  | .mkCtxfree r => Sys2Proof.Machine.execMkCtxfree r s
  | .mkBind r => Sys2Proof.Machine.execMkBind r s
  | .mkUnbind r => Sys2Proof.Machine.execMkUnbind r s
  | .mkRunq r => Sys2Proof.Machine.execMkRunq r s
  | .mkUpret r => Sys2Proof.Machine.execMkUpret r s
  | .mkUpretReturn r => Sys2Proof.Machine.execMkUpretReturn r s
  | .mkMigr r => Sys2Proof.Machine.execMkMigr r s
  | .mkGennew r => Sys2Proof.Machine.execMkGennew r s
  | .mkCwait r => Sys2Proof.Machine.execMkCwait r s
  | .mkCsig r => Sys2Proof.Machine.execMkCsig r s
  | .mkCset r => Sys2Proof.Machine.execMkCset r s
  | .mkCget r => Sys2Proof.Machine.execMkCget r s
  | .mkEngw r => Sys2Proof.Machine.execMkEngw r s
  | .mkEngr r => Sys2Proof.Machine.execMkEngr r s
  | .mkShswap r => Sys2Proof.Machine.execMkShswap r s
  | .mkFreeze r => Sys2Proof.Machine.execMkFreeze r s
  | .mkThaw r => Sys2Proof.Machine.execMkThaw r s
  | .mkPlbw r => Sys2Proof.Machine.execMkPlbw r s
  | .mkPlbinv r => Sys2Proof.Machine.execMkPlbinv r s
  | .mkDbgrd r => Sys2Proof.Machine.execMkDbgrd r s
  | .mkDbgwr r => Sys2Proof.Machine.execMkDbgwr r s
  | .contextBind d c => Sys2Proof.Machine.execContextBind d c s
  | .agingStep d c ix => Sys2Proof.Machine.execAgingStep d c ix s
  | .messageArrival pkt => Sys2Proof.Machine.execMessageArrival pkt s
  | .messageCreate d c => Sys2Proof.Machine.execMessageCreate d c s
  | .messageSend d c e => Sys2Proof.Machine.execMessageSend d c e s
  | .channelPacketArrival pkt => Sys2Proof.Machine.execChannelPacketArrival pkt s
  | .mailboxDelivery d c => Sys2Proof.Machine.execMailboxDelivery d c s
  | .localInterrupt d c => Sys2Proof.Machine.execLocalInterrupt d c s
  | .upcallEntry d c => Sys2Proof.Machine.execUpcallEntry d c s
  | .loadRefresh d c => Sys2Proof.Machine.execLoadRefresh d c s
  | .sliceCopy d c => Sys2Proof.Machine.execSliceCopy d c s
  | .balanceMove d c => Sys2Proof.Machine.execBalanceMove d c s
  | .contextMigrateArrival pkt => Sys2Proof.Machine.execContextMigrateArrival pkt s
  | .shearerScan d c bank => Sys2Proof.Machine.execShearerScan d c bank s
  | .shearForcedRate d c => Sys2Proof.Machine.execShearForcedRate d c s
  | .regionRenew d c shadow ix g => Sys2Proof.Machine.execRegionRenew d c shadow ix g s
  | .bankWake d c => Sys2Proof.Machine.execBankWake d c s
  | .commandCapture d c port => Sys2Proof.Machine.execCommandCapture d c port s
  | .commandDispatch d c e => Sys2Proof.Machine.execCommandDispatch d c e s
  | .chunkLand d c e j crcBad => Sys2Proof.Machine.execChunkLand d c e j crcBad s
  | .completionMessage d c e => Sys2Proof.Machine.execCompletionMessage d c e s
  | .commandFail d c e => Sys2Proof.Machine.execCommandFail d c e s
  | .cxlNotPresent d c e => Sys2Proof.Machine.execCxlNotPresent d c e s
  | .triggerTaskCreate d c k => Sys2Proof.Machine.execTriggerTaskCreate d c k s
  | .counterSignalPacket pkt => Sys2Proof.Machine.execCounterSignalPacket pkt s
  | .counterWindowRead a => Sys2Proof.Machine.execCounterWindowRead a s
  | .counterWindowSet d c => Sys2Proof.Machine.execCounterWindowSet d c s
  | .counterWindowSignal d c => Sys2Proof.Machine.execCounterWindowSignal d c s
  | .gangTimeout d c sl => Sys2Proof.Machine.execGangTimeout d c sl s
  | .gangStart d gang => Sys2Proof.Machine.execGangStart d gang s
  | .mmaStart d c => Sys2Proof.Machine.execMmaStart d c s
  | .mmaGroupLand d c => Sys2Proof.Machine.execMmaGroupLand d c s
  | .mmaComplete d c => Sys2Proof.Machine.execMmaComplete d c s
  | .mmzStart d c => Sys2Proof.Machine.execMmzStart d c s
  | .mmzComplete d c => Sys2Proof.Machine.execMmzComplete d c s
  | .weightReplayComplete d c h failed => Sys2Proof.Machine.execWeightReplayComplete d c h failed s
  | .psortComplete d c e => Sys2Proof.Machine.execPsortComplete d c e s
  | .storePerform d c => Sys2Proof.Machine.execStorePerform d c s
  | .homeWrite d c => Sys2Proof.Machine.execHomeWrite d c s
  | .homeRead a => Sys2Proof.Machine.execHomeRead a s
  | .invalidation line p => Sys2Proof.Machine.execInvalidation line p s
  | .keeperPost a => Sys2Proof.Machine.execKeeperPost a s
  | .keeperInvalidate line => Sys2Proof.Machine.execKeeperInvalidate line s
  | .keeperComplete line => Sys2Proof.Machine.execKeeperComplete line s
  | .proxyMiss a victim => Sys2Proof.Machine.execProxyMiss a victim s
  | .cacheFill a victim toCore => Sys2Proof.Machine.execCacheFill a victim toCore s
  | .atomicAtHome a => Sys2Proof.Machine.execAtomicAtHome a s
  | .loadReply a => Sys2Proof.Machine.execLoadReply a s
  | .remotePaddockAccess a => Sys2Proof.Machine.execRemotePaddockAccess a s
  | .fabricCacheFill a victim => Sys2Proof.Machine.execFabricCacheFill a victim s
  | .hostAtomicCompletion a old ur => Sys2Proof.Machine.execHostAtomicCompletion a old ur s
  | .plbRefill a => Sys2Proof.Machine.execPlbRefill a s
  | .tableWalk a => Sys2Proof.Machine.execTableWalk a s
  | .shootdown d v => Sys2Proof.Machine.execShootdown d v s
  | .shootdownComplete d => Sys2Proof.Machine.execShootdownComplete d s
  | .sliceExpiry d p => Sys2Proof.Machine.execSliceExpiry d p s
  | .preemptOrder d p => Sys2Proof.Machine.execPreemptOrder d p s
  | .shswapExchange d c => Sys2Proof.Machine.execShswapExchange d c s
  | .preemptLate d c => Sys2Proof.Machine.execPreemptLate d c s
  | .copyOut d c => Sys2Proof.Machine.execCopyOut d c s
  | .copyIn d c p img => Sys2Proof.Machine.execCopyIn d c p img s
  | .freezePacket pkt => Sys2Proof.Machine.execFreezePacket pkt s
  | .fthawWrite d v => Sys2Proof.Machine.execFthawWrite d v s
  | .launchPacket src w relaxed => Sys2Proof.Machine.execLaunchPacket src w relaxed s
  | .gloadPacket src w relaxed => Sys2Proof.Machine.execGloadPacket src w relaxed s
  | .replayPacket src w relaxed => Sys2Proof.Machine.execReplayPacket src w relaxed s
  | .patchPacket src w relaxed => Sys2Proof.Machine.execPatchPacket src w relaxed s
  | .registerPacket src w relaxed => Sys2Proof.Machine.execRegisterPacket src w relaxed s
  | .sharePlace l d wps => Sys2Proof.Machine.execSharePlace l d wps s
  | .taskCreate l d c => Sys2Proof.Machine.execTaskCreate l d c s
  | .launchComplete l => Sys2Proof.Machine.execLaunchComplete l s
  | .replayStart part g => Sys2Proof.Machine.execReplayStart part g s
  | .droveDispatch d e => Sys2Proof.Machine.execDroveDispatch d e s
  | .residencyWrite d e v => Sys2Proof.Machine.execResidencyWrite d e v s
  | .frameCascade d => Sys2Proof.Machine.execFrameCascade d s
  | .tierMove d tier node frame toTier toFrame => Sys2Proof.Machine.execTierMove d tier node frame toTier toFrame s
  | .migrationPull m => Sys2Proof.Machine.execMigrationPull m s
  | .migrationSwitch m => Sys2Proof.Machine.execMigrationSwitch m s
  | .joinArrival pkt => Sys2Proof.Machine.execJoinArrival pkt s
  | .childResultArrival pkt => Sys2Proof.Machine.execChildResultArrival pkt s
  | .descentStep pkt => Sys2Proof.Machine.execDescentStep pkt s
  | .joinPrune pkt => Sys2Proof.Machine.execJoinPrune pkt s
  | .packetRoute pkt evict => Sys2Proof.Machine.execPacketRoute pkt evict s
  | .evictionNotice pkt => Sys2Proof.Machine.execEvictionNotice pkt s
  | .endToEndAck pkt => Sys2Proof.Machine.execEndToEndAck pkt s
  | .classAging pkt => Sys2Proof.Machine.execClassAging pkt s
  | .flitReplay d port lane => Sys2Proof.Machine.execFlitReplay d port lane s
  | .laneRetrain d port lane => Sys2Proof.Machine.execLaneRetrain d port lane s
  | .linkUp port => Sys2Proof.Machine.execLinkUp port s
  | .linkDown port => Sys2Proof.Machine.execLinkDown port s
  | .bar4Write port fn off bytes relaxed => Sys2Proof.Machine.execBar4Write port fn off bytes relaxed s
  | .bar4Read port fn off n => Sys2Proof.Machine.execBar4Read port fn off n s
  | .configRequest port fn => Sys2Proof.Machine.execConfigRequest port fn s
  | .postRecord d => Sys2Proof.Machine.execPostRecord d s
  | .pbctlWrite v => Sys2Proof.Machine.execPbctlWrite v s
  | .partitionWrite d p v => Sys2Proof.Machine.execPartitionWrite d p v s
  | .mkSplitWrite v => Sys2Proof.Machine.execMkSplitWrite v s
  | .mkSlicePack v => Sys2Proof.Machine.execMkSlicePack v s
  | .registerWrite r v => Sys2Proof.Machine.execRegisterWrite r v s
  | .hbmChannelSpare d stack => Sys2Proof.Machine.execHbmChannelSpare d stack s
  | .rateWindow d => Sys2Proof.Machine.execRateWindow d s
  | .powerMeasure d power temp => Sys2Proof.Machine.execPowerMeasure d power temp s
  | .thermalTrip coolant => Sys2Proof.Machine.execThermalTrip coolant s
  | .supplyFault => Sys2Proof.Machine.execSupplyFault s
  | .moduleReset => Sys2Proof.Machine.execModuleReset s
  | .mctpTelemetry m => Sys2Proof.Machine.execMctpTelemetry m s
  | .mctpAttestation m => Sys2Proof.Machine.execMctpAttestation m s
  | .mctpImageStage m => Sys2Proof.Machine.execMctpImageStage m s
  | .mctpKeyLoad m => Sys2Proof.Machine.execMctpKeyLoad m s
  | .mctpKeyClear m => Sys2Proof.Machine.execMctpKeyClear m s
  | .mctpDebugAuth m => Sys2Proof.Machine.execMctpDebugAuth m s
  | .mctpDebugRevoke m => Sys2Proof.Machine.execMctpDebugRevoke m s
  | .mctpControl m => Sys2Proof.Machine.execMctpControl m s
  | .reservedOpcode => Sys2Proof.Machine.execReservedOpcode s
  | .illegalLine => Sys2Proof.Machine.execIllegalLine s
  | .custom0Reserved word => Sys2Proof.Machine.execCustom0Reserved word s
  | .hartMemoryAccess x => Sys2Proof.Machine.execHartMemoryAccess x s
  | .hartFence k => Sys2Proof.Machine.execHartFence k s
  | .reservedPacketType src w relaxed => Sys2Proof.Machine.execReservedPacketType src w relaxed s
  | .coreFailure d phys => Sys2Proof.Machine.execCoreFailure d phys s
  | .dieReset d => Sys2Proof.Machine.execDieReset d s

end Sys2Proof.Machine
end

