-- ==== Sys2Proof/WellFormed.lean ====
section
/-! DEFINITION. Which instructions are well formed: the fields of a Makel instruction as its row allows them (R60 to R69;
the checks themselves stand with each meaning), the register fields of an Xmakel instruction (R72, R74), and unit numbers
that the module has (R10 to R12). -/

namespace Sys2Proof

open Machine

/-- A die, and a logical core of it (R10, R11). -/
def dieOk (d : Nat) : Bool := decide (d < 12)
def coreOk (d c : Nat) : Bool := decide (d < 12 ∧ c < 96)

/-- An agent of the module (R12). -/
def Agent.ok : Agent → Bool
  | .slot d c s => coreOk d c && decide (s < 32)
  | .hart d c => coreOk d c

/-- Is an instruction well formed? -/
def Instr.wf : Instr → Bool
  | .nop d => (useNop d).legal
  | .bra d t => (useBra d t).legal
  | .call d t => (useCall d t).legal
  | .jmpx d t => (useJmpx d t).legal
  | .loop d t => (useLoop d t).legal
  | .fetch d t => (useFetch d t).legal
  | .stop d => (useStop d).legal
  | .halt d => (useHalt d).legal
  | .yield d => (useYield d).legal
  | .trap _ => (useTrap).legal
  | .plog d t => (usePlog d t).legal
  | .pmov d t => (usePmov d t).legal
  | .cyc d => (useCyc d).legal
  | .sysr d t => (useSysr d t).legal
  | .addS d t => (useAddS d t).legal
  | .addV d t => (useAddV d t).legal
  | .subS d t => (useSubS d t).legal
  | .subV d t => (useSubV d t).legal
  | .mulS d t => (useMulS d t).legal
  | .mulV d t => (useMulV d t).legal
  | .mulhS d t => (useMulhS d t).legal
  | .mulhV d t => (useMulhV d t).legal
  | .divS d t => (useDivS d t).legal
  | .divV d t => (useDivV d t).legal
  | .remS d t => (useRemS d t).legal
  | .remV d t => (useRemV d t).legal
  | .andS d t => (useAndS d t).legal
  | .andV d t => (useAndV d t).legal
  | .orS d t => (useOrS d t).legal
  | .orV d t => (useOrV d t).legal
  | .xorS d t => (useXorS d t).legal
  | .xorV d t => (useXorV d t).legal
  | .andnS d t => (useAndnS d t).legal
  | .andnV d t => (useAndnV d t).legal
  | .shlS d t => (useShlS d t).legal
  | .shlV d t => (useShlV d t).legal
  | .shrS d t => (useShrS d t).legal
  | .shrV d t => (useShrV d t).legal
  | .sraS d t => (useSraS d t).legal
  | .sraV d t => (useSraV d t).legal
  | .rotS d t => (useRotS d t).legal
  | .rotV d t => (useRotV d t).legal
  | .minS d t => (useMinS d t).legal
  | .minV d t => (useMinV d t).legal
  | .maxS d t => (useMaxS d t).legal
  | .maxV d t => (useMaxV d t).legal
  | .abs d t => (useAbs d t).legal
  | .neg d t => (useNeg d t).legal
  | .clz d t => (useClz d t).legal
  | .popc d t => (usePopc d t).legal
  | .cmp d t => (useCmp d t).legal
  | .sel d t => (useSel d t).legal
  | .addi d t => (useAddi d t).legal
  | .movi d _ => (useMovi d).legal
  | .movq d _ => (useMovq d).legal
  | .lea d t => (useLea d t).legal
  | .bext d t => (useBext d t).legal
  | .bins d t => (useBins d t).legal
  | .madd d t => (useMadd d t).legal
  | .doti d t => (useDoti d t).legal
  | .satn d t => (useSatn d t).legal
  | .shuf d t => (useShuf d t).legal
  | .fadd d t => (useFadd d t).legal
  | .fsub d t => (useFsub d t).legal
  | .fmul d t => (useFmul d t).legal
  | .fma d t => (useFma d t).legal
  | .fmin d t => (useFmin d t).legal
  | .fmax d t => (useFmax d t).legal
  | .fsgn d t => (useFsgn d t).legal
  | .fcmp d t => (useFcmp d t).legal
  | .fcvt d t => (useFcvt d t).legal
  | .frnd d t => (useFrnd d t).legal
  | .fscl d t => (useFscl d t).legal
  | .fcls d t => (useFcls d t).legal
  | .frcp d t => (useFrcp d t).legal
  | .frsq d t => (useFrsq d t).legal
  | .fsqrt d t => (useFsqrt d t).legal
  | .fdiv d t => (useFdiv d t).legal
  | .fexp2 d t => (useFexp2 d t).legal
  | .flog2 d t => (useFlog2 d t).legal
  | .fsin d t => (useFsin d t).legal
  | .fcos d t => (useFcos d t).legal
  | .ftanh d t => (useFtanh d t).legal
  | .fred d t => (useFred d t).legal
  | .imax d t => (useImax d t).legal
  | .fdot d t => (useFdot d t).legal
  | .qnt d t => (useQnt d t).legal
  | .qntScl d t => (useQntScl d t).legal
  | .dqnt d t => (useDqnt d t).legal
  | .rand d t => (useRand d t).legal
  | .rope d t => (useRope d t).legal
  | .ropeSet d t => (useRopeSet d t).legal
  | .fpcset d t => (useFpcset d t).legal
  | .ld d t => (useLd d t).legal
  | .st d t => (useSt d t).legal
  | .lda d t => (useLda d t).legal
  | .sta d t => (useSta d t).legal
  | .movx d t => (useMovx d t).legal
  | .movxs d t => (useMovxs d t).legal
  | .lnkr d t => (useLnkr d t).legal
  | .lnkw d t => (useLnkw d t).legal
  | .chbind d t => (useChbind d t).legal
  | .chbindOff d t => (useChbindOff d t).legal
  | .chsend d t => (useChsend d t).legal
  | .gath d t => (useGath d t).legal
  | .scat d t => (useScat d t).legal
  | .gennew d t => (useGennew d t).legal
  | .genq d t => (useGenq d t).legal
  | .genqGran d t => (useGenqGran d t).legal
  | .ldg d t => (useLdg d t).legal
  | .stg d t => (useStg d t).legal
  | .atom d t => (useAtom d t).legal
  | .cas d t => (useCas d t).legal
  | .red d t => (useRed d t).legal
  | .fence d t => (useFence d t).legal
  | .pref d t => (usePref d t).legal
  | .ldnc d t => (useLdnc d t).legal
  | .fabinv d t => (useFabinv d t).legal
  | .flushl d t => (useFlushl d t).legal
  | .invl d t => (useInvl d t).legal
  | .send d t => (useSend d t).legal
  | .sendLaunch d t => (useSendLaunch d t).legal
  | .spawn d t => (useSpawn d t).legal
  | .cwait d t => (useCwait d t).legal
  | .cwaitr d t => (useCwaitr d t).legal
  | .csig d t => (useCsig d t).legal
  | .csigRmt d t => (useCsigRmt d t).legal
  | .cset d t => (useCset d t).legal
  | .cget d t => (useCget d t).legal
  | .ctrig d t => (useCtrig d t).legal
  | .ctrigOff d t => (useCtrigOff d t).legal
  | .bar d t => (useBar d t).legal
  | .chkw d t => (useChkw d t).legal
  | .get d t => (useGet d t).legal
  | .put d t => (usePut d t).legal
  | .tcopy d t => (useTcopy d t).legal
  | .tgath d t => (useTgath d t).legal
  | .tscat d t => (useTscat d t).legal
  | .cfill d t => (useCfill d t).legal
  | .creplay d t => (useCreplay d t).legal
  | .layset d t => (useLayset d t).legal
  | .layget d t => (useLayget d t).legal
  | .laykey d t => (useLaykey d t).legal
  | .mma d t => (useMma d t).legal
  | .mmz d t => (useMmz d t).legal
  | .wbld d t => (useWbld d t).legal
  | .wbsel d t => (useWbsel d t).legal
  | .accvt d t => (useAccvt d t).legal
  | .sfork d t => (useSfork d t).legal
  | .sret d t => (useSret d t).legal
  | .sprune d t => (useSprune d t).legal
  | .sadv d t => (useSadv d t).legal
  | .sactPush d t => (useSactPush d t).legal
  | .sactPop d t => (useSactPop d t).legal
  | .sactPeek d t => (useSactPeek d t).legal
  | .spgr d t => (useSpgr d t).legal
  | .spgw d t => (useSpgw d t).legal
  | .scommitBegin d t => (useScommitBegin d t).legal
  | .scommitCommit d t => (useScommitCommit d t).legal
  | .scommitDiscard d t => (useScommitDiscard d t).legal
  | .sstat d t => (useSstat d t).legal
  | .ssetBind d t => (useSsetBind d t).legal
  | .ssetPrio d t => (useSsetPrio d t).legal
  | .ssetModel d t => (useSsetModel d t).legal
  | .ssetJoin d t => (useSsetJoin d t).legal
  | .ssetRun d t => (useSsetRun d t).legal
  | .ssetRng d t => (useSsetRng d t).legal
  | .ssetQueue d t => (useSsetQueue d t).legal
  | .ssetPen d t => (useSsetPen d t).legal
  | .shor d t => (useShor d t).legal
  | .smig d t => (useSmig d t).legal
  | .ttreset d t => (useTtreset d t).legal
  | .ttadd d t => (useTtadd d t).legal
  | .ttmask d t => (useTtmask d t).legal
  | .ttpos d t => (useTtpos d t).legal
  | .ttposHdr d t => (useTtposHdr d t).legal
  | .ttanc d t => (useTtanc d t).legal
  | .ttpath d t => (useTtpath d t).legal
  | .ttprune d t => (useTtprune d t).legal
  | .jopen d t => (useJopen d t).legal
  | .jput d t => (useJput d t).legal
  | .jget d t => (useJget d t).legal
  | .jgetClose d t => (useJgetClose d t).legal
  | .psort d t => (usePsort d t).legal
  | .sdesc d t => (useSdesc d t).legal
  | .rlq d t => (useRlq d t).legal
  | .perfr d t => (usePerfr d t).legal
  | .mkBcast r => rOnly r { rd := true, rs1 := true, rs2 := true }
  | .mkLoose r => rOnly r { rd := true, rs1 := true, rs2 := true }
  | .mkStopped r => rOnly r { rd := true }
  | .mkWaitf r => rOnly r { rd := true, rs1 := true }
  | .mkHaltf r => rOnly r { rd := true, rs1 := true }
  | .mkLink r => rOnly r { rd := true, rs1 := true, rs2 := true }
  | .mkCtxnew r => rOnly r { rd := true, rs1 := true, rs2 := true }
  | .mkCtxfree r => rOnly r { rd := true, rs1 := true }
  | .mkBind r => rOnly r { rd := true, rs1 := true, rs2 := true }
  | .mkUnbind r => rOnly r { rd := true, rs1 := true, rs2 := true }
  | .mkRunq r => rOnly r { rd := true, rs1 := true, rs2 := true }
  | .mkUpret r => rOnly r { rd := true, rs1 := true, rs2 := true } && decide (r.rs1 ≠ 0)
  | .mkUpretReturn r => rOnly r { }
  | .mkMigr r => rOnly r { rd := true, rs1 := true, rs2 := true }
  | .mkGennew r => rOnly r { rd := true, rs1 := true, rs2 := true }
  | .mkCwait r => rOnly r { rd := true, rs1 := true, rs2 := true }
  | .mkCsig r => rOnly r { rs1 := true, rs2 := true }
  | .mkCset r => rOnly r { rs1 := true, rs2 := true }
  | .mkCget r => rOnly r { rd := true, rs1 := true }
  | .mkEngw r => rOnly r { rs1 := true, rs2 := true }
  | .mkEngr r => rOnly r { rd := true, rs1 := true }
  | .mkShswap r => rOnly r { rd := true }
  | .mkFreeze r => rOnly r { rd := true, rs1 := true, rs2 := true }
  | .mkThaw r => rOnly r { rd := true, rs1 := true, rs2 := true }
  | .mkPlbw r => rOnly r { rs1 := true, rs2 := true }
  | .mkPlbinv r => rOnly r { rs1 := true, rs2 := true }
  | .mkDbgrd r => rOnly r { rd := true, rs1 := true }
  | .mkDbgwr r => rOnly r { rs1 := true, rs2 := true }
  | .contextBind d c => coreOk d c
  | .agingStep d c _ => coreOk d c
  | .messageArrival _ => true
  | .messageCreate d c => coreOk d c
  | .messageSend d c _ => coreOk d c
  | .channelPacketArrival _ => true
  | .mailboxDelivery d c => coreOk d c
  | .localInterrupt d c => coreOk d c
  | .upcallEntry d c => coreOk d c
  | .loadRefresh d c => coreOk d c
  | .sliceCopy d c => coreOk d c
  | .balanceMove d c => coreOk d c
  | .contextMigrateArrival _ => true
  | .shearerScan d c _ => coreOk d c
  | .shearForcedRate d c => coreOk d c
  | .regionRenew d c _ _ _ => coreOk d c
  | .bankWake d c => coreOk d c
  | .commandCapture d c _ => coreOk d c
  | .commandDispatch d c _ => coreOk d c
  | .chunkLand d c _ _ _ => coreOk d c
  | .completionMessage d c _ => coreOk d c
  | .commandFail d c _ => coreOk d c
  | .cxlNotPresent d c _ => coreOk d c
  | .triggerTaskCreate d c _ => coreOk d c
  | .counterSignalPacket _ => true
  | .counterWindowRead a => a.ok
  | .counterWindowSet d c => coreOk d c
  | .counterWindowSignal d c => coreOk d c
  | .gangTimeout d c ix => coreOk d c && decide (ix < 64)
  | .gangStart d _ => dieOk d
  | .mmaStart d c => coreOk d c
  | .mmaGroupLand d c => coreOk d c
  | .mmaComplete d c => coreOk d c
  | .mmzStart d c => coreOk d c
  | .mmzComplete d c => coreOk d c
  | .weightReplayComplete d c _ _ => coreOk d c
  | .psortComplete d c _ => coreOk d c
  | .storePerform d c => coreOk d c
  | .homeWrite d c => coreOk d c
  | .homeRead a => a.ok
  | .invalidation _ _ => true
  | .keeperPost a => a.ok
  | .keeperInvalidate _ => true
  | .keeperComplete _ => true
  | .proxyMiss a _ => a.ok
  | .cacheFill a _ _ => a.ok
  | .atomicAtHome a => a.ok
  | .loadReply a => a.ok
  | .remotePaddockAccess a => a.ok
  | .fabricCacheFill a _ => a.ok
  | .hostAtomicCompletion a _ _ => a.ok
  | .plbRefill a => a.ok
  | .tableWalk a => a.ok
  | .shootdown d _ => dieOk d
  | .shootdownComplete d => dieOk d
  | .sliceExpiry d _ => dieOk d
  | .preemptOrder d _ => dieOk d
  | .shswapExchange d c => coreOk d c
  | .preemptLate d c => coreOk d c
  | .copyOut d c => coreOk d c
  | .copyIn d c _ _ => coreOk d c
  | .freezePacket _ => true
  | .fthawWrite d _ => dieOk d
  | .launchPacket _ _ _ => true
  | .gloadPacket _ _ _ => true
  | .replayPacket _ _ _ => true
  | .patchPacket _ _ _ => true
  | .registerPacket _ _ _ => true
  | .sharePlace _ d _ => dieOk d
  | .taskCreate _ d c => coreOk d c
  | .launchComplete _ => true
  | .replayStart _ _ => true
  | .droveDispatch d _ => dieOk d
  | .residencyWrite d _ _ => dieOk d
  | .frameCascade d => dieOk d
  | .tierMove d _ _ _ _ _ => dieOk d
  | .migrationPull _ => true
  | .migrationSwitch _ => true
  | .joinArrival _ => true
  | .childResultArrival _ => true
  | .descentStep _ => true
  | .joinPrune _ => true
  | .packetRoute _ _ => true
  | .evictionNotice _ => true
  | .endToEndAck _ => true
  | .classAging _ => true
  | .flitReplay d _ _ => dieOk d
  | .laneRetrain d _ _ => dieOk d
  | .linkUp _ => true
  | .linkDown _ => true
  | .bar4Write _ _ _ _ _ => true
  | .bar4Read _ _ _ _ => true
  | .configRequest _ _ => true
  | .postRecord d => dieOk d
  | .pbctlWrite _ => true
  | .partitionWrite d _ _ => dieOk d
  | .mkSplitWrite _ => true
  | .mkSlicePack _ => true
  | .registerWrite _ _ => true
  | .hbmChannelSpare d _ => dieOk d
  | .rateWindow d => dieOk d
  | .powerMeasure d _ _ => dieOk d
  | .thermalTrip _ => true
  | .supplyFault => true
  | .moduleReset => true
  | .mctpTelemetry _ => true
  | .mctpAttestation _ => true
  | .mctpImageStage _ => true
  | .mctpKeyLoad _ => true
  | .mctpKeyClear _ => true
  | .mctpDebugAuth _ => true
  | .mctpDebugRevoke _ => true
  | .mctpControl _ => true
  | .reservedOpcode => true
  | .illegalLine => true
  | .custom0Reserved _ => true
  | .hartMemoryAccess _ => true
  | .hartFence _ => true
  | .reservedPacketType _ _ _ => true
  | .coreFailure d _ => dieOk d
  | .dieReset d => dieOk d

/-- What a Makel instruction names: the fields checked at ranks 3 and 4 of R71, and the sources of R96. -/
def Instr.use? : Instr → Option Use
  | .nop d => some (useNop d)
  | .bra d t => some (useBra d t)
  | .call d t => some (useCall d t)
  | .jmpx d t => some (useJmpx d t)
  | .loop d t => some (useLoop d t)
  | .fetch d t => some (useFetch d t)
  | .stop d => some (useStop d)
  | .halt d => some (useHalt d)
  | .yield d => some (useYield d)
  | .trap _ => some (useTrap)
  | .plog d t => some (usePlog d t)
  | .pmov d t => some (usePmov d t)
  | .cyc d => some (useCyc d)
  | .sysr d t => some (useSysr d t)
  | .addS d t => some (useAddS d t)
  | .addV d t => some (useAddV d t)
  | .subS d t => some (useSubS d t)
  | .subV d t => some (useSubV d t)
  | .mulS d t => some (useMulS d t)
  | .mulV d t => some (useMulV d t)
  | .mulhS d t => some (useMulhS d t)
  | .mulhV d t => some (useMulhV d t)
  | .divS d t => some (useDivS d t)
  | .divV d t => some (useDivV d t)
  | .remS d t => some (useRemS d t)
  | .remV d t => some (useRemV d t)
  | .andS d t => some (useAndS d t)
  | .andV d t => some (useAndV d t)
  | .orS d t => some (useOrS d t)
  | .orV d t => some (useOrV d t)
  | .xorS d t => some (useXorS d t)
  | .xorV d t => some (useXorV d t)
  | .andnS d t => some (useAndnS d t)
  | .andnV d t => some (useAndnV d t)
  | .shlS d t => some (useShlS d t)
  | .shlV d t => some (useShlV d t)
  | .shrS d t => some (useShrS d t)
  | .shrV d t => some (useShrV d t)
  | .sraS d t => some (useSraS d t)
  | .sraV d t => some (useSraV d t)
  | .rotS d t => some (useRotS d t)
  | .rotV d t => some (useRotV d t)
  | .minS d t => some (useMinS d t)
  | .minV d t => some (useMinV d t)
  | .maxS d t => some (useMaxS d t)
  | .maxV d t => some (useMaxV d t)
  | .abs d t => some (useAbs d t)
  | .neg d t => some (useNeg d t)
  | .clz d t => some (useClz d t)
  | .popc d t => some (usePopc d t)
  | .cmp d t => some (useCmp d t)
  | .sel d t => some (useSel d t)
  | .addi d t => some (useAddi d t)
  | .movi d _ => some (useMovi d)
  | .movq d _ => some (useMovq d)
  | .lea d t => some (useLea d t)
  | .bext d t => some (useBext d t)
  | .bins d t => some (useBins d t)
  | .madd d t => some (useMadd d t)
  | .doti d t => some (useDoti d t)
  | .satn d t => some (useSatn d t)
  | .shuf d t => some (useShuf d t)
  | .fadd d t => some (useFadd d t)
  | .fsub d t => some (useFsub d t)
  | .fmul d t => some (useFmul d t)
  | .fma d t => some (useFma d t)
  | .fmin d t => some (useFmin d t)
  | .fmax d t => some (useFmax d t)
  | .fsgn d t => some (useFsgn d t)
  | .fcmp d t => some (useFcmp d t)
  | .fcvt d t => some (useFcvt d t)
  | .frnd d t => some (useFrnd d t)
  | .fscl d t => some (useFscl d t)
  | .fcls d t => some (useFcls d t)
  | .frcp d t => some (useFrcp d t)
  | .frsq d t => some (useFrsq d t)
  | .fsqrt d t => some (useFsqrt d t)
  | .fdiv d t => some (useFdiv d t)
  | .fexp2 d t => some (useFexp2 d t)
  | .flog2 d t => some (useFlog2 d t)
  | .fsin d t => some (useFsin d t)
  | .fcos d t => some (useFcos d t)
  | .ftanh d t => some (useFtanh d t)
  | .fred d t => some (useFred d t)
  | .imax d t => some (useImax d t)
  | .fdot d t => some (useFdot d t)
  | .qnt d t => some (useQnt d t)
  | .qntScl d t => some (useQntScl d t)
  | .dqnt d t => some (useDqnt d t)
  | .rand d t => some (useRand d t)
  | .rope d t => some (useRope d t)
  | .ropeSet d t => some (useRopeSet d t)
  | .fpcset d t => some (useFpcset d t)
  | .ld d t => some (useLd d t)
  | .st d t => some (useSt d t)
  | .lda d t => some (useLda d t)
  | .sta d t => some (useSta d t)
  | .movx d t => some (useMovx d t)
  | .movxs d t => some (useMovxs d t)
  | .lnkr d t => some (useLnkr d t)
  | .lnkw d t => some (useLnkw d t)
  | .chbind d t => some (useChbind d t)
  | .chbindOff d t => some (useChbindOff d t)
  | .chsend d t => some (useChsend d t)
  | .gath d t => some (useGath d t)
  | .scat d t => some (useScat d t)
  | .gennew d t => some (useGennew d t)
  | .genq d t => some (useGenq d t)
  | .genqGran d t => some (useGenqGran d t)
  | .ldg d t => some (useLdg d t)
  | .stg d t => some (useStg d t)
  | .atom d t => some (useAtom d t)
  | .cas d t => some (useCas d t)
  | .red d t => some (useRed d t)
  | .fence d t => some (useFence d t)
  | .pref d t => some (usePref d t)
  | .ldnc d t => some (useLdnc d t)
  | .fabinv d t => some (useFabinv d t)
  | .flushl d t => some (useFlushl d t)
  | .invl d t => some (useInvl d t)
  | .send d t => some (useSend d t)
  | .sendLaunch d t => some (useSendLaunch d t)
  | .spawn d t => some (useSpawn d t)
  | .cwait d t => some (useCwait d t)
  | .cwaitr d t => some (useCwaitr d t)
  | .csig d t => some (useCsig d t)
  | .csigRmt d t => some (useCsigRmt d t)
  | .cset d t => some (useCset d t)
  | .cget d t => some (useCget d t)
  | .ctrig d t => some (useCtrig d t)
  | .ctrigOff d t => some (useCtrigOff d t)
  | .bar d t => some (useBar d t)
  | .chkw d t => some (useChkw d t)
  | .get d t => some (useGet d t)
  | .put d t => some (usePut d t)
  | .tcopy d t => some (useTcopy d t)
  | .tgath d t => some (useTgath d t)
  | .tscat d t => some (useTscat d t)
  | .cfill d t => some (useCfill d t)
  | .creplay d t => some (useCreplay d t)
  | .layset d t => some (useLayset d t)
  | .layget d t => some (useLayget d t)
  | .laykey d t => some (useLaykey d t)
  | .mma d t => some (useMma d t)
  | .mmz d t => some (useMmz d t)
  | .wbld d t => some (useWbld d t)
  | .wbsel d t => some (useWbsel d t)
  | .accvt d t => some (useAccvt d t)
  | .sfork d t => some (useSfork d t)
  | .sret d t => some (useSret d t)
  | .sprune d t => some (useSprune d t)
  | .sadv d t => some (useSadv d t)
  | .sactPush d t => some (useSactPush d t)
  | .sactPop d t => some (useSactPop d t)
  | .sactPeek d t => some (useSactPeek d t)
  | .spgr d t => some (useSpgr d t)
  | .spgw d t => some (useSpgw d t)
  | .scommitBegin d t => some (useScommitBegin d t)
  | .scommitCommit d t => some (useScommitCommit d t)
  | .scommitDiscard d t => some (useScommitDiscard d t)
  | .sstat d t => some (useSstat d t)
  | .ssetBind d t => some (useSsetBind d t)
  | .ssetPrio d t => some (useSsetPrio d t)
  | .ssetModel d t => some (useSsetModel d t)
  | .ssetJoin d t => some (useSsetJoin d t)
  | .ssetRun d t => some (useSsetRun d t)
  | .ssetRng d t => some (useSsetRng d t)
  | .ssetQueue d t => some (useSsetQueue d t)
  | .ssetPen d t => some (useSsetPen d t)
  | .shor d t => some (useShor d t)
  | .smig d t => some (useSmig d t)
  | .ttreset d t => some (useTtreset d t)
  | .ttadd d t => some (useTtadd d t)
  | .ttmask d t => some (useTtmask d t)
  | .ttpos d t => some (useTtpos d t)
  | .ttposHdr d t => some (useTtposHdr d t)
  | .ttanc d t => some (useTtanc d t)
  | .ttpath d t => some (useTtpath d t)
  | .ttprune d t => some (useTtprune d t)
  | .jopen d t => some (useJopen d t)
  | .jput d t => some (useJput d t)
  | .jget d t => some (useJget d t)
  | .jgetClose d t => some (useJgetClose d t)
  | .psort d t => some (usePsort d t)
  | .sdesc d t => some (useSdesc d t)
  | .rlq d t => some (useRlq d t)
  | .perfr d t => some (usePerfr d t)
  | _ => none

end Sys2Proof
end

