-- ==== Sys2Proof/Decode.lean ====
section
/-! DEFINITION. From words to instructions and back: heads and tails (R53, R54), the opcode map (R68, R69), custom-0 words
(R72, R73), with a named error for everything that has no instruction (R70, R74). -/

namespace Sys2Proof

open Machine

/-! ## Tails (R54) -/

def TailS.of (t : BitVec 16) : TailS := { b := t.extractLsb' 9 7, c := t.extractLsb' 2 7, w := t.extractLsb' 0 2 }
def TailS.bits (t : TailS) : BitVec 16 := t.b ++ t.c ++ t.w

def TailV.of (t : BitVec 32) : TailV :=
  { b := t.extractLsb' 25 7, c := t.extractLsb' 18 7, ty := t.extractLsb' 13 5, sh := t.extractLsb' 11 2,
    p := t.extractLsb' 8 3, pn := t.getLsbD 7, f := t.extractLsb' 0 7 }
def TailV.bits (t : TailV) : BitVec 32 := t.b ++ t.c ++ t.ty ++ t.sh ++ t.p ++ BitVec.ofBool t.pn ++ t.f

def TailI.of (t : BitVec 32) : TailI := { b := t.extractLsb' 25 7, imm := t.extractLsb' 0 25 }
def TailI.bits (t : TailI) : BitVec 32 := t.b ++ t.imm

def TailB.of (t : BitVec 32) : TailB :=
  { loff := t.extractLsb' 10 22, slot := t.extractLsb' 5 5, p := t.extractLsb' 2 3, pn := t.getLsbD 1, hint := t.getLsbD 0 }
def TailB.bits (t : TailB) : BitVec 32 := t.loff ++ t.slot ++ t.p ++ BitVec.ofBool t.pn ++ BitVec.ofBool t.hint

def TailM.of (t : BitVec 64) : TailM :=
  { b := t.extractLsb' 57 7, c := t.extractLsb' 50 7, sz := t.extractLsb' 47 3, sx := t.getLsbD 46, sc := t.extractLsb' 44 2,
    xi := t.getLsbD 43, p := t.extractLsb' 40 3, pn := t.getLsbD 39, ord := t.extractLsb' 36 3, scope := t.extractLsb' 33 3,
    hint := t.extractLsb' 30 3, aop := t.extractLsb' 24 6, off := t.extractLsb' 0 24 }
def TailM.bits (t : TailM) : BitVec 64 :=
  t.b ++ t.c ++ t.sz ++ BitVec.ofBool t.sx ++ t.sc ++ BitVec.ofBool t.xi ++ t.p ++ BitVec.ofBool t.pn ++ t.ord ++ t.scope ++
  t.hint ++ t.aop ++ t.off

def TailE.of (t : BitVec 64) : TailE :=
  { wk := t.extractLsb' 56 8, wt := t.extractLsb' 44 12, sk := t.extractLsb' 36 8, si := t.extractLsb' 32 4,
    b := t.extractLsb' 25 7, c := t.extractLsb' 18 7, l := t.extractLsb' 12 6, f12 := t.extractLsb' 0 12 }
def TailE.bits (t : TailE) : BitVec 64 := t.wk ++ t.wt ++ t.sk ++ t.si ++ t.b ++ t.c ++ t.l ++ t.f12

/-- A head: TL, OP, D (R53). -/
def headOf (tl op : Nat) (d : BitVec 7) : BitVec 16 := BitVec.ofNat 2 tl ++ BitVec.ofNat 7 op ++ d

/-- The register fields of a custom-0 word (R72). -/
def RType.of (w : BitVec 32) : RType := { rd := w.extractLsb' 7 5, rs1 := w.extractLsb' 15 5, rs2 := w.extractLsb' 20 5 }

/-- An Xmakel word from its fields (R72). -/
def xmBits (f3 f7 : Nat) (r : RType) : BitVec 32 :=
  BitVec.ofNat 7 f7 ++ r.rs2 ++ r.rs1 ++ BitVec.ofNat 3 f3 ++ r.rd ++ 0x0B#7

/-- One encoded instruction: a head with its tail of 0, 1, 2 or 4 halfwords (R46), or a custom-0 word. -/
inductive Code where
  | zero (head : BitVec 16)
  | one (head : BitVec 16) (tail : BitVec 16)
  | two (head : BitVec 16) (tail : BitVec 32)
  | four (head : BitVec 16) (tail : BitVec 64)
  | xm (word : BitVec 32)
  deriving DecidableEq, Repr

/-- Why bits are no instruction. -/
inductive DecodeError where
  /-- a major that R68 reserves -/
  | reservedMajor (op : Nat)
  /-- a SUB value that R69 leaves unused -/
  | unusedSub (op sub : Nat)
  /-- a TL that the major or SUB does not allow (R55, R70) -/
  | tailLength (op tl : Nat)
  /-- funct3 or funct7 not listed (R74) -/
  | custom0 (word : BitVec 32)
  /-- not a custom-0 word: a standard RISC-V instruction -/
  | standard (word : BitVec 32)
  deriving DecidableEq, Repr

/-! ## The opcode map (R68, R69, R73) -/


/-- Instructions without a tail (R68). -/
def decodeZ (op : Nat) (d : BitVec 7) : Option Instr :=
  match op with
  | 0x00 => some (.nop d)
  | 0x06 => some (.stop d)
  | 0x07 => some (.halt d)
  | 0x08 => some (.yield d)
  | 0x09 => some (.trap d)
  | 0x0C => some (.cyc d)
  | _ => none

/-- Form S (R56, R68). -/
def decodeS (op : Nat) (d : BitVec 7) (t : BitVec 16) : Option Instr :=
  match op with
  | 0x10 => some (.addS d (TailS.of t))
  | 0x11 => some (.subS d (TailS.of t))
  | 0x12 => some (.mulS d (TailS.of t))
  | 0x13 => some (.mulhS d (TailS.of t))
  | 0x14 => some (.divS d (TailS.of t))
  | 0x15 => some (.remS d (TailS.of t))
  | 0x16 => some (.andS d (TailS.of t))
  | 0x17 => some (.orS d (TailS.of t))
  | 0x18 => some (.xorS d (TailS.of t))
  | 0x19 => some (.andnS d (TailS.of t))
  | 0x1A => some (.shlS d (TailS.of t))
  | 0x1B => some (.shrS d (TailS.of t))
  | 0x1C => some (.sraS d (TailS.of t))
  | 0x1D => some (.rotS d (TailS.of t))
  | 0x1E => some (.minS d (TailS.of t))
  | 0x1F => some (.maxS d (TailS.of t))
  | _ => none

/-- The SUB values of major 0x78 with this tail length (R69). -/
def decodeTwo78 (sub : Nat) (d : BitVec 7) (t : BitVec 32) : Option Instr :=
  match sub with
  | 6 => some (.creplay d (TailV.of t))
  | _ => none

/-- The SUB values of major 0x7A with this tail length (R69). -/
def decodeTwo7A (sub : Nat) (d : BitVec 7) (t : BitVec 32) : Option Instr :=
  match sub with
  | 1 => some (.mmz d (TailV.of t))
  | 3 => some (.wbsel d (TailV.of t))
  | _ => none

/-- The SUB values of major 0x7B with this tail length (R69). -/
def decodeTwo7B (sub : Nat) (d : BitVec 7) (t : BitVec 32) : Option Instr :=
  match sub with
  | 0 => some (.sfork d (TailV.of t))
  | 1 => some (.sret d (TailV.of t))
  | 2 => some (.sprune d (TailV.of t))
  | 3 => some (.sadv d (TailV.of t))
  | 4 => some (match t.toNat % 8 with | 0 => .sactPush d (TailV.of t) | 1 => .sactPop d (TailV.of t) | _ => .sactPeek d (TailV.of t))
  | 7 => some (match t.toNat % 8 with | 0 => .scommitCommit d (TailV.of t) | 1 => .scommitDiscard d (TailV.of t) | _ => .scommitBegin d (TailV.of t))
  | 8 => some (.sstat d (TailV.of t))
  | 9 => some (match t.toNat % 8 with | 0 => .ssetBind d (TailV.of t) | 1 => .ssetPrio d (TailV.of t) | 2 => .ssetModel d (TailV.of t) | 3 => .ssetJoin d (TailV.of t) | 4 => .ssetRun d (TailV.of t) | 5 => .ssetRng d (TailV.of t) | 6 => .ssetQueue d (TailV.of t) | _ => .ssetPen d (TailV.of t))
  | 10 => some (.shor d (TailV.of t))
  | _ => none

/-- The SUB values of major 0x7C with this tail length (R69). -/
def decodeTwo7C (sub : Nat) (d : BitVec 7) (t : BitVec 32) : Option Instr :=
  match sub with
  | 0 => some (.ttreset d (TailV.of t))
  | 1 => some (.ttadd d (TailV.of t))
  | 2 => some (.ttmask d (TailV.of t))
  | 3 => some (if t.getLsbD 2 then .ttposHdr d (TailV.of t) else .ttpos d (TailV.of t))
  | 4 => some (.ttanc d (TailV.of t))
  | 5 => some (.ttpath d (TailV.of t))
  | 6 => some (.ttprune d (TailV.of t))
  | _ => none

/-- The SUB values of major 0x7D with this tail length (R69). -/
def decodeTwo7D (sub : Nat) (d : BitVec 7) (t : BitVec 32) : Option Instr :=
  match sub with
  | 0 => some (.jopen d (TailV.of t))
  | 1 => some (.jput d (TailV.of t))
  | 2 => some (if t.getLsbD 0 then .jgetClose d (TailV.of t) else .jget d (TailV.of t))
  | 4 => some (.sdesc d (TailV.of t))
  | _ => none

/-- The SUB values of major 0x7E with this tail length (R69). -/
def decodeTwo7E (sub : Nat) (d : BitVec 7) (t : BitVec 32) : Option Instr :=
  match sub with
  | 0 => some (.rlq d (TailV.of t))
  | 1 => some (.perfr d (TailV.of t))
  | _ => none

/-- Instructions with a tail of two halfwords: forms V, I, K, B (R68, R69). -/
def decodeTwo (op : Nat) (d : BitVec 7) (t : BitVec 32) : Option Instr :=
  match op with
  | 0x01 => some (.bra d (TailB.of t))
  | 0x02 => some (.call d (TailB.of t))
  | 0x03 => some (.jmpx d (TailV.of t))
  | 0x04 => some (.loop d (TailB.of t))
  | 0x05 => some (.fetch d (TailV.of t))
  | 0x0A => some (.plog d (TailV.of t))
  | 0x0B => some (.pmov d (TailV.of t))
  | 0x0D => some (.sysr d (TailV.of t))
  | 0x10 => some (.addV d (TailV.of t))
  | 0x11 => some (.subV d (TailV.of t))
  | 0x12 => some (.mulV d (TailV.of t))
  | 0x13 => some (.mulhV d (TailV.of t))
  | 0x14 => some (.divV d (TailV.of t))
  | 0x15 => some (.remV d (TailV.of t))
  | 0x16 => some (.andV d (TailV.of t))
  | 0x17 => some (.orV d (TailV.of t))
  | 0x18 => some (.xorV d (TailV.of t))
  | 0x19 => some (.andnV d (TailV.of t))
  | 0x1A => some (.shlV d (TailV.of t))
  | 0x1B => some (.shrV d (TailV.of t))
  | 0x1C => some (.sraV d (TailV.of t))
  | 0x1D => some (.rotV d (TailV.of t))
  | 0x1E => some (.minV d (TailV.of t))
  | 0x1F => some (.maxV d (TailV.of t))
  | 0x20 => some (.abs d (TailV.of t))
  | 0x21 => some (.neg d (TailV.of t))
  | 0x22 => some (.clz d (TailV.of t))
  | 0x23 => some (.popc d (TailV.of t))
  | 0x24 => some (.cmp d (TailV.of t))
  | 0x25 => some (.sel d (TailV.of t))
  | 0x26 => some (.addi d (TailI.of t))
  | 0x27 => some (.movi d t)
  | 0x29 => some (.lea d (TailV.of t))
  | 0x2A => some (.bext d (TailV.of t))
  | 0x2B => some (.bins d (TailV.of t))
  | 0x2C => some (.madd d (TailV.of t))
  | 0x2D => some (.doti d (TailV.of t))
  | 0x2E => some (.satn d (TailV.of t))
  | 0x2F => some (.shuf d (TailV.of t))
  | 0x30 => some (.fadd d (TailV.of t))
  | 0x31 => some (.fsub d (TailV.of t))
  | 0x32 => some (.fmul d (TailV.of t))
  | 0x33 => some (.fma d (TailV.of t))
  | 0x34 => some (.fmin d (TailV.of t))
  | 0x35 => some (.fmax d (TailV.of t))
  | 0x36 => some (.fsgn d (TailV.of t))
  | 0x37 => some (.fcmp d (TailV.of t))
  | 0x38 => some (.fcvt d (TailV.of t))
  | 0x39 => some (.frnd d (TailV.of t))
  | 0x3A => some (.fscl d (TailV.of t))
  | 0x3B => some (.fcls d (TailV.of t))
  | 0x3C => some (.frcp d (TailV.of t))
  | 0x3D => some (.frsq d (TailV.of t))
  | 0x3E => some (.fsqrt d (TailV.of t))
  | 0x3F => some (.fdiv d (TailV.of t))
  | 0x40 => some (.fexp2 d (TailV.of t))
  | 0x41 => some (.flog2 d (TailV.of t))
  | 0x42 => some (.fsin d (TailV.of t))
  | 0x43 => some (.fcos d (TailV.of t))
  | 0x44 => some (.ftanh d (TailV.of t))
  | 0x45 => some (.fred d (TailV.of t))
  | 0x46 => some (.imax d (TailV.of t))
  | 0x47 => some (.fdot d (TailV.of t))
  | 0x48 => some (if t.getLsbD 5 then .qntScl d (TailV.of t) else .qnt d (TailV.of t))
  | 0x49 => some (.dqnt d (TailV.of t))
  | 0x4A => some (.rand d (TailV.of t))
  | 0x4B => some (if t.getLsbD 6 then .ropeSet d (TailV.of t) else .rope d (TailV.of t))
  | 0x4C => some (.fpcset d (TailV.of t))
  | 0x54 => some (.movx d (TailV.of t))
  | 0x55 => some (.movxs d (TailV.of t))
  | 0x56 => some (.lnkr d (TailV.of t))
  | 0x57 => some (.lnkw d (TailV.of t))
  | 0x58 => some (if t.getLsbD 3 then .chbindOff d (TailV.of t) else .chbind d (TailV.of t))
  | 0x59 => some (.chsend d (TailV.of t))
  | 0x5A => some (.gath d (TailV.of t))
  | 0x5B => some (.scat d (TailV.of t))
  | 0x5C => some (.gennew d (TailV.of t))
  | 0x5D => some (if t.getLsbD 2 then .genqGran d (TailV.of t) else .genq d (TailV.of t))
  | 0x65 => some (.fence d (TailV.of t))
  | 0x68 => some (.fabinv d (TailV.of t))
  | 0x70 => some (.cwait d (TailI.of t))
  | 0x71 => some (.cwaitr d (TailV.of t))
  | 0x72 => some (if t.getLsbD 16 then .csigRmt d (TailI.of t) else .csig d (TailI.of t))
  | 0x73 => some (.cset d (TailI.of t))
  | 0x74 => some (.cget d (TailI.of t))
  | 0x75 => some (if t.getLsbD 0 then .ctrigOff d (TailV.of t) else .ctrig d (TailV.of t))
  | 0x76 => some (.bar d (TailV.of t))
  | 0x77 => some (.chkw d (TailV.of t))
  | 0x78 => decodeTwo78 (fld t 6 3) d t
  | 0x7A => decodeTwo7A (fld t 6 3) d t
  | 0x7B => decodeTwo7B (fld t 6 3) d t
  | 0x7C => decodeTwo7C (fld t 6 3) d t
  | 0x7D => decodeTwo7D (fld t 6 3) d t
  | 0x7E => decodeTwo7E (fld t 6 3) d t
  | _ => none

/-- The SUB values of major 0x78 with this tail length (R69). -/
def decodeFour78 (sub : Nat) (d : BitVec 7) (t : BitVec 64) : Option Instr :=
  match sub with
  | 0 => some (.get d (TailE.of t))
  | 1 => some (.put d (TailE.of t))
  | 2 => some (.tcopy d (TailE.of t))
  | 3 => some (.tgath d (TailE.of t))
  | 4 => some (.tscat d (TailE.of t))
  | 5 => some (.cfill d (TailE.of t))
  | _ => none

/-- The SUB values of major 0x79 with this tail length (R69). -/
def decodeFour79 (sub : Nat) (d : BitVec 7) (t : BitVec 64) : Option Instr :=
  match sub with
  | 0 => some (.layset d (TailE.of t))
  | 1 => some (.layget d (TailE.of t))
  | 2 => some (.laykey d (TailE.of t))
  | _ => none

/-- The SUB values of major 0x7A with this tail length (R69). -/
def decodeFour7A (sub : Nat) (d : BitVec 7) (t : BitVec 64) : Option Instr :=
  match sub with
  | 0 => some (.mma d (TailE.of t))
  | 2 => some (.wbld d (TailE.of t))
  | 4 => some (.accvt d (TailE.of t))
  | _ => none

/-- The SUB values of major 0x7B with this tail length (R69). -/
def decodeFour7B (sub : Nat) (d : BitVec 7) (t : BitVec 64) : Option Instr :=
  match sub with
  | 5 => some (.spgr d (TailE.of t))
  | 6 => some (.spgw d (TailE.of t))
  | 11 => some (.smig d (TailE.of t))
  | _ => none

/-- The SUB values of major 0x7D with this tail length (R69). -/
def decodeFour7D (sub : Nat) (d : BitVec 7) (t : BitVec 64) : Option Instr :=
  match sub with
  | 3 => some (.psort d (TailE.of t))
  | _ => none

/-- Instructions with a tail of four halfwords: forms M, Q, E (R68, R69). -/
def decodeFour (op : Nat) (d : BitVec 7) (t : BitVec 64) : Option Instr :=
  match op with
  | 0x28 => some (.movq d t)
  | 0x50 => some (.ld d (TailM.of t))
  | 0x51 => some (.st d (TailM.of t))
  | 0x52 => some (.lda d (TailM.of t))
  | 0x53 => some (.sta d (TailM.of t))
  | 0x60 => some (.ldg d (TailM.of t))
  | 0x61 => some (.stg d (TailM.of t))
  | 0x62 => some (.atom d (TailM.of t))
  | 0x63 => some (.cas d (TailM.of t))
  | 0x64 => some (.red d (TailM.of t))
  | 0x66 => some (.pref d (TailM.of t))
  | 0x67 => some (.ldnc d (TailM.of t))
  | 0x69 => some (.flushl d (TailM.of t))
  | 0x6A => some (.invl d (TailM.of t))
  | 0x6B => some (if t.getLsbD 0 then .sendLaunch d (TailE.of t) else .send d (TailE.of t))
  | 0x6C => some (.spawn d (TailE.of t))
  | 0x78 => decodeFour78 (fld t 11 8) d t
  | 0x79 => decodeFour79 (fld t 11 8) d t
  | 0x7A => decodeFour7A (fld t 11 8) d t
  | 0x7B => decodeFour7B (fld t 11 8) d t
  | 0x7D => decodeFour7D (fld t 11 8) d t
  | _ => none

/-- The Xmakel instruction of a custom-0 word (R72, R73); MK.UPRET with rs1 field x0 is the return from an upcall (R135). -/
def decodeX (f3 f7 : Nat) (r : RType) : Option Instr :=
  match f3, f7 with
  | 0, 0 => some (.mkBcast r)
  | 0, 1 => some (.mkLoose r)
  | 0, 2 => some (.mkStopped r)
  | 0, 3 => some (.mkWaitf r)
  | 0, 4 => some (.mkHaltf r)
  | 0, 5 => some (.mkLink r)
  | 1, 0 => some (.mkCtxnew r)
  | 1, 1 => some (.mkCtxfree r)
  | 1, 2 => some (.mkBind r)
  | 1, 3 => some (.mkUnbind r)
  | 1, 4 => some (.mkRunq r)
  | 1, 5 => some (if r.rs1 = 0 then .mkUpretReturn r else .mkUpret r)
  | 1, 6 => some (.mkMigr r)
  | 1, 7 => some (.mkGennew r)
  | 2, 0 => some (.mkCwait r)
  | 2, 1 => some (.mkCsig r)
  | 2, 2 => some (.mkCset r)
  | 2, 3 => some (.mkCget r)
  | 2, 4 => some (.mkEngw r)
  | 2, 5 => some (.mkEngr r)
  | 3, 0 => some (.mkShswap r)
  | 3, 1 => some (.mkFreeze r)
  | 3, 2 => some (.mkThaw r)
  | 3, 3 => some (.mkPlbw r)
  | 3, 4 => some (.mkPlbinv r)
  | 3, 5 => some (.mkDbgrd r)
  | 3, 6 => some (.mkDbgwr r)
  | _, _ => none

/-- The opcode field of a head, and its TL. -/
def headMajor (h : BitVec 16) : Nat := fld h 13 7
def headTl (h : BitVec 16) : Nat := fld h 15 14

/-- Majors that R68 reserves. -/
def reservedOp (op : Nat) : Bool :=
  [0x0E, 0x0F, 0x4D, 0x4E, 0x4F, 0x5E, 0x5F, 0x6D, 0x6E, 0x6F, 0x7F].contains op

/-- The number of SUB values that a grouped major uses (R69). -/
def subCount (op : Nat) : Option Nat :=
  match op with
  | 0x78 => some 7 | 0x79 => some 3 | 0x7A => some 5 | 0x7B => some 12 | 0x7C => some 7 | 0x7D => some 5 | 0x7E => some 2
  | _ => none

/-- The error of a head that has no instruction: SUB is read where the tail length gives it a place. -/
def headError (op tl sub : Nat) : DecodeError :=
  if reservedOp op then .reservedMajor op
  else
    match subCount op with
    | some n => if (tl = 2 ∨ tl = 3) ∧ n ≤ sub then .unusedSub op sub else .tailLength op tl
    | none => .tailLength op tl

/-- One encoded instruction decoded. -/
def decode : Code → Except DecodeError Instr
  | .zero h =>
    match (if headTl h = 0 then decodeZ (headMajor h) (h.extractLsb' 0 7) else none) with
    | some i => .ok i
    | none => .error (headError (headMajor h) (headTl h) 0)
  | .one h t =>
    match (if headTl h = 1 then decodeS (headMajor h) (h.extractLsb' 0 7) t else none) with
    | some i => .ok i
    | none => .error (headError (headMajor h) (headTl h) 0)
  | .two h t =>
    match (if headTl h = 2 then decodeTwo (headMajor h) (h.extractLsb' 0 7) t else none) with
    | some i => .ok i
    | none => .error (headError (headMajor h) (headTl h) (fld t 6 3))
  | .four h t =>
    match (if headTl h = 3 then decodeFour (headMajor h) (h.extractLsb' 0 7) t else none) with
    | some i => .ok i
    | none => .error (headError (headMajor h) (headTl h) (fld t 11 8))
  | .xm w =>
    if fld w 6 0 ≠ 0x0B then .error (.standard w)
    else
      match decodeX (fld w 14 12) (fld w 31 25) (RType.of w) with
      | some i => .ok i
      | none => .error (.custom0 w)

/-- The word of a well-formed instruction (R53, R54, R68, R69, R72); none for the steps that no code encodes. -/
def encode : Instr → Option Code
  | .nop d => some (.zero (headOf 0 0x00 d))
  | .bra d t => some (.two (headOf 2 0x01 d) t.bits)
  | .call d t => some (.two (headOf 2 0x02 d) t.bits)
  | .jmpx d t => some (.two (headOf 2 0x03 d) t.bits)
  | .loop d t => some (.two (headOf 2 0x04 d) t.bits)
  | .fetch d t => some (.two (headOf 2 0x05 d) t.bits)
  | .stop d => some (.zero (headOf 0 0x06 d))
  | .halt d => some (.zero (headOf 0 0x07 d))
  | .yield d => some (.zero (headOf 0 0x08 d))
  | .trap d => some (.zero (headOf 0 0x09 d))
  | .plog d t => some (.two (headOf 2 0x0A d) t.bits)
  | .pmov d t => some (.two (headOf 2 0x0B d) t.bits)
  | .cyc d => some (.zero (headOf 0 0x0C d))
  | .sysr d t => some (.two (headOf 2 0x0D d) t.bits)
  | .addS d t => some (.one (headOf 1 0x10 d) t.bits)
  | .addV d t => some (.two (headOf 2 0x10 d) t.bits)
  | .subS d t => some (.one (headOf 1 0x11 d) t.bits)
  | .subV d t => some (.two (headOf 2 0x11 d) t.bits)
  | .mulS d t => some (.one (headOf 1 0x12 d) t.bits)
  | .mulV d t => some (.two (headOf 2 0x12 d) t.bits)
  | .mulhS d t => some (.one (headOf 1 0x13 d) t.bits)
  | .mulhV d t => some (.two (headOf 2 0x13 d) t.bits)
  | .divS d t => some (.one (headOf 1 0x14 d) t.bits)
  | .divV d t => some (.two (headOf 2 0x14 d) t.bits)
  | .remS d t => some (.one (headOf 1 0x15 d) t.bits)
  | .remV d t => some (.two (headOf 2 0x15 d) t.bits)
  | .andS d t => some (.one (headOf 1 0x16 d) t.bits)
  | .andV d t => some (.two (headOf 2 0x16 d) t.bits)
  | .orS d t => some (.one (headOf 1 0x17 d) t.bits)
  | .orV d t => some (.two (headOf 2 0x17 d) t.bits)
  | .xorS d t => some (.one (headOf 1 0x18 d) t.bits)
  | .xorV d t => some (.two (headOf 2 0x18 d) t.bits)
  | .andnS d t => some (.one (headOf 1 0x19 d) t.bits)
  | .andnV d t => some (.two (headOf 2 0x19 d) t.bits)
  | .shlS d t => some (.one (headOf 1 0x1A d) t.bits)
  | .shlV d t => some (.two (headOf 2 0x1A d) t.bits)
  | .shrS d t => some (.one (headOf 1 0x1B d) t.bits)
  | .shrV d t => some (.two (headOf 2 0x1B d) t.bits)
  | .sraS d t => some (.one (headOf 1 0x1C d) t.bits)
  | .sraV d t => some (.two (headOf 2 0x1C d) t.bits)
  | .rotS d t => some (.one (headOf 1 0x1D d) t.bits)
  | .rotV d t => some (.two (headOf 2 0x1D d) t.bits)
  | .minS d t => some (.one (headOf 1 0x1E d) t.bits)
  | .minV d t => some (.two (headOf 2 0x1E d) t.bits)
  | .maxS d t => some (.one (headOf 1 0x1F d) t.bits)
  | .maxV d t => some (.two (headOf 2 0x1F d) t.bits)
  | .abs d t => some (.two (headOf 2 0x20 d) t.bits)
  | .neg d t => some (.two (headOf 2 0x21 d) t.bits)
  | .clz d t => some (.two (headOf 2 0x22 d) t.bits)
  | .popc d t => some (.two (headOf 2 0x23 d) t.bits)
  | .cmp d t => some (.two (headOf 2 0x24 d) t.bits)
  | .sel d t => some (.two (headOf 2 0x25 d) t.bits)
  | .addi d t => some (.two (headOf 2 0x26 d) t.bits)
  | .movi d t => some (.two (headOf 2 0x27 d) t)
  | .movq d t => some (.four (headOf 3 0x28 d) t)
  | .lea d t => some (.two (headOf 2 0x29 d) t.bits)
  | .bext d t => some (.two (headOf 2 0x2A d) t.bits)
  | .bins d t => some (.two (headOf 2 0x2B d) t.bits)
  | .madd d t => some (.two (headOf 2 0x2C d) t.bits)
  | .doti d t => some (.two (headOf 2 0x2D d) t.bits)
  | .satn d t => some (.two (headOf 2 0x2E d) t.bits)
  | .shuf d t => some (.two (headOf 2 0x2F d) t.bits)
  | .fadd d t => some (.two (headOf 2 0x30 d) t.bits)
  | .fsub d t => some (.two (headOf 2 0x31 d) t.bits)
  | .fmul d t => some (.two (headOf 2 0x32 d) t.bits)
  | .fma d t => some (.two (headOf 2 0x33 d) t.bits)
  | .fmin d t => some (.two (headOf 2 0x34 d) t.bits)
  | .fmax d t => some (.two (headOf 2 0x35 d) t.bits)
  | .fsgn d t => some (.two (headOf 2 0x36 d) t.bits)
  | .fcmp d t => some (.two (headOf 2 0x37 d) t.bits)
  | .fcvt d t => some (.two (headOf 2 0x38 d) t.bits)
  | .frnd d t => some (.two (headOf 2 0x39 d) t.bits)
  | .fscl d t => some (.two (headOf 2 0x3A d) t.bits)
  | .fcls d t => some (.two (headOf 2 0x3B d) t.bits)
  | .frcp d t => some (.two (headOf 2 0x3C d) t.bits)
  | .frsq d t => some (.two (headOf 2 0x3D d) t.bits)
  | .fsqrt d t => some (.two (headOf 2 0x3E d) t.bits)
  | .fdiv d t => some (.two (headOf 2 0x3F d) t.bits)
  | .fexp2 d t => some (.two (headOf 2 0x40 d) t.bits)
  | .flog2 d t => some (.two (headOf 2 0x41 d) t.bits)
  | .fsin d t => some (.two (headOf 2 0x42 d) t.bits)
  | .fcos d t => some (.two (headOf 2 0x43 d) t.bits)
  | .ftanh d t => some (.two (headOf 2 0x44 d) t.bits)
  | .fred d t => some (.two (headOf 2 0x45 d) t.bits)
  | .imax d t => some (.two (headOf 2 0x46 d) t.bits)
  | .fdot d t => some (.two (headOf 2 0x47 d) t.bits)
  | .qnt d t => some (.two (headOf 2 0x48 d) t.bits)
  | .qntScl d t => some (.two (headOf 2 0x48 d) t.bits)
  | .dqnt d t => some (.two (headOf 2 0x49 d) t.bits)
  | .rand d t => some (.two (headOf 2 0x4A d) t.bits)
  | .rope d t => some (.two (headOf 2 0x4B d) t.bits)
  | .ropeSet d t => some (.two (headOf 2 0x4B d) t.bits)
  | .fpcset d t => some (.two (headOf 2 0x4C d) t.bits)
  | .ld d t => some (.four (headOf 3 0x50 d) t.bits)
  | .st d t => some (.four (headOf 3 0x51 d) t.bits)
  | .lda d t => some (.four (headOf 3 0x52 d) t.bits)
  | .sta d t => some (.four (headOf 3 0x53 d) t.bits)
  | .movx d t => some (.two (headOf 2 0x54 d) t.bits)
  | .movxs d t => some (.two (headOf 2 0x55 d) t.bits)
  | .lnkr d t => some (.two (headOf 2 0x56 d) t.bits)
  | .lnkw d t => some (.two (headOf 2 0x57 d) t.bits)
  | .chbind d t => some (.two (headOf 2 0x58 d) t.bits)
  | .chbindOff d t => some (.two (headOf 2 0x58 d) t.bits)
  | .chsend d t => some (.two (headOf 2 0x59 d) t.bits)
  | .gath d t => some (.two (headOf 2 0x5A d) t.bits)
  | .scat d t => some (.two (headOf 2 0x5B d) t.bits)
  | .gennew d t => some (.two (headOf 2 0x5C d) t.bits)
  | .genq d t => some (.two (headOf 2 0x5D d) t.bits)
  | .genqGran d t => some (.two (headOf 2 0x5D d) t.bits)
  | .ldg d t => some (.four (headOf 3 0x60 d) t.bits)
  | .stg d t => some (.four (headOf 3 0x61 d) t.bits)
  | .atom d t => some (.four (headOf 3 0x62 d) t.bits)
  | .cas d t => some (.four (headOf 3 0x63 d) t.bits)
  | .red d t => some (.four (headOf 3 0x64 d) t.bits)
  | .fence d t => some (.two (headOf 2 0x65 d) t.bits)
  | .pref d t => some (.four (headOf 3 0x66 d) t.bits)
  | .ldnc d t => some (.four (headOf 3 0x67 d) t.bits)
  | .fabinv d t => some (.two (headOf 2 0x68 d) t.bits)
  | .flushl d t => some (.four (headOf 3 0x69 d) t.bits)
  | .invl d t => some (.four (headOf 3 0x6A d) t.bits)
  | .send d t => some (.four (headOf 3 0x6B d) t.bits)
  | .sendLaunch d t => some (.four (headOf 3 0x6B d) t.bits)
  | .spawn d t => some (.four (headOf 3 0x6C d) t.bits)
  | .cwait d t => some (.two (headOf 2 0x70 d) t.bits)
  | .cwaitr d t => some (.two (headOf 2 0x71 d) t.bits)
  | .csig d t => some (.two (headOf 2 0x72 d) t.bits)
  | .csigRmt d t => some (.two (headOf 2 0x72 d) t.bits)
  | .cset d t => some (.two (headOf 2 0x73 d) t.bits)
  | .cget d t => some (.two (headOf 2 0x74 d) t.bits)
  | .ctrig d t => some (.two (headOf 2 0x75 d) t.bits)
  | .ctrigOff d t => some (.two (headOf 2 0x75 d) t.bits)
  | .bar d t => some (.two (headOf 2 0x76 d) t.bits)
  | .chkw d t => some (.two (headOf 2 0x77 d) t.bits)
  | .get d t => some (.four (headOf 3 0x78 d) t.bits)
  | .put d t => some (.four (headOf 3 0x78 d) t.bits)
  | .tcopy d t => some (.four (headOf 3 0x78 d) t.bits)
  | .tgath d t => some (.four (headOf 3 0x78 d) t.bits)
  | .tscat d t => some (.four (headOf 3 0x78 d) t.bits)
  | .cfill d t => some (.four (headOf 3 0x78 d) t.bits)
  | .creplay d t => some (.two (headOf 2 0x78 d) t.bits)
  | .layset d t => some (.four (headOf 3 0x79 d) t.bits)
  | .layget d t => some (.four (headOf 3 0x79 d) t.bits)
  | .laykey d t => some (.four (headOf 3 0x79 d) t.bits)
  | .mma d t => some (.four (headOf 3 0x7A d) t.bits)
  | .mmz d t => some (.two (headOf 2 0x7A d) t.bits)
  | .wbld d t => some (.four (headOf 3 0x7A d) t.bits)
  | .wbsel d t => some (.two (headOf 2 0x7A d) t.bits)
  | .accvt d t => some (.four (headOf 3 0x7A d) t.bits)
  | .sfork d t => some (.two (headOf 2 0x7B d) t.bits)
  | .sret d t => some (.two (headOf 2 0x7B d) t.bits)
  | .sprune d t => some (.two (headOf 2 0x7B d) t.bits)
  | .sadv d t => some (.two (headOf 2 0x7B d) t.bits)
  | .sactPush d t => some (.two (headOf 2 0x7B d) t.bits)
  | .sactPop d t => some (.two (headOf 2 0x7B d) t.bits)
  | .sactPeek d t => some (.two (headOf 2 0x7B d) t.bits)
  | .spgr d t => some (.four (headOf 3 0x7B d) t.bits)
  | .spgw d t => some (.four (headOf 3 0x7B d) t.bits)
  | .scommitBegin d t => some (.two (headOf 2 0x7B d) t.bits)
  | .scommitCommit d t => some (.two (headOf 2 0x7B d) t.bits)
  | .scommitDiscard d t => some (.two (headOf 2 0x7B d) t.bits)
  | .sstat d t => some (.two (headOf 2 0x7B d) t.bits)
  | .ssetBind d t => some (.two (headOf 2 0x7B d) t.bits)
  | .ssetPrio d t => some (.two (headOf 2 0x7B d) t.bits)
  | .ssetModel d t => some (.two (headOf 2 0x7B d) t.bits)
  | .ssetJoin d t => some (.two (headOf 2 0x7B d) t.bits)
  | .ssetRun d t => some (.two (headOf 2 0x7B d) t.bits)
  | .ssetRng d t => some (.two (headOf 2 0x7B d) t.bits)
  | .ssetQueue d t => some (.two (headOf 2 0x7B d) t.bits)
  | .ssetPen d t => some (.two (headOf 2 0x7B d) t.bits)
  | .shor d t => some (.two (headOf 2 0x7B d) t.bits)
  | .smig d t => some (.four (headOf 3 0x7B d) t.bits)
  | .ttreset d t => some (.two (headOf 2 0x7C d) t.bits)
  | .ttadd d t => some (.two (headOf 2 0x7C d) t.bits)
  | .ttmask d t => some (.two (headOf 2 0x7C d) t.bits)
  | .ttpos d t => some (.two (headOf 2 0x7C d) t.bits)
  | .ttposHdr d t => some (.two (headOf 2 0x7C d) t.bits)
  | .ttanc d t => some (.two (headOf 2 0x7C d) t.bits)
  | .ttpath d t => some (.two (headOf 2 0x7C d) t.bits)
  | .ttprune d t => some (.two (headOf 2 0x7C d) t.bits)
  | .jopen d t => some (.two (headOf 2 0x7D d) t.bits)
  | .jput d t => some (.two (headOf 2 0x7D d) t.bits)
  | .jget d t => some (.two (headOf 2 0x7D d) t.bits)
  | .jgetClose d t => some (.two (headOf 2 0x7D d) t.bits)
  | .psort d t => some (.four (headOf 3 0x7D d) t.bits)
  | .sdesc d t => some (.two (headOf 2 0x7D d) t.bits)
  | .rlq d t => some (.two (headOf 2 0x7E d) t.bits)
  | .perfr d t => some (.two (headOf 2 0x7E d) t.bits)
  | .mkBcast r => some (.xm (xmBits 0 0 r))
  | .mkLoose r => some (.xm (xmBits 0 1 r))
  | .mkStopped r => some (.xm (xmBits 0 2 r))
  | .mkWaitf r => some (.xm (xmBits 0 3 r))
  | .mkHaltf r => some (.xm (xmBits 0 4 r))
  | .mkLink r => some (.xm (xmBits 0 5 r))
  | .mkCtxnew r => some (.xm (xmBits 1 0 r))
  | .mkCtxfree r => some (.xm (xmBits 1 1 r))
  | .mkBind r => some (.xm (xmBits 1 2 r))
  | .mkUnbind r => some (.xm (xmBits 1 3 r))
  | .mkRunq r => some (.xm (xmBits 1 4 r))
  | .mkUpret r => some (.xm (xmBits 1 5 r))
  | .mkUpretReturn r => some (.xm (xmBits 1 5 r))
  | .mkMigr r => some (.xm (xmBits 1 6 r))
  | .mkGennew r => some (.xm (xmBits 1 7 r))
  | .mkCwait r => some (.xm (xmBits 2 0 r))
  | .mkCsig r => some (.xm (xmBits 2 1 r))
  | .mkCset r => some (.xm (xmBits 2 2 r))
  | .mkCget r => some (.xm (xmBits 2 3 r))
  | .mkEngw r => some (.xm (xmBits 2 4 r))
  | .mkEngr r => some (.xm (xmBits 2 5 r))
  | .mkShswap r => some (.xm (xmBits 3 0 r))
  | .mkFreeze r => some (.xm (xmBits 3 1 r))
  | .mkThaw r => some (.xm (xmBits 3 2 r))
  | .mkPlbw r => some (.xm (xmBits 3 3 r))
  | .mkPlbinv r => some (.xm (xmBits 3 4 r))
  | .mkDbgrd r => some (.xm (xmBits 3 5 r))
  | .mkDbgwr r => some (.xm (xmBits 3 6 r))
  | .contextBind _ _ => none
  | .agingStep _ _ _ => none
  | .messageArrival _ => none
  | .messageCreate _ _ => none
  | .messageSend _ _ _ => none
  | .channelPacketArrival _ => none
  | .mailboxDelivery _ _ => none
  | .localInterrupt _ _ => none
  | .upcallEntry _ _ => none
  | .loadRefresh _ _ => none
  | .sliceCopy _ _ => none
  | .balanceMove _ _ => none
  | .contextMigrateArrival _ => none
  | .shearerScan _ _ _ => none
  | .shearForcedRate _ _ => none
  | .regionRenew _ _ _ _ _ => none
  | .bankWake _ _ => none
  | .commandCapture _ _ _ => none
  | .commandDispatch _ _ _ => none
  | .chunkLand _ _ _ _ _ => none
  | .completionMessage _ _ _ => none
  | .commandFail _ _ _ => none
  | .cxlNotPresent _ _ _ => none
  | .triggerTaskCreate _ _ _ => none
  | .counterSignalPacket _ => none
  | .counterWindowRead _ => none
  | .counterWindowSet _ _ => none
  | .counterWindowSignal _ _ => none
  | .gangTimeout _ _ _ => none
  | .gangStart _ _ => none
  | .mmaStart _ _ => none
  | .mmaGroupLand _ _ => none
  | .mmaComplete _ _ => none
  | .mmzStart _ _ => none
  | .mmzComplete _ _ => none
  | .weightReplayComplete _ _ _ _ => none
  | .psortComplete _ _ _ => none
  | .storePerform _ _ => none
  | .homeWrite _ _ => none
  | .homeRead _ => none
  | .invalidation _ _ => none
  | .keeperPost _ => none
  | .keeperInvalidate _ => none
  | .keeperComplete _ => none
  | .proxyMiss _ _ => none
  | .cacheFill _ _ _ => none
  | .atomicAtHome _ => none
  | .loadReply _ => none
  | .remotePaddockAccess _ => none
  | .fabricCacheFill _ _ => none
  | .hostAtomicCompletion _ _ _ => none
  | .plbRefill _ => none
  | .tableWalk _ => none
  | .shootdown _ _ => none
  | .shootdownComplete _ => none
  | .sliceExpiry _ _ => none
  | .preemptOrder _ _ => none
  | .shswapExchange _ _ => none
  | .preemptLate _ _ => none
  | .copyOut _ _ => none
  | .copyIn _ _ _ _ => none
  | .freezePacket _ => none
  | .fthawWrite _ _ => none
  | .launchPacket _ _ _ => none
  | .gloadPacket _ _ _ => none
  | .replayPacket _ _ _ => none
  | .patchPacket _ _ _ => none
  | .registerPacket _ _ _ => none
  | .sharePlace _ _ _ => none
  | .taskCreate _ _ _ => none
  | .launchComplete _ => none
  | .replayStart _ _ => none
  | .droveDispatch _ _ => none
  | .residencyWrite _ _ _ => none
  | .frameCascade _ => none
  | .tierMove _ _ _ _ _ _ => none
  | .migrationPull _ => none
  | .migrationSwitch _ => none
  | .joinArrival _ => none
  | .childResultArrival _ => none
  | .descentStep _ => none
  | .joinPrune _ => none
  | .packetRoute _ _ => none
  | .evictionNotice _ => none
  | .endToEndAck _ => none
  | .classAging _ => none
  | .flitReplay _ _ _ => none
  | .laneRetrain _ _ _ => none
  | .linkUp _ => none
  | .linkDown _ => none
  | .bar4Write _ _ _ _ _ => none
  | .bar4Read _ _ _ _ => none
  | .configRequest _ _ => none
  | .postRecord _ => none
  | .pbctlWrite _ => none
  | .partitionWrite _ _ _ => none
  | .mkSplitWrite _ => none
  | .mkSlicePack _ => none
  | .registerWrite _ _ => none
  | .hbmChannelSpare _ _ => none
  | .rateWindow _ => none
  | .powerMeasure _ _ _ => none
  | .thermalTrip _ => none
  | .supplyFault => none
  | .moduleReset => none
  | .mctpTelemetry _ => none
  | .mctpAttestation _ => none
  | .mctpImageStage _ => none
  | .mctpKeyLoad _ => none
  | .mctpKeyClear _ => none
  | .mctpDebugAuth _ => none
  | .mctpDebugRevoke _ => none
  | .mctpControl _ => none
  | .reservedOpcode => none
  | .illegalLine => none
  | .custom0Reserved _ => none
  | .hartMemoryAccess _ => none
  | .hartFence _ => none
  | .reservedPacketType _ _ _ => none
  | .coreFailure _ _ => none
  | .dieReset _ => none

/-- The code of head `i` of a line (R46). -/
def lineCode (l : Line) (i : Nat) : Code :=
  let h := BitVec.ofNat 16 (half l i)
  match headTl h with
  | 0 => .zero h
  | 1 => .one h (BitVec.ofNat 16 (lineTail l i))
  | 2 => .two h (BitVec.ofNat 32 (lineTail l i))
  | _ => .four h (BitVec.ofNat 64 (lineTail l i))

/-- A line that holds one instruction (R45, R46), END clear. -/
def lineOf : Code → Line
  | .zero h => BitVec.ofNat 512 (0x0800 + h.toNat * 2 ^ 16)
  | .one h t => BitVec.ofNat 512 (0x0800 + h.toNat * 2 ^ 16 + t.toNat * 2 ^ (16 * 31))
  | .two h t => BitVec.ofNat 512 (0x0800 + h.toNat * 2 ^ 16 + t.toNat * 2 ^ (16 * 30))
  | .four h t => BitVec.ofNat 512 (0x0800 + h.toNat * 2 ^ 16 + t.toNat * 2 ^ (16 * 28))
  | .xm _ => 0

/-- The code that a word of the opcode table's numbering stands for (log entry 6): a head alone in 16 bits; in 32 bits a
custom-0 word, whose bits [31:30] and opcode say so, or a head in [31:16] with its form S tail in [15:0]. -/
def tableCode (nbits w : Nat) : Option Code :=
  if nbits = 16 then some (.zero (BitVec.ofNat 16 w))
  else if nbits = 32 then
    some (if w % 128 = 0x0B ∧ w / 2 ^ 30 % 4 = 0 then .xm (BitVec.ofNat 32 w)
          else .one (BitVec.ofNat 16 (w / 65536)) (BitVec.ofNat 16 w))
  else none

/-- The instruction the decoder reads from a table word. -/
def decodeTableWord (nbits w : Nat) : Option Instr :=
  match tableCode nbits w with
  | none => none
  | some c =>
    match decode c with
    | .ok i => some i
    | .error _ => none

end Sys2Proof
end

