-- ==== Sys2Proof/Machine/Fetch.lean ====
section
/-! DEFINITION. Fetching: a slot's line and the instruction at its head index (R45 to R52, R71), and the hart's word (R120, R121). -/

namespace Sys2Proof.Machine

/-! ## Slots -/

/-- What a slot's fetch gives: an instruction to execute, or the state after the turn. -/
inductive Fetched where
  | run (i : Instr) (s : State)
  | done (s : State)
  deriving Repr

/-- The line a slot executes: as already fetched, else through the fabric cache, overlaid (R52, R79). -/
def slotLine (s : State) (e : Env) : Res (State × Line) :=
  let va := e.ip.toNat / 64 * 64
  let fetch : Res (State × Line) := do
    let l ← codeLine s (agentOf e) va
    let l := overlay s (s.ctx e).launch va l
    let s := endAccess s (agentOf e)
    pure (s.setSlotOf e { s.slotOf e with line := some (va, l) }, l)
  match (s.slotOf e).line with
  | some (v, l) => if v = va then .ok (s, l) else fetch
  | none => fetch

/-- The instruction at a head index of a line; RESERVED_OPCODE where the bits are none (R70). -/
def lineInstr (l : Line) (i : Nat) : Instr :=
  match decode (lineCode l i) with
  | .ok i => i
  | .error _ => .reservedOpcode

/-- A slot's fetch at IP: the head index, IP[63:57], the line's rights and translation, then the line's form (R47 to R49, R71).
A padding line reached by falling through is skipped (R47). -/
def slotFetch (s : State) (e : Env) : Fetched :=
  let h := fld e.ip 5 0
  if h = 0 ∨ 31 ≤ h then .run .illegalLine s
  else if 2 ^ 57 ≤ e.ip.toNat then .done (takeFault s e { code := prot, faddr := some e.ip.toNat, acc := 4 })
  else
    match slotLine s e with
    | .error (.fault f) => .done (takeFault s e f)
    | .error (.stall s') => .done (s'.setSlotOf e { s'.slotOf e with stalled := true })
    | .error _ => .done s
    | .ok (s', l) =>
      if lineNH l = 0 ∧ (s.ctx e).fell then
        .done (s'.setCtx e { s'.ctx e with ip := BitVec.ofNat 64 ((e.ip.toNat / 64 * 64 + 64) % 2 ^ 57 + 1) })
      else if lineOk l ∧ h ≤ lineNH l then .run (lineInstr l h) s'
      else .run .illegalLine s'

/-! ## The hart -/

/-- The 2-byte parcel of hart code at an address: the window (R120), else through the fabric cache with the X right. -/
def hartParcel (s : State) (d c va : Nat) : Except HExit Nat :=
  if va < 0x2000 then .ok (saveRead (s.act d c) va 2)
  else if va < 0x100000 then .error (.exc 1 (BitVec.ofNat 64 va))
  else
    match codeLine s (.hart d c) va with
    | .ok l => .ok (half l (va % 64 / 2))
    | .error (.fault f) => .error (.exc (if f.code = pageFault then 12 else 1) (BitVec.ofNat 64 va))
    | .error (.stall s') => .error (.stall s')
    | .error _ => .error (.stall s)

/-- The word at the hart's pc: two parcels, or one where its low bits say a compressed instruction. -/
def hartWord (s : State) (d c : Nat) : Except HExit (BitVec 32) := do
  let pc := (s.hart d c).pc.toNat
  let lo ← hartParcel s d c pc
  if lo % 4 ≠ 3 then pure (BitVec.ofNat 32 lo)
  else
    let hi ← hartParcel s d c (pc + 2)
    pure (BitVec.ofNat 32 (lo + 65536 * hi))

/-- The AMO of a funct5 (the standard's encoding; log entry 5). -/
def amoOf (f5 : Nat) : Option HartOp :=
  match f5 with
  | 0 => some (.amo .add) | 1 => some (.amo .swap) | 2 => some .lr | 3 => some .sc | 4 => some (.amo .xor)
  | 8 => some (.amo .or) | 12 => some (.amo .and) | 16 => some (.amo .min) | 20 => some (.amo .max)
  | 24 => some (.amo .minu) | 28 => some (.amo .maxu) | _ => none

/-- A RISC-V memory access of the hart (R120), when a word is one: LOAD, LOAD-FP, STORE, STORE-FP, AMO. -/
def hartAccessOf (w : BitVec 32) : Option HartAccess :=
  let f3 := fld w 14 12
  let rd := w.extractLsb' 7 5
  let rs1 := w.extractLsb' 15 5
  let rs2 := w.extractLsb' 20 5
  let sz := BitVec.ofNat 2 f3
  let immS : BitVec 12 := w.extractLsb' 25 7 ++ w.extractLsb' 7 5
  match fld w 6 0 with
  | 0x03 => if f3 = 7 then none else
    some { op := .load (decide (4 ≤ f3)), fp := false, rd := rd, rs1 := rs1, rs2 := 0, imm := w.extractLsb' 20 12, size := sz,
           aq := false, rl := false }
  | 0x07 => if f3 = 1 ∨ f3 = 2 ∨ f3 = 3 then
    some { op := .load true, fp := true, rd := rd, rs1 := rs1, rs2 := 0, imm := w.extractLsb' 20 12, size := sz,
           aq := false, rl := false } else none
  | 0x23 => if 3 < f3 then none else
    some { op := .store, fp := false, rd := 0, rs1 := rs1, rs2 := rs2, imm := immS, size := sz, aq := false, rl := false }
  | 0x27 => if f3 = 1 ∨ f3 = 2 ∨ f3 = 3 then
    some { op := .store, fp := true, rd := 0, rs1 := rs1, rs2 := rs2, imm := immS, size := sz, aq := false, rl := false }
    else none
  | 0x2F => if f3 = 2 ∨ f3 = 3 then
    (amoOf (fld w 31 27)).map (fun op =>
      { op := op, fp := false, rd := rd, rs1 := rs1, rs2 := rs2, imm := 0, size := sz, aq := bit w 26, rl := bit w 25 })
    else none
  | _ => none

/-- A RISC-V fence (R121), when a word is one. -/
def hartFenceOf (w : BitVec 32) : Option HartFence :=
  if fld w 6 0 = 0x0F then
    (if fld w 14 12 = 1 then some .fenceI
     else if fld w 14 12 = 0 then some (if fld w 31 28 = 8 then .fenceTso else .fence) else none)
  else none

/-- The instruction a hart word is: Xmakel, custom-0 reserved, a memory access or a fence; none for the rest of RV64GCV. -/
def hartInstr (w : BitVec 32) : Option Instr :=
  match decode (.xm w) with
  | .ok i => some i
  | .error (.custom0 _) => some (.custom0Reserved w)
  | .error _ =>
    match hartAccessOf w with
    | some x => some (.hartMemoryAccess x)
    | none => (hartFenceOf w).map .hartFence

end Sys2Proof.Machine
end

