-- ==== Sys2Proof/Machine/Recent.lean ====
section
/-! DEFINITION. Which PLB entries an instruction matches, and the order of their last matches (R400, R401). -/

namespace Sys2Proof.Machine

/-- An access of a domain matches the PLB: entry 16 to 63 becomes the newest. A stalled access, tried again, is no new match, but it is the
first of an entry installed meanwhile. -/
def Core.matched (dom : BitVec 12) (again : Bool) (k : Core) (va : Nat) : Core :=
  match plbFind k dom va with
  | some (n, _) =>
    if n < 16 ∨ (again ∧ k.plbUse.contains n) then k
    else { k with plbUse := n :: k.plbUse.filter (fun j => decide (j ≠ n)) }
  | none => k

/-- The matches of an agent's accesses, in order. -/
def State.matched (s : State) (a : Agent) (again : Bool) (vas : List Nat) : State :=
  if vas.isEmpty then s
  else s.setCore a.die a.core (vas.foldl (Core.matched (s.domOf a) again) (s.core a.die a.core))

/-- The pages of the commands that an outcome has placed in a post queue. -/
def placedPages (a : SetState) (d c : Nat) : Host.Outcome State Fault Refusal → List Nat
  | .next t =>
    ((t.act d c).post.filter (fun p => decide (tfind a.post p.1 ≠ some p.2))).flatMap (fun p =>
      [p.2.src, p.2.dst].flatMap (fun w => match w with
        | some w => if w.space = 3 then w.pages.map (fun q => q.1 * 65536) else []
        | none => []))
  | _ => []

/-- The effective address of a form M access, and its enabled pieces. -/
def mVas (a : SetState) (ix : Nat) (t : TailM) (one : Bool) : List Nat :=
  match mEa a ix t with
  | .ok ea => if one then (if mOn a (a.ctx ix) t 0 then [ea] else []) else (mEnabled a (a.ctx ix) t).map (fun k => ea + 16 * k)
  | .error _ => []

/-- The addresses whose rights a context's instruction checks. -/
def accessVas (i : Instr) (s : State) (e : Env) : List Nat :=
  let a := s.act e.d e.c
  let w := fun (r : BitVec 7) => regPeek a e.ix r.toNat
  match i with
  | .ldg _ t | .ldnc _ t | .stg _ t | .red _ t => mVas a e.ix t false
  | .atom _ t | .cas _ t | .pref _ t | .flushl _ t | .invl _ t => mVas a e.ix t true
  | .sendLaunch _ t => (List.range 16).map (fun k => fld (w t.b) 56 0 / 16 * 16 + 16 * k)
  | .laykey _ t =>
    let x := recWalk (a.layout t.l.toNat).bits t.l.toNat
    if x.space = 3 then pagesOf x.lo x.len else []
  | .sfork _ t => if fld (w t.c) 127 64 = 0 then [] else pagesOf (fld (w t.c) 127 64) (64 * 2 ^ fld (w t.c) 63 60)
  | .ssetQueue _ t => if fld (w t.c) 127 64 = 0 then [] else pagesOf (fld (w t.c) 127 64) (64 * 2 ^ fld (w t.c) 63 60)
  | .jopen _ t => if fld (w t.c) 63 0 = 0 then [] else [fld (w t.c) 63 0]
  | .smig _ t => [fld (w t.c) 127 64]
  | .get _ _ | .put _ _ | .tcopy _ _ | .tgath _ _ | .tscat _ _ | .cfill _ _ | .wbld _ _ | .accvt _ _ | .mma _ _ =>
    placedPages a e.d e.c (exec i s)
  | _ => []

/-- The line a slot's turn fetches: none when it holds its line. -/
def fetchVas (s : State) (e : Env) : List Nat :=
  match (s.slotOf e).line with
  | some (v, _) => if v = e.ip.toNat / 64 * 64 then [] else [e.ip.toNat / 64 * 64]
  | none => [e.ip.toNat / 64 * 64]

/-- The addresses outside the window that a hart's turn checks: its word, and the access the word is. -/
def hartVas (s : State) (d c : Nat) : List Nat :=
  let h := s.hart d c
  let pc := h.pc.toNat
  let data := match hartWord s d c with
    | .ok w =>
      match hartInstr w with
      | some (.hartMemoryAccess x) => [(x.addr h).toNat]
      | some (.mkBcast r) => [(h.xr r.rs1.toNat).toNat]
      | some (.mkEngw r) => placedPages (s.act d c) d c (exec (.mkEngw r) s)
      | _ => []
    | .error _ => []
  ([pc, pc + 2] ++ data).filter (fun va => decide (0x100000 ≤ va))

end Sys2Proof.Machine
end

