-- ==== Sys2Proof/Machine/Compressed.lean ====
section
/-! DEFINITION. The standard's division, and the compressed instructions of the hart (RV64GC, R119): the 32-bit word that a 16-bit
parcel stands for. The encoding
is the RISC-V standard's (log entry 5). -/

namespace Sys2Proof.Machine

/-- DIV and REM of `n`-bit signed operands: by zero, all ones and the dividend. -/
def rvDiv (n a b : Nat) : Int := if b % 2 ^ n = 0 then -1 else (sext n a).tdiv (sext n b)
def rvRem (n a b : Nat) : Int := if b % 2 ^ n = 0 then sext n a else (sext n a).tmod (sext n b)
def rvDivu (n a b : Nat) : Nat := if b % 2 ^ n = 0 then 2 ^ n - 1 else a % 2 ^ n / (b % 2 ^ n)
def rvRemu (n a b : Nat) : Nat := if b % 2 ^ n = 0 then a % 2 ^ n else a % 2 ^ n % (b % 2 ^ n)

/-- Words of the standard's formats from their fields; immediates modulo their width. -/
def rvI (op f3 rd rs1 imm : Nat) : Nat := imm % 4096 * 2 ^ 20 + rs1 * 2 ^ 15 + f3 * 2 ^ 12 + rd * 2 ^ 7 + op
def rvR (op f3 f7 rd rs1 rs2 : Nat) : Nat := f7 * 2 ^ 25 + rs2 * 2 ^ 20 + rs1 * 2 ^ 15 + f3 * 2 ^ 12 + rd * 2 ^ 7 + op
def rvS (op f3 rs1 rs2 imm : Nat) : Nat :=
  imm % 4096 / 32 * 2 ^ 25 + rs2 * 2 ^ 20 + rs1 * 2 ^ 15 + f3 * 2 ^ 12 + imm % 32 * 2 ^ 7 + op
def rvB (f3 rs1 imm : Nat) : Nat :=
  imm / 4096 % 2 * 2 ^ 31 + imm / 32 % 64 * 2 ^ 25 + rs1 * 2 ^ 15 + f3 * 2 ^ 12 + imm / 2 % 16 * 2 ^ 8 + imm / 2048 % 2 * 2 ^ 7 + 0x63
def rvJ (rd imm : Nat) : Nat :=
  imm / 2 ^ 20 % 2 * 2 ^ 31 + imm / 2 % 1024 * 2 ^ 21 + imm / 2048 % 2 * 2 ^ 20 + imm / 4096 % 256 * 2 ^ 12 + rd * 2 ^ 7 + 0x6F

/-- An `n`-bit immediate, sign-extended and taken modulo 2^21. -/
def rvcSext (n x : Nat) : Nat := wrap 21 (sext n x)

/-- Bits `[hi:lo]` of a parcel, moved to bit `at_`. -/
def cb (w hi lo at_ : Nat) : Nat := w / 2 ^ lo % 2 ^ (hi + 1 - lo) * 2 ^ at_

/-- Quadrant 0: stack addresses, loads and stores by two of x8 to x15. -/
def rvcQ0 (w f3 : Nat) : Option Nat :=
  let rd := 8 + cb w 4 2 0
  let rs := 8 + cb w 9 7 0
  let d := cb w 12 10 3 + cb w 6 5 6
  let l := cb w 12 10 3 + cb w 6 6 2 + cb w 5 5 6
  match f3 with
  | 0 =>
    let i := cb w 12 11 4 + cb w 10 7 6 + cb w 6 6 2 + cb w 5 5 3
    if i = 0 then none else some (rvI 0x13 0 rd 2 i)
  | 1 => some (rvI 0x07 3 rd rs d)
  | 2 => some (rvI 0x03 2 rd rs l)
  | 3 => some (rvI 0x03 3 rd rs d)
  | 5 => some (rvS 0x27 3 rs rd d)
  | 6 => some (rvS 0x23 2 rs rd l)
  | 7 => some (rvS 0x23 3 rs rd d)
  | _ => none

/-- Quadrant 1: immediates, arithmetic, jumps and branches. -/
def rvcQ1 (w f3 : Nat) : Option Nat :=
  let r := cb w 11 7 0
  let rd := 8 + cb w 9 7 0
  let rs2 := 8 + cb w 4 2 0
  let u := cb w 12 12 5 + cb w 6 2 0
  let i := rvcSext 6 u
  match f3 with
  | 0 => some (rvI 0x13 0 r r i)
  | 1 => if r = 0 then none else some (rvI 0x1B 0 r r i)
  | 2 => some (rvI 0x13 0 r 0 i)
  | 3 =>
    if u = 0 then none
    else if r = 2 then some (rvI 0x13 0 2 2 (rvcSext 10 (cb w 12 12 9 + cb w 6 6 4 + cb w 5 5 6 + cb w 4 3 7 + cb w 2 2 5)))
    else some (i % 2 ^ 20 * 2 ^ 12 + r * 2 ^ 7 + 0x37)
  | 4 =>
    match cb w 11 10 0 with
    | 0 => some (rvI 0x13 5 rd rd u)
    | 1 => some (rvI 0x13 5 rd rd (0x400 + u))
    | 2 => some (rvI 0x13 7 rd rd i)
    | _ =>
      match cb w 12 12 0, cb w 6 5 0 with
      | 0, 0 => some (rvR 0x33 0 0x20 rd rd rs2)
      | 0, 1 => some (rvR 0x33 4 0 rd rd rs2)
      | 0, 2 => some (rvR 0x33 6 0 rd rd rs2)
      | 0, _ => some (rvR 0x33 7 0 rd rd rs2)
      | _, 0 => some (rvR 0x3B 0 0x20 rd rd rs2)
      | _, 1 => some (rvR 0x3B 0 0 rd rd rs2)
      | _, _ => none
  | 5 =>
    some (rvJ 0 (rvcSext 12 (cb w 12 12 11 + cb w 11 11 4 + cb w 10 9 8 + cb w 8 8 10 + cb w 7 7 6 + cb w 6 6 7 + cb w 5 3 1 + cb w 2 2 5)))
  | _ => some (rvB (f3 - 6) rd (rvcSext 9 (cb w 12 12 8 + cb w 11 10 3 + cb w 6 5 6 + cb w 4 3 1 + cb w 2 2 5)))

/-- Quadrant 2: shifts, stack loads and stores, register jumps, moves and sums. -/
def rvcQ2 (w f3 : Nat) : Option Nat :=
  let r := cb w 11 7 0
  let rs2 := cb w 6 2 0
  let d := cb w 12 12 5 + cb w 6 5 3 + cb w 4 2 6
  let sd := cb w 12 10 3 + cb w 9 7 6
  match f3 with
  | 0 => some (rvI 0x13 1 r r (cb w 12 12 5 + rs2))
  | 1 => some (rvI 0x07 3 r 2 d)
  | 2 => if r = 0 then none else some (rvI 0x03 2 r 2 (cb w 12 12 5 + cb w 6 4 2 + cb w 3 2 6))
  | 3 => if r = 0 then none else some (rvI 0x03 3 r 2 d)
  | 4 =>
    if cb w 12 12 0 = 0 then
      (if rs2 ≠ 0 then some (rvR 0x33 0 0 r 0 rs2) else if r = 0 then none else some (rvI 0x67 0 0 r 0))
    else if rs2 ≠ 0 then some (rvR 0x33 0 0 r r rs2)
    else if r = 0 then some 0x00100073
    else some (rvI 0x67 0 1 r 0)
  | 5 => some (rvS 0x27 3 2 rs2 sd)
  | 6 => some (rvS 0x23 2 2 rs2 (cb w 12 9 2 + cb w 8 7 6))
  | _ => some (rvS 0x23 3 2 rs2 sd)

/-- The 32-bit word of a compressed instruction; none for a reserved parcel. -/
def rvcExpand (w : Nat) : Option (BitVec 32) :=
  let f3 := w / 2 ^ 13 % 8
  (match w % 4 with
   | 0 => rvcQ0 w f3
   | 1 => rvcQ1 w f3
   | 2 => rvcQ2 w f3
   | _ => none).map (BitVec.ofNat 32)

end Sys2Proof.Machine
end

