-- ==== Sys2Proof/Machine/HartFloat.lean ====
section
/-! DEFINITION. The hart's scalar floating-point instructions: F, D and Zfh of the profile R119. The encodings and effects are the
RISC-V standard's (log entry 5), the arithmetic IEEE 754-2019's (R3). -/

namespace Sys2Proof.Machine

/-! ## Formats, registers, rounding modes -/

/-- The format of an fmt field: S, D, H; there is no Q. -/
def rvFmt (fmt : Nat) : Option Fmt := fmtOf (match fmt with | 0 => 0x09 | 1 => 0x08 | 2 => 0x0A | _ => 0xFF)

/-- Bits of a value in an f register: a narrower value that is not boxed in ones reads as the canonical NaN. -/
def unboxF (f : Fmt) (v : W64) : Nat :=
  if f.w = 64 ∨ v.toNat / 2 ^ f.w = 2 ^ (64 - f.w) - 1 then v.toNat % 2 ^ f.w else canonNan f

def Hart.fbits (h : Hart) (f : Fmt) (r : Nat) : Nat := unboxF f (h.fr r)
def Hart.fval (h : Hart) (f : Fmt) (r : Nat) : FVal := decodeF f (h.fbits f r)

/-- The rounding mode of an rm field, 7 naming frm: a mode of R31, or none for a reserved one. -/
def rvMode (h : Hart) (rm : Nat) : Option Nat :=
  match (if rm = 7 then fld h.fcsr 7 5 else rm) with
  | 0 => some rne
  | 1 => some rtz
  | 2 => some rdn
  | 3 => some rup
  | 4 => some rna
  | _ => none

/-- Flags raised are or-ed into fcsr; FS becomes dirty. -/
def Hart.raise (h : Hart) (fl : Nat) : Hart :=
  if fl = 0 then h
  else { h with fcsr := h.fcsr ||| BitVec.ofNat 64 (fl % 32), mstatus := BitVec.ofNat 64 (putFld h.mstatus.toNat 13 2 3) }

/-- A result goes to an f register with its flags. -/
def Hart.putF (h : Hart) (f : Fmt) (rd : Nat) (r : Nat × Nat) : Hart := (h.setF rd (boxF (f.w / 8) r.1)).raise r.2

/-! ## Operations on bits -/

/-- One rounding of an exact value, with the flags found so far. -/
def rvRound (f : Fmt) (mode : Nat) (r : FVal × Nat) : Nat × Nat :=
  let q := roundVal f { mode := mode } r.1
  (q.1, q.2 ||| r.2)

/-- FSGNJ, FSGNJN, FSGNJX. -/
def rvSgnj (f : Fmt) (op a b : Nat) : Nat :=
  let s := 2 ^ (f.w - 1)
  let n := b / s % 2
  let n := match op with | 0 => n | 1 => 1 - n | _ => (n + a / s) % 2
  a % s + n * s

/-- FMIN and FMAX: the number when one operand is a NaN; -0 below +0. -/
def rvMinMax (f : Fmt) (max : Bool) (a b : Nat) : Nat × Nat :=
  let x := decodeF f a
  let y := decodeF f b
  let fl := if x.isSnan || y.isSnan then flNV else 0
  let r :=
    if x.isNan && y.isNan then canonNan f
    else if x.isNan then b
    else if y.isNan then a
    else
      match cmpF x y with
      | some .lt => if max then b else a
      | some .gt => if max then a else b
      | _ => if x.sign = max then b else a
  (r, fl)

/-- FEQ 2, FLT 1, FLE 0: FEQ raises NV for a signalling NaN alone. -/
def rvCmp (f : Fmt) (op a b : Nat) : Bool × Nat :=
  let x := decodeF f a
  let y := decodeF f b
  let nv := if op = 2 then x.isSnan || y.isSnan else x.isNan || y.isNan
  let r := match cmpF x y with
    | some .eq => decide (op ≠ 1)
    | some .lt => decide (op ≠ 2)
    | _ => false
  (r, if nv then flNV else 0)

/-- FCLASS: the bit of a value's class. -/
def rvClass (f : Fmt) (a : Nat) : Nat :=
  match decodeF f a with
  | .nan s => if s then 2 ^ 8 else 2 ^ 9
  | .inf n => if n then 1 else 2 ^ 7
  | .fin n m _ =>
    if m = 0 then (if n then 2 ^ 3 else 2 ^ 4)
    else if m < 2 ^ f.mw then (if n then 2 ^ 2 else 2 ^ 5)
    else if n then 2 else 2 ^ 6

/-- To an integer of `w` bits: a NaN gives the greatest, a value outside the nearest end, both with NV. -/
def rvToInt (w : Nat) (signed : Bool) (mode : Nat) (x : FVal) : Nat × Nat :=
  match x with
  | .nan _ => (if signed then 2 ^ (w - 1) - 1 else 2 ^ w - 1, flNV)
  | x => toInt w signed { mode := mode } x

/-- From an integer. -/
def rvFromInt (f : Fmt) (mode : Nat) (x : Int) : Nat × Nat := roundF f { mode := mode } (decide (x < 0)) x.natAbs 0 false

/-! ## Instructions -/

/-- FMADD 0, FMSUB 1, FNMSUB 2, FNMADD 3: the product of `x` and `y`, or its negation, plus or minus `z`. -/
def rvFma (f : Fmt) (mode op : Nat) (x y z : FVal) : Nat × Nat :=
  let x := if 2 ≤ op then x.neg else x
  let z := if op = 1 ∨ op = 3 then z.neg else z
  rvRound f mode (fmaF mode x y z)

/-- Width and sign of an integer conversion by the rs2 field. -/
def rvIntKind (k : Nat) : Nat × Bool := (if k < 2 then 32 else 64, decide (k % 2 = 0))

/-- The major opcode OP-FP. -/
def rvOpFp (w : BitVec 32) (h : Hart) : Option Hart := do
  let f ← rvFmt (fld w 26 25)
  let rd := fld w 11 7
  let rm := fld w 14 12
  let k := fld w 24 20
  let a := h.fbits f (fld w 19 15)
  let b := h.fbits f k
  let x := h.xr (fld w 19 15)
  match fld w 31 27 with
  | 0x00 => (rvMode h rm).map (fun m => h.putF f rd (rvRound f m (addF m (decodeF f a) (decodeF f b))))
  | 0x01 => (rvMode h rm).map (fun m => h.putF f rd (rvRound f m (addF m (decodeF f a) (decodeF f b).neg)))
  | 0x02 => (rvMode h rm).map (fun m => h.putF f rd (rvRound f m (mulF (decodeF f a) (decodeF f b))))
  | 0x03 => (rvMode h rm).map (fun m => h.putF f rd (divF f { mode := m } (decodeF f a) (decodeF f b)))
  | 0x0B => if k = 0 then (rvMode h rm).map (fun m => h.putF f rd (sqrtF f { mode := m } (decodeF f a))) else none
  | 0x04 => if rm < 3 then some (h.putF f rd (rvSgnj f rm a b, 0)) else none
  | 0x05 => if rm < 2 then some (h.putF f rd (rvMinMax f (decide (rm = 1)) a b)) else none
  | 0x14 =>
    let r := rvCmp f rm a b
    if rm < 3 then some ((h.setX rd (BitVec.ofNat 64 (b2n r.1))).raise r.2) else none
  | 0x08 => do
    let g ← rvFmt k
    let m ← rvMode h rm
    if g = f then none else some (h.putF f rd (roundVal f { mode := m } (h.fval g (fld w 19 15))))
  | 0x18 => do
    let m ← rvMode h rm
    if 3 < k then none
    else
      let (n, sg) := rvIntKind k
      let r := rvToInt n sg m (decodeF f a)
      some ((h.setX rd (BitVec.ofInt 64 (sext n r.1))).raise r.2)
  | 0x1A => do
    let m ← rvMode h rm
    if 3 < k then none
    else
      let (n, sg) := rvIntKind k
      some (h.putF f rd (rvFromInt f m (if sg then sext n x.toNat else ((x.toNat % 2 ^ n : Nat) : Int))))
  | 0x1C =>
    if k ≠ 0 ∨ 1 < rm then none
    else if rm = 1 then some (h.setX rd (BitVec.ofNat 64 (rvClass f a)))
    else some (h.setX rd (BitVec.ofInt 64 (sext f.w (h.fr (fld w 19 15)).toNat)))
  | 0x1E => if k = 0 ∧ rm = 0 then some (h.setF rd (boxF (f.w / 8) x.toNat)) else none
  | _ => none

/-- A scalar floating-point instruction; none when it is reserved. -/
def rvFloat (w : BitVec 32) (h : Hart) : Option Hart :=
  let op := fld w 6 0
  if op = 0x53 then rvOpFp w h
  else if op = 0x43 ∨ op = 0x47 ∨ op = 0x4B ∨ op = 0x4F then do
    let f ← rvFmt (fld w 26 25)
    let m ← rvMode h (fld w 14 12)
    some (h.putF f (fld w 11 7)
      (rvFma f m (fld w 3 2) (h.fval f (fld w 19 15)) (h.fval f (fld w 24 20)) (h.fval f (fld w 31 27))))
  else none

end Sys2Proof.Machine
end

