-- ==== Sys2Proof/Machine/HartVector.lean ====
section
/-! DEFINITION. The hart's vector registers, vtype and vl, and the vector integer, fixed-point, mask and permutation instructions:
the V extension of the profile R119 with VLEN 512 and ELEN 64. Encodings and effects are the RISC-V standard's (log entry 5); the
choices that the standard leaves to an implementation are free or named in log entry 26. -/

namespace Sys2Proof.Machine

/-! ## vtype, vl, vstart -/

/-- vtype as its CSR reads; vill until a vset instruction sets it. -/
def Hart.vtype (h : Hart) : Nat := (tget 0x8000000000000000 h.csrs 0xC21).toNat
def Hart.vl (h : Hart) : Nat := (tget 0 h.csrs 0xC20).toNat
def Hart.vstart (h : Hart) : Nat := (tget 0 h.csrs 0x008).toNat
def Hart.vxrm (h : Hart) : Nat := (tget 0 h.csrs 0x00A).toNat % 4
def Hart.setCsr (h : Hart) (a : Nat) (v : Nat) : Hart := { h with csrs := tset 0 h.csrs a (BitVec.ofNat 64 v) }
def Hart.setVtype (h : Hart) (v : Nat) : Hart :=
  { h with csrs := tset 0x8000000000000000 h.csrs 0xC21 (BitVec.ofNat 64 v) }

/-- A vector instruction is complete: vstart 0, VS dirty. -/
def Hart.vDone (h : Hart) : Hart :=
  { h.setCsr 0x008 0 with mstatus := BitVec.ofNat 64 (putFld h.mstatus.toNat 9 2 3), busy := false }

/-- LMUL times 8 of a vlmul code; 0 for the reserved one. -/
def l8Of (code : Nat) : Nat := match code with | 0 => 8 | 1 => 16 | 2 => 32 | 3 => 64 | 5 => 1 | 6 => 2 | 7 => 4 | _ => 0

/-- SEW of a vtype, and VLMAX. -/
def sewOf (t : Nat) : Nat := 8 * 2 ^ (t / 8 % 8)
def vlmaxOf (t : Nat) : Nat := 64 * l8Of (t % 8) / sewOf t

/-- A vtype the hart supports: no reserved field, SEW at most ELEN and LMUL · ELEN. -/
def vtypeOk (t : Nat) : Bool := decide (t < 256 ∧ t / 8 % 8 < 4 ∧ l8Of (t % 8) ≠ 0 ∧ sewOf t ≤ 8 * l8Of (t % 8))

/-- vl for an AVL: between VLMAX and twice VLMAX the implementation's choice. -/
def vlFor (avl max : Nat) : Nat :=
  if avl ≤ max then avl
  else if 2 * max ≤ avl then max
  else (avl + 1) / 2 + Config.vlBetween avl max % (max + 1 - (avl + 1) / 2)

/-- A vset instruction: the new vtype, and the AVL, or none to keep vl (reserved where VLMAX would change: then vill). -/
def vset (h : Hart) (rd t : Nat) (avl : Option Nat) : Hart :=
  let ok := vtypeOk t && (match avl with
    | some _ => true
    | none => decide (h.vtype < 256 ∧ vlmaxOf h.vtype = vlmaxOf t))
  let vl := if ok then (match avl with | some n => vlFor n (vlmaxOf t) | none => h.vl) else 0
  let h := (h.setVtype (if ok then t else 2 ^ 63)).setCsr 0xC20 vl
  (h.setX rd (BitVec.ofNat 64 vl)).vDone

/-- VSETVLI, VSETIVLI, VSETVL. -/
def vsetRun (w : BitVec 32) (h : Hart) : Option Hart :=
  let rd := fld w 11 7
  let r := fld w 19 15
  let avl := if r ≠ 0 then some (h.xr r).toNat else if rd ≠ 0 then some (2 ^ 64 - 1) else none
  if fld w 31 31 = 0 then some (vset h rd (fld w 30 20) avl)
  else if fld w 30 30 = 1 then some (vset h rd (fld w 29 20) (some r))
  else if fld w 31 25 = 0x40 then some (vset h rd (h.xr (fld w 24 20)).toNat avl)
  else none

/-! ## What an instruction works with -/

/-- The setting of one instruction: SEW, 8 · LMUL, vl, vstart, tail and mask policy, unmasked, and the number of the free values that say
which agnostic elements are overwritten. -/
structure VCfg where
  sew : Nat
  l8 : Nat
  vl : Nat
  start : Nat
  ta : Bool
  ma : Bool
  vm : Bool
  tick : Nat
  deriving DecidableEq, Repr

def vcfg (h : Hart) (vm : Bool) (tick : Nat) : Option VCfg :=
  let t := h.vtype
  if t < 256 then
    some { sew := sewOf t, l8 := l8Of (t % 8), vl := h.vl, start := h.vstart, ta := bit (BitVec.ofNat 8 t) 6,
           ma := bit (BitVec.ofNat 8 t) 7, vm := vm, tick := tick }
  else none

def VCfg.max (c : VCfg) : Nat := 64 * c.l8 / c.sew

/-- Is an agnostic element overwritten with ones? -/
def VCfg.ag (c : VCfg) (i : Nat) : Bool := decide (Config.freePick (c.tick * 65536 + i) % 2 = 1)

/-- 8 · EMUL of an element width, and the registers of such a group. -/
def VCfg.emul (c : VCfg) (n : Nat) : Nat := c.l8 * n / c.sew
def VCfg.regs (c : VCfg) (n : Nat) : Nat := Nat.max 1 (c.emul n / 8)

/-- A register group of an element width is legal. -/
def VCfg.grpOk (c : VCfg) (n r : Nat) : Bool := decide (8 ≤ n ∧ n ≤ 64 ∧ 1 ≤ c.emul n ∧ c.emul n ≤ 64 ∧ r % c.regs n = 0)

/-- Two runs of registers share none. -/
def apart (a na b nb : Nat) : Bool := decide (a + na ≤ b ∨ b + nb ≤ a)

/-- A source group beside a destination of width `dn` (1: a mask): legal, and overlapping only as the standard allows. -/
def VCfg.srcOk (c : VCfg) (dn vd sn vs : Nat) : Bool :=
  let dr := if dn = 1 then 1 else c.regs dn
  c.grpOk sn vs &&
  (apart vd dr vs (c.regs sn) || decide (dn = sn) || (decide (dn < sn) && decide (vd = vs)) ||
   (decide (sn < dn) && decide (8 ≤ c.emul sn ∧ vs + c.regs sn = vd + dr)))

/-- A destination group: legal, and apart from the mask register where that is used. -/
def VCfg.dstOk (c : VCfg) (n vd : Nat) : Bool := c.grpOk n vd && (c.vm || decide (vd ≠ 0))

/-! ## Elements -/

/-- Element `i` of width `n` of the group at a register. -/
def vget (h : Hart) (n r i : Nat) : Nat := ((tget 0 h.v (r + i * n / 512)).toNat >>> (i * n % 512)) % 2 ^ n

def vput (h : Hart) (n r i v : Nat) : Hart :=
  let k := r + i * n / 512
  { h with v := tset 0 h.v k (BitVec.ofNat 512 (putFld (tget 0 h.v k).toNat (i * n % 512) n v)) }

def vbit (h : Hart) (r i : Nat) : Bool := (tget 0 h.v r).getLsbD i

def VCfg.active (c : VCfg) (h : Hart) (i : Nat) : Bool := c.vm || vbit h 0 i

/-- A destination group written: `f` gives an element and its flags, or none to leave it; elements below `lo` stay, inactive and tail
elements follow their policies. Answers the flags of the active elements. -/
def vFill (h : Hart) (c : VCfg) (n vd lo : Nat) (f : Nat → Option (Nat × Nat)) : Hart × Nat :=
  if c.vl ≤ c.start then (h, 0)
  else
    (List.range (Nat.max c.max (512 / n))).foldl (fun (g : Hart × Nat) i =>
      if i < c.start ∨ i < lo then g
      else if i < c.vl then
        if c.active h i then
          match f i with
          | some r => (vput g.1 n vd i (r.1 % 2 ^ n), g.2 ||| r.2)
          | none => g
        else if c.ma && c.ag i then (vput g.1 n vd i (2 ^ n - 1), g.2) else g
      else if c.ta && c.ag i then (vput g.1 n vd i (2 ^ n - 1), g.2) else g) (h, 0)

/-- A mask register written: the tail is agnostic always. -/
def vFillMask (h : Hart) (c : VCfg) (vd : Nat) (f : Nat → Bool × Nat) : Hart × Nat :=
  if c.vl ≤ c.start then (h, 0)
  else
    (List.range 512).foldl (fun (g : Hart × Nat) i =>
      if i < c.start then g
      else if i < c.vl then
        if c.active h i then (vput g.1 1 vd i (b2n (f i).1), g.2 ||| (f i).2)
        else if c.ma && c.ag i then (vput g.1 1 vd i 1, g.2) else g
      else if c.ag i then (vput g.1 1 vd i 1, g.2) else g) (h, 0)

/-- Element 0 written by a reduction or a scalar move; the rest of its register is tail. -/
def vScalar (h : Hart) (c : VCfg) (n vd v : Nat) : Hart :=
  (List.range (512 / n)).foldl (fun g i =>
    if i = 0 then vput g n vd 0 (v % 2 ^ n) else if c.ta && c.ag i then vput g n vd i (2 ^ n - 1) else g) h

/-- vxsat or-ed. -/
def Hart.sat (h : Hart) (fl : Nat) : Hart := if fl = 0 then h else h.setCsr 0x009 1

/-! ## Operands -/

/-- The fields of a vector instruction. -/
structure VIns where
  f3 : Nat
  f6 : Nat
  vd : Nat
  vs2 : Nat
  vs1 : Nat
  deriving DecidableEq, Repr

def vins (w : BitVec 32) : VIns :=
  { f3 := fld w 14 12, f6 := fld w 31 26, vd := fld w 11 7, vs2 := fld w 24 20, vs1 := fld w 19 15 }

/-- Is the first operand a vector? -/
def VIns.vv (k : VIns) : Bool := decide (k.f3 < 3)

/-- The other operand of element `i`: an element of vs1, an immediate (`z`: zero-extended), or an x register. -/
def VIns.opB (k : VIns) (h : Hart) (n : Nat) (z : Bool) (i : Nat) : Nat :=
  if k.vv then vget h n k.vs1 i
  else if k.f3 = 3 then (if z then k.vs1 else wrap n (sext 5 k.vs1))
  else (h.xr k.vs1).toNat % 2 ^ n

/-- An offset or index operand: an immediate or a whole x register. -/
def VIns.index (k : VIns) (h : Hart) : Nat := if k.f3 = 3 then k.vs1 else (h.xr k.vs1).toNat

/-- An element-wise instruction: widths of destination, vs2 and vs1; `f` takes vs2, the other operand, the old destination. -/
def vElem (h : Hart) (c : VCfg) (k : VIns) (dn an bn : Nat) (z : Bool) (f : Nat → Nat → Nat → Nat × Nat) : Option (Hart × Nat) :=
  if c.dstOk dn k.vd && c.srcOk dn k.vd an k.vs2 && (!k.vv || c.srcOk dn k.vd bn k.vs1) then
    some (vFill h c dn k.vd 0 (fun i => some (f (vget h an k.vs2 i) (k.opB h bn z i) (vget h dn k.vd i))))
  else none

/-- A compare: a mask destination. -/
def vTest (h : Hart) (c : VCfg) (k : VIns) (n : Nat) (f : Nat → Nat → Nat → Bool × Nat) : Option (Hart × Nat) :=
  if c.srcOk 1 k.vd n k.vs2 && (!k.vv || c.srcOk 1 k.vd n k.vs1) then
    some (vFillMask h c k.vd (fun i => f i (vget h n k.vs2 i) (k.opB h n false i)))
  else none

/-! ## Arithmetic on elements -/

/-- Fixed-point rounding by vxrm of v / 2^d. -/
def vRound (m : Nat) (v : Int) (d : Nat) : Int :=
  let q := v / (2 ^ d : Nat)
  let r := (v % (2 ^ d : Nat)).toNat
  let up := match m with
    | 0 => decide (d ≠ 0 ∧ 2 ^ (d - 1) ≤ r)
    | 1 => decide (d ≠ 0 ∧ (2 ^ (d - 1) < r ∨ (r = 2 ^ (d - 1) ∧ q % 2 ≠ 0)))
    | 2 => false
    | _ => decide (r ≠ 0 ∧ q % 2 = 0)
  if up then q + 1 else q

/-- Clipped to `n` bits, with vxsat. -/
def vClip (n : Nat) (signed : Bool) (x : Int) : Nat × Nat :=
  let r := clampInt n signed x
  (wrap n r.1, b2n r.2)

/-- The integer operations of OPIVV, OPIVX, OPIVI whose operands and result have one width; `m` is vxrm. -/
def viOp (f6 n m a b : Nat) : Option (Nat × Nat) :=
  let x := sext n a
  let y := sext n b
  let s := b % n
  match f6 with
  | 0x00 => some ((a + b) % 2 ^ n, 0)
  | 0x02 => some ((a + 2 ^ n - b) % 2 ^ n, 0)
  | 0x03 => some ((b + 2 ^ n - a) % 2 ^ n, 0)
  | 0x04 => some (Nat.min a b, 0)
  | 0x05 => some (if x ≤ y then a else b, 0)
  | 0x06 => some (Nat.max a b, 0)
  | 0x07 => some (if x ≤ y then b else a, 0)
  | 0x09 => some (a &&& b, 0)
  | 0x0A => some (a ||| b, 0)
  | 0x0B => some (a ^^^ b, 0)
  | 0x20 => some (vClip n false ((a + b : Nat) : Int))
  | 0x21 => some (vClip n true (x + y))
  | 0x22 => some (vClip n false ((a : Int) - b))
  | 0x23 => some (vClip n true (x - y))
  | 0x25 => some (a * 2 ^ s % 2 ^ n, 0)
  | 0x27 => some (vClip n true (vRound m (x * y) (n - 1)))
  | 0x28 => some (a / 2 ^ s, 0)
  | 0x29 => some (wrap n (x / (2 ^ s : Nat)), 0)
  | 0x2A => some (wrap n (vRound m a s), 0)
  | 0x2B => some (wrap n (vRound m x s), 0)
  | _ => none

/-- Narrowing shifts and clips: `a` has twice the width. -/
def viNarrow (f6 n m a b : Nat) : Nat × Nat :=
  let s := b % (2 * n)
  match f6 with
  | 0x2C => (a / 2 ^ s % 2 ^ n, 0)
  | 0x2D => (wrap n (sext (2 * n) a / (2 ^ s : Nat)), 0)
  | 0x2E => vClip n false (vRound m a s)
  | _ => vClip n true (vRound m (sext (2 * n) a) s)

/-- Integer compares. -/
def viCmp (f6 n a b : Nat) : Bool :=
  let x := sext n a
  let y := sext n b
  match f6 with
  | 0x18 => decide (a = b)
  | 0x19 => decide (a ≠ b)
  | 0x1A => decide (a < b)
  | 0x1B => decide (x < y)
  | 0x1C => decide (a ≤ b)
  | 0x1D => decide (x ≤ y)
  | 0x1E => decide (b < a)
  | _ => decide (y < x)

/-- The operations of OPMVV and OPMVX of one width; `d` is the old destination. -/
def vmOp (f6 n m a b d : Nat) : Option Nat :=
  let x := sext n a
  let y := sext n b
  match f6 with
  | 0x08 => some (wrap n (vRound m ((a + b : Nat) : Int) 1))
  | 0x09 => some (wrap n (vRound m (x + y) 1))
  | 0x0A => some (wrap n (vRound m ((a : Int) - b) 1))
  | 0x0B => some (wrap n (vRound m (x - y) 1))
  | 0x20 => some (rvDivu n a b)
  | 0x21 => some (wrap n (rvDiv n a b))
  | 0x22 => some (rvRemu n a b)
  | 0x23 => some (wrap n (rvRem n a b))
  | 0x24 => some (a * b / 2 ^ n)
  | 0x25 => some (a * b % 2 ^ n)
  | 0x26 => some (wrap n (x * (b : Int) / (2 ^ n : Nat)))
  | 0x27 => some (wrap n (x * y / (2 ^ n : Nat)))
  | 0x29 => some ((b * d + a) % 2 ^ n)
  | 0x2B => some (wrap n ((a : Int) - b * d))
  | 0x2D => some ((b * a + d) % 2 ^ n)
  | 0x2F => some (wrap n ((d : Int) - b * a))
  | _ => none

/-- Widening operations: `b` has width `n`, `a` width `n`, or twice that for 0x34 to 0x37. -/
def vmWide (f6 n a b d : Nat) : Nat :=
  let x := sext n a
  let y := sext n b
  wrap (2 * n) (match f6 with
    | 0x30 => (a : Int) + b
    | 0x31 => x + y
    | 0x32 => (a : Int) - b
    | 0x33 => x - y
    | 0x34 => (a : Int) + b
    | 0x35 => (a : Int) + y
    | 0x36 => (a : Int) - b
    | 0x37 => (a : Int) - y
    | 0x38 => (a : Int) * b
    | 0x3A => x * (b : Int)
    | 0x3B => x * y
    | 0x3C => (d : Int) + a * b
    | 0x3D => (d : Int) + x * y
    | 0x3E => (d : Int) + x * (b : Int)
    | _ => (d : Int) + (a : Int) * y)

/-- One step of an integer reduction. -/
def vRed (f6 n a b : Nat) : Nat :=
  match f6 with
  | 0x00 => (a + b) % 2 ^ n
  | 0x01 => a &&& b
  | 0x02 => a ||| b
  | 0x03 => a ^^^ b
  | 0x04 => Nat.min a b
  | 0x05 => if sext n a ≤ sext n b then a else b
  | 0x06 => Nat.max a b
  | _ => if sext n a ≤ sext n b then b else a

/-- A mask instruction on two bits. -/
def vLogic (f6 : Nat) (a b : Bool) : Bool :=
  match f6 with
  | 0x18 => a && !b
  | 0x19 => a && b
  | 0x1A => a || b
  | 0x1B => a != b
  | 0x1C => a || !b
  | 0x1D => !(a && b)
  | 0x1E => !(a || b)
  | _ => a == b

/-! ## Shapes shared by several instructions -/

/-- A reduction from elements of width `n` into element 0 of width `dn`: `f` combines the list of active elements with vs1[0]. -/
def vReduce (h : Hart) (c : VCfg) (k : VIns) (n dn : Nat) (f : Nat → List Nat → Nat × Nat) : Option (Hart × Nat) :=
  if c.start = 0 ∧ dn ≤ 64 ∧ c.grpOk n k.vs2 then
    if c.vl = 0 then some (h, 0)
    else
      let l := (List.range c.vl).filterMap (fun i => if c.active h i then some (vget h n k.vs2 i) else none)
      let r := f (vget h dn k.vs1 0) l
      some (vScalar h c dn k.vd r.1, r.2)
  else none

/-- Slides up and down by an offset. -/
def vSlide (h : Hart) (c : VCfg) (k : VIns) (up : Bool) : Option (Hart × Nat) :=
  let n := c.sew
  let off := k.index h
  if c.dstOk n k.vd && c.grpOk n k.vs2 && (!up || apart k.vd (c.regs n) k.vs2 (c.regs n)) then
    some (vFill h c n k.vd (if up then off else 0) (fun i =>
      some (if up then vget h n k.vs2 (i - off) else if i + off < c.max then vget h n k.vs2 (i + off) else 0, 0)))
  else none

/-- Slides by one, with `x` in the free place. -/
def vSlide1 (h : Hart) (c : VCfg) (k : VIns) (up : Bool) (x : Nat) : Option (Hart × Nat) :=
  let n := c.sew
  if c.dstOk n k.vd && c.grpOk n k.vs2 && (!up || apart k.vd (c.regs n) k.vs2 (c.regs n)) then
    some (vFill h c n k.vd 0 (fun i =>
      some (if up then (if i = 0 then x else vget h n k.vs2 (i - 1))
            else if i + 1 = c.vl then x else vget h n k.vs2 (i + 1), 0)))
  else none

/-- A gather by indices of width `xn`; an index outside gives 0. -/
def vGather (h : Hart) (c : VCfg) (k : VIns) (xn : Nat) : Option (Hart × Nat) :=
  let n := c.sew
  if c.dstOk n k.vd && c.grpOk n k.vs2 && apart k.vd (c.regs n) k.vs2 (c.regs n) &&
     (!k.vv || (c.grpOk xn k.vs1 && apart k.vd (c.regs n) k.vs1 (c.regs xn))) then
    some (vFill h c n k.vd 0 (fun i =>
      let j := if k.vv then vget h xn k.vs1 i else k.index h
      some (if j < c.max then vget h n k.vs2 j else 0, 0)))
  else none

/-- VMERGE (unmasked form: VMV.V) with `b` the other operand. -/
def vMerge (h : Hart) (c : VCfg) (k : VIns) (b : Nat → Nat) : Option (Hart × Nat) :=
  let n := c.sew
  if c.dstOk n k.vd && (if c.vm then decide (k.vs2 = 0) else c.grpOk n k.vs2) && (!k.vv || c.grpOk n k.vs1) then
    some (vFill h { c with vm := true } n k.vd 0 (fun i =>
      some (if c.vm || vbit h 0 i then b i else vget h n k.vs2 i, 0)))
  else none

/-! ## Instructions -/

/-- Which of the forms VV 1, VX 2, VI 4 a funct6 has. -/
def opiForms (f6 : Nat) : Nat :=
  match f6 with
  | 0x00 | 0x09 | 0x0A | 0x0B | 0x0C | 0x10 | 0x11 | 0x17 | 0x18 | 0x19 | 0x1C | 0x1D | 0x20 | 0x21 | 0x25 => 7
  | 0x27 | 0x28 | 0x29 | 0x2A | 0x2B | 0x2C | 0x2D | 0x2E | 0x2F | 0x0E => 7
  | 0x02 | 0x04 | 0x05 | 0x06 | 0x07 | 0x12 | 0x13 | 0x1A | 0x1B | 0x22 | 0x23 => 3
  | 0x03 | 0x0F | 0x1E | 0x1F => 6
  | 0x30 | 0x31 => 1
  | _ => 0

/-- VMV<nr>R.V. -/
def vMoveRegs (h : Hart) (c : VCfg) (k : VIns) : Option (Hart × Nat) :=
  let nr := k.vs1 + 1
  let n := c.sew
  if c.vm && decide (nr = 1 ∨ nr = 2 ∨ nr = 4 ∨ nr = 8) && decide (k.vd % nr = 0 ∧ k.vs2 % nr = 0) then
    some ((List.range (nr * 512 / n)).foldl (fun g i => if i < c.start then g else vput g n k.vd i (vget h n k.vs2 i)) h, 0)
  else none

/-- OPIVV, OPIVX, OPIVI. -/
def vOpi (h : Hart) (c : VCfg) (k : VIns) : Option (Hart × Nat) :=
  let n := c.sew
  let m := h.vxrm
  let form := match k.f3 with | 0 => 1 | 4 => 2 | _ => 4
  let all := { c with vm := true }
  if opiForms k.f6 / form % 2 = 0 then none
  else
    match k.f6 with
    | 0x0C => vGather h c k n
    | 0x0E => if k.vv then vGather h c k 16 else vSlide h c k true
    | 0x0F => vSlide h c k false
    | 0x10 => if c.vm then none
        else if k.vd = 0 then none
        else vElemCarry h all k (fun ci a b => (a + b + ci) % 2 ^ n)
    | 0x12 => if c.vm then none
        else if k.vd = 0 then none
        else vElemCarry h all k (fun ci a b => wrap n ((a : Int) - b - ci))
    | 0x11 => vTest h all k n (fun i a b => (decide (2 ^ n ≤ a + b + carry c i), 0))
    | 0x13 => vTest h all k n (fun i a b => (decide (a < b + carry c i), 0))
    | 0x17 => vMerge h c k (k.opB h n false)
    | 0x18 | 0x19 | 0x1A | 0x1B | 0x1C | 0x1D | 0x1E | 0x1F => vTest h c k n (fun _ a b => (viCmp k.f6 n a b, 0))
    | 0x2C | 0x2D | 0x2E | 0x2F => vElem h c k n (2 * n) n true (fun a b _ => viNarrow k.f6 n m a b)
    | 0x30 => vReduce h c k n (2 * n) (fun z l => ((l.foldl (· + ·) z) % 2 ^ (2 * n), 0))
    | 0x31 => vReduce h c k n (2 * n) (fun z l => (wrap (2 * n) (l.foldl (fun r x => r + sext n x) (z : Int)), 0))
    | 0x27 => if k.f3 = 3 then vMoveRegs h c k else vElem h c k n n n false (fun a b _ => (viOp 0x27 n m a b).getD (0, 0))
    | f6 => vElem h c k n n n (decide (0x25 ≤ f6)) (fun a b _ => (viOp f6 n m a b).getD (0, 0))
where
  carry (c : VCfg) (i : Nat) : Nat := if c.vm then 0 else b2n (vbit h 0 i)
  vElemCarry (h : Hart) (all : VCfg) (k : VIns) (f : Nat → Nat → Nat → Nat) : Option (Hart × Nat) :=
    let n := all.sew
    if all.grpOk n k.vd && all.grpOk n k.vs2 && (!k.vv || all.grpOk n k.vs1) then
      some (vFill h all n k.vd 0 (fun i => some (f (b2n (vbit h 0 i)) (vget h n k.vs2 i) (k.opB h n false i), 0)))
    else none

/-- The mask unary instructions and VIOTA, VID. -/
def vMaskUnary (h : Hart) (c : VCfg) (k : VIns) : Option (Hart × Nat) :=
  let n := c.sew
  let on := fun i => c.active h i && vbit h k.vs2 i
  let before := fun i => (List.range i).any on
  if k.vs1 = 17 then
    if k.vs2 = 0 ∧ c.dstOk n k.vd then some (vFill h c n k.vd 0 (fun i => some (i, 0))) else none
  else if c.start ≠ 0 then none
  else if k.vs1 = 16 then
    if c.dstOk n k.vd ∧ apart k.vd (c.regs n) k.vs2 1 then
      some (vFill h c n k.vd 0 (fun i => some (((List.range i).filter on).length, 0)))
    else none
  else if k.vd = k.vs2 ∨ (!c.vm && decide (k.vd = 0)) then none
  else
    match k.vs1 with
    | 1 => some (vFillMask h c k.vd (fun i => (!before (i + 1), 0)))
    | 2 => some (vFillMask h c k.vd (fun i => (on i && !before i, 0)))
    | 3 => some (vFillMask h c k.vd (fun i => (!before i, 0)))
    | _ => none

/-- VCOMPRESS: the elements that a mask selects, packed; the rest is tail. -/
def vCompress (h : Hart) (c : VCfg) (k : VIns) : Option (Hart × Nat) :=
  let n := c.sew
  if c.vm && decide (c.start = 0) && c.grpOk n k.vd && c.grpOk n k.vs2 && apart k.vd (c.regs n) k.vs2 (c.regs n) &&
     apart k.vd (c.regs n) k.vs1 1 then
    if c.vl = 0 then some (h, 0)
    else
      let l := (List.range c.vl).filter (fun i => vbit h k.vs1 i)
      some ((List.range (Nat.max c.max (512 / n))).foldl (fun g i =>
        match l[i]? with
        | some j => vput g n k.vd i (vget h n k.vs2 j)
        | none => if c.ta && c.ag i then vput g n k.vd i (2 ^ n - 1) else g) h, 0)
  else none

/-- VZEXT and VSEXT from a half, a quarter, an eighth of the width. -/
def vExtend (h : Hart) (c : VCfg) (k : VIns) : Option (Hart × Nat) :=
  let n := c.sew
  let q := match k.vs1 / 2 with | 1 => 8 | 2 => 4 | 3 => 2 | _ => 0
  if q = 0 ∨ 8 ≤ k.vs1 then none
  else
    let an := n / q
    if c.dstOk n k.vd && c.srcOk n k.vd an k.vs2 then
      some (vFill h c n k.vd 0 (fun i =>
        let a := vget h an k.vs2 i
        some (if k.vs1 % 2 = 0 then a else wrap n (sext an a), 0)))
    else none

/-- The instructions that move between element 0, or a mask, and an x register. -/
def vToX (h : Hart) (c : VCfg) (k : VIns) : Option (Hart × Nat) :=
  let n := c.sew
  if k.f3 = 2 then
    let l := (List.range c.vl).filter (fun i => c.active h i && vbit h k.vs2 i)
    match k.vs1 with
    | 0 => if c.vm then some (h.setX k.vd (BitVec.ofInt 64 (sext n (vget h n k.vs2 0))), 0) else none
    | 16 => if c.start = 0 then some (h.setX k.vd (BitVec.ofNat 64 l.length), 0) else none
    | 17 => if c.start = 0 then
        some (h.setX k.vd (match l.head? with | some i => BitVec.ofNat 64 i | none => BitVec.allOnes 64), 0)
      else none
    | _ => none
  else if k.vs2 = 0 ∧ c.vm then
    some (if c.start < c.vl then vScalar h c n k.vd ((h.xr k.vs1).toNat % 2 ^ n) else h, 0)
  else none

/-- Which of the forms VV 1, VX 2 a funct6 of OPMVV and OPMVX has. -/
def opmForms (f6 : Nat) : Nat :=
  if f6 ≤ 0x07 ∨ f6 = 0x12 ∨ f6 = 0x14 ∨ (0x17 ≤ f6 ∧ f6 ≤ 0x1F) then 1
  else if f6 = 0x0E ∨ f6 = 0x0F ∨ f6 = 0x3E then 2
  else if (0x08 ≤ f6 ∧ f6 ≤ 0x0B) ∨ f6 = 0x10 ∨ (0x20 ≤ f6 ∧ f6 ≤ 0x27) ∨ f6 = 0x29 ∨ f6 = 0x2B ∨ f6 = 0x2D ∨ f6 = 0x2F ∨
      (0x30 ≤ f6 ∧ f6 ≤ 0x38) ∨ f6 = 0x3A ∨ f6 = 0x3B ∨ f6 = 0x3C ∨ f6 = 0x3D ∨ f6 = 0x3F then 3
  else 0

/-- OPMVV, OPMVX. -/
def vOpm (h : Hart) (c : VCfg) (k : VIns) : Option (Hart × Nat) :=
  let n := c.sew
  let m := h.vxrm
  let f6 := k.f6
  if opmForms f6 / (if k.f3 = 2 then 1 else 2) % 2 = 0 then none
  else if f6 ≤ 0x07 then vReduce h c k n n (fun z l => (l.foldl (vRed f6 n) z, 0))
  else if f6 = 0x0E ∨ f6 = 0x0F then vSlide1 h c k (decide (f6 = 0x0E)) ((h.xr k.vs1).toNat % 2 ^ n)
  else if f6 = 0x10 then vToX h c k
  else if f6 = 0x12 then vExtend h c k
  else if f6 = 0x14 then vMaskUnary h c k
  else if f6 = 0x17 then vCompress h c k
  else if 0x18 ≤ f6 ∧ f6 ≤ 0x1F then
    if c.vm then some (vFillMask h c k.vd (fun i => (vLogic f6 (vbit h k.vs2 i) (vbit h k.vs1 i), 0))) else none
  else if 0x30 ≤ f6 then
    vElem h c k (2 * n) (if 0x34 ≤ f6 ∧ f6 ≤ 0x37 then 2 * n else n) n false (fun a b d => (vmWide f6 n a b d, 0))
  else vElem h c k n n n false (fun a b d => ((vmOp f6 n m a b d).getD 0, 0))

/-- A vector integer instruction that reaches no memory; none when it is reserved. -/
def vInteger (w : BitVec 32) (tick : Nat) (h : Hart) : Option Hart := do
  let k := vins w
  let c ← vcfg h (bit w 25) tick
  let r ← if k.f3 = 2 ∨ k.f3 = 6 then vOpm h c k else vOpi h c k
  some (r.1.sat r.2).vDone

end Sys2Proof.Machine
end

