-- ==== Sys2Proof/Machine/HartVectorFp.lean ====
section
/-! DEFINITION. The hart's vector floating-point instructions (V of the profile R119): elements of 32 and 64 bits. Encodings and effects
are the RISC-V standard's (log entry 5). -/

namespace Sys2Proof.Machine

/-- The format of a vector element; the profile has none of 16 bits. -/
def vFmt (n : Nat) : Option Fmt := match n with | 32 => some fmtF32 | 64 => some fmtF64 | _ => none

/-- The other operand: an element of vs1, or an f register. -/
def VIns.opF (k : VIns) (h : Hart) (f : Fmt) (i : Nat) : Nat := if k.vv then vget h f.w k.vs1 i else h.fbits f k.vs1

/-- An element-wise instruction whose vs2 has format `g` and whose other operand has format `b`. -/
def vElemF (h : Hart) (c : VCfg) (k : VIns) (dn : Nat) (g b : Fmt) (f : Nat → Nat → Nat → Nat × Nat) : Option (Hart × Nat) :=
  if c.dstOk dn k.vd && c.srcOk dn k.vd g.w k.vs2 && (!k.vv || c.srcOk dn k.vd b.w k.vs1) then
    some (vFill h c dn k.vd 0 (fun i => some (f (vget h g.w k.vs2 i) (k.opF h b i) (vget h dn k.vd i))))
  else none

/-- An element-wise instruction of one operand of width `an`. -/
def vElem1 (h : Hart) (c : VCfg) (k : VIns) (dn an : Nat) (f : Nat → Nat × Nat) : Option (Hart × Nat) :=
  if c.dstOk dn k.vd && c.srcOk dn k.vd an k.vs2 then
    some (vFill h c dn k.vd 0 (fun i => some (f (vget h an k.vs2 i))))
  else none

/-! ## Estimates -/

/-- Seven fraction bits of 1/x for the middle of interval `i` of [1, 2). -/
def vRecEst (i : Nat) : Nat := (131072 + (257 + 2 * i)) / (2 * (257 + 2 * i)) - 128

/-- Seven fraction bits of 1/sqrt x for the middle of an interval of [2, 4) (`i` below 64) or [1, 2). -/
def vRsqEst (i : Nat) : Nat :=
  (isqrt (262144 * 128 / ((129 + 2 * (i % 64)) * (if i < 64 then 2 else 1))) 10 0 + 1) / 2 - 128

/-- Biased exponent (it may fall below zero) and fraction of a finite nonzero number, a subnormal brought to the form 1.f. -/
def vParts (f : Fmt) (a : Nat) : Int × Nat :=
  let ex := a / 2 ^ f.mw % 2 ^ f.ew
  let fr := a % 2 ^ f.mw
  if ex ≠ 0 then (ex, fr)
  else
    let z := f.mw - 1 - Nat.log2 fr
    (-(z : Int), fr * 2 ^ (z + 1) % 2 ^ f.mw)

/-- VFRSQRT7. -/
def vRsqrt7 (f : Fmt) (a : Nat) : Nat × Nat :=
  match decodeF f a with
  | .nan s => (canonNan f, if s then flNV else 0)
  | .inf n => if n then (canonNan f, flNV) else (0, 0)
  | .fin n m _ =>
    if m = 0 then (infBits f n, flDZ)
    else if n then (canonNan f, flNV)
    else
      let (ex, fr) := vParts f a
      let i := (ex % 2).toNat * 64 + fr / 2 ^ (f.mw - 6)
      (packF f false ((3 * (f.bias : Int) - 1 - ex) / 2).toNat (vRsqEst i * 2 ^ (f.mw - 7)), 0)

/-- VFREC7. -/
def vRec7 (f : Fmt) (mode : Nat) (a : Nat) : Nat × Nat :=
  match decodeF f a with
  | .nan s => (canonNan f, if s then flNV else 0)
  | .inf n => (packF f n 0 0, 0)
  | .fin n m _ =>
    if m = 0 then (infBits f n, flDZ)
    else
      let (ex, fr) := vParts f a
      if ex < -1 then
        (if mode = rtz ∨ (mode = rdn ∧ n = false) ∨ (mode = rup ∧ n) then maxBits f n else infBits f n, flOF + flNX)
      else
        let est := vRecEst (fr / 2 ^ (f.mw - 7)) * 2 ^ (f.mw - 7)
        let out := 2 * (f.bias : Int) - 1 - ex
        if 0 < out then (packF f n out.toNat est, 0)
        else if out = 0 then (packF f n 0 ((est + 2 ^ f.mw) / 2), 0)
        else (packF f n 0 ((est + 2 ^ f.mw) / 4), 0)

/-! ## Arithmetic on elements -/

/-- The operations of one width: `a` from vs2, `b` the other operand, `d` the old destination. -/
def vfOp (f : Fmt) (mode f6 a b d : Nat) : Nat × Nat :=
  let x := decodeF f a
  let y := decodeF f b
  let z := decodeF f d
  match f6 with
  | 0x00 => rvRound f mode (addF mode x y)
  | 0x02 => rvRound f mode (addF mode x y.neg)
  | 0x27 => rvRound f mode (addF mode y x.neg)
  | 0x04 => rvMinMax f false a b
  | 0x06 => rvMinMax f true a b
  | 0x08 => (rvSgnj f 0 a b, 0)
  | 0x09 => (rvSgnj f 1 a b, 0)
  | 0x0A => (rvSgnj f 2 a b, 0)
  | 0x20 => divF f { mode := mode } x y
  | 0x21 => divF f { mode := mode } y x
  | 0x24 => rvRound f mode (mulF x y)
  | 0x28 => rvFma f mode 0 y z x
  | 0x29 => rvFma f mode 3 y z x
  | 0x2A => rvFma f mode 1 y z x
  | 0x2B => rvFma f mode 2 y z x
  | 0x2C => rvFma f mode 0 y x z
  | 0x2D => rvFma f mode 3 y x z
  | 0x2E => rvFma f mode 1 y x z
  | _ => rvFma f mode 2 y x z

/-- Widening operations into format `w`: `x` from vs2, `y` the other operand, `z` the old destination. -/
def vfWide (w : Fmt) (mode f6 : Nat) (x y z : FVal) : Nat × Nat :=
  match f6 with
  | 0x30 | 0x34 => rvRound w mode (addF mode x y)
  | 0x32 | 0x36 => rvRound w mode (addF mode x y.neg)
  | 0x38 => rvRound w mode (mulF x y)
  | 0x3C => rvFma w mode 0 y x z
  | 0x3D => rvFma w mode 3 y x z
  | 0x3E => rvFma w mode 1 y x z
  | _ => rvFma w mode 2 y x z

/-- Compares: VMFEQ, VMFLE, VMFLT, VMFNE, VMFGT, VMFGE. -/
def vfCmp (f : Fmt) (f6 a b : Nat) : Bool × Nat :=
  match f6 with
  | 0x18 => rvCmp f 2 a b
  | 0x19 => rvCmp f 0 a b
  | 0x1B => rvCmp f 1 a b
  | 0x1C => let r := rvCmp f 2 a b; (!r.1, r.2)
  | 0x1D => rvCmp f 1 b a
  | _ => rvCmp f 0 b a

/-! ## Reductions -/

/-- A sum of two bit patterns of one format. -/
def vfAdd (f : Fmt) (mode : Nat) (a : Nat × Nat) (b : Nat × Nat) : Nat × Nat :=
  let r := rvRound f mode (addF mode (decodeF f a.1) (decodeF f b.1))
  (r.1, r.2 ||| a.2 ||| b.2)

/-- A sum in an order that the standard leaves open: two free places are added until one value is left. -/
def vfTree (f : Fmt) (mode tick : Nat) : Nat → List (Nat × Nat) → Nat × Nat
  | 0, l => l.headD (0, 0)
  | n + 1, l =>
    match l with
    | [] => (0, 0)
    | [x] => x
    | l =>
      let i := Config.freePick (tick * 65536 + 1024 + 2 * n) % l.length
      let r := l.eraseIdx i
      let j := Config.freePick (tick * 65536 + 1025 + 2 * n) % r.length
      vfTree f mode tick n (vfAdd f mode (l.getD i (0, 0)) (r.getD j (0, 0)) :: r.eraseIdx j)

/-- The reductions; `w` is the format of the result, `g` that of vs2. -/
def vfReduce (h : Hart) (c : VCfg) (k : VIns) (mode : Nat) (g w : Fmt) : Option (Hart × Nat) :=
  vReduce h c k g.w w.w (fun z l =>
    let l := l.map (fun x => if g = w then (x, 0) else rvRound w mode (decodeF g x, 0))
    match k.f6 with
    | 0x05 => l.foldl (fun r x => let m := rvMinMax w false r.1 x.1; (m.1, m.2 ||| r.2)) (z, 0)
    | 0x07 => l.foldl (fun r x => let m := rvMinMax w true r.1 x.1; (m.1, m.2 ||| r.2)) (z, 0)
    | 0x03 | 0x33 => l.foldl (vfAdd w mode) (z, 0)
    | _ => vfTree w mode c.tick l.length ((z, 0) :: l))

/-! ## Conversions -/

/-- Round toward odd: truncated, with the last bit set when that was inexact. -/
def vRoundOdd (f : Fmt) (x : FVal) : Nat × Nat :=
  let r := roundVal f { mode := rtz } x
  (if r.2 % 2 = 1 ∧ r.1 % 2 = 0 then r.1 + 1 else r.1, r.2)

/-- VFUNARY0. -/
def vfConvert (h : Hart) (c : VCfg) (k : VIns) (mode : Nat) : Option (Hart × Nat) :=
  let n := c.sew
  let mode := if k.vs1 % 8 = 6 ∨ k.vs1 % 8 = 7 then rtz else mode
  let signed := decide (k.vs1 % 2 = 1)
  let int (m v : Nat) : Int := if signed then sext m v else (v : Int)
  let toI := fun (f : Fmt) (m v : Nat) => rvToInt m signed mode (decodeF f v)
  match k.vs1 with
  | 0x00 | 0x01 | 0x06 | 0x07 => (vFmt n).bind (fun f => vElem1 h c k n n (toI f n))
  | 0x02 | 0x03 => (vFmt n).bind (fun f => vElem1 h c k n n (fun v => rvFromInt f mode (int n v)))
  | 0x08 | 0x09 | 0x0E | 0x0F => (vFmt n).bind (fun f => vElem1 h c k (2 * n) n (toI f (2 * n)))
  | 0x0A | 0x0B => (vFmt (2 * n)).bind (fun f => vElem1 h c k (2 * n) n (fun v => rvFromInt f mode (int n v)))
  | 0x0C => (vFmt n).bind (fun f => (vFmt (2 * n)).bind (fun g =>
      vElem1 h c k (2 * n) n (fun v => roundVal g { mode := mode } (decodeF f v))))
  | 0x10 | 0x11 | 0x16 | 0x17 => (vFmt (2 * n)).bind (fun g => vElem1 h c k n (2 * n) (toI g n))
  | 0x12 | 0x13 => (vFmt n).bind (fun f => vElem1 h c k n (2 * n) (fun v => rvFromInt f mode (int (2 * n) v)))
  | 0x14 => (vFmt n).bind (fun f => (vFmt (2 * n)).bind (fun g =>
      vElem1 h c k n (2 * n) (fun v => roundVal f { mode := mode } (decodeF g v))))
  | 0x15 => (vFmt n).bind (fun f => (vFmt (2 * n)).bind (fun g => vElem1 h c k n (2 * n) (fun v => vRoundOdd f (decodeF g v))))
  | _ => none

/-! ## Instructions -/

/-- Which of the forms VV 1, VF 2 a funct6 of OPFVV and OPFVF has. -/
def opfForms (f6 : Nat) : Nat :=
  match f6 with
  | 0x00 | 0x02 | 0x04 | 0x06 | 0x08 | 0x09 | 0x0A | 0x10 | 0x18 | 0x19 | 0x1B | 0x1C | 0x20 | 0x24 => 3
  | 0x28 | 0x29 | 0x2A | 0x2B | 0x2C | 0x2D | 0x2E | 0x2F | 0x30 | 0x32 | 0x34 | 0x36 | 0x38 | 0x3C | 0x3D | 0x3E | 0x3F => 3
  | 0x01 | 0x03 | 0x05 | 0x07 | 0x12 | 0x13 | 0x31 | 0x33 => 1
  | 0x0E | 0x0F | 0x17 | 0x1D | 0x1F | 0x21 | 0x27 => 2
  | _ => 0

/-- VFMV.F.S and VFMV.S.F. -/
def vfMove (h : Hart) (c : VCfg) (k : VIns) (f : Fmt) : Option (Hart × Nat) :=
  let n := c.sew
  if !c.vm then none
  else if k.f3 = 1 then
    if k.vs1 = 0 then some (h.setF k.vd (boxF (n / 8) (vget h n k.vs2 0)), 0) else none
  else if k.vs2 = 0 then some (if c.start < c.vl then vScalar h c n k.vd (h.fbits f k.vs1) else h, 0)
  else none

/-- VFUNARY1: VFSQRT, VFRSQRT7, VFREC7, VFCLASS. -/
def vfUnary (h : Hart) (c : VCfg) (k : VIns) (mode : Nat) (f : Fmt) : Option (Hart × Nat) :=
  match k.vs1 with
  | 0x00 => vElem1 h c k f.w f.w (fun a => sqrtF f { mode := mode } (decodeF f a))
  | 0x04 => vElem1 h c k f.w f.w (vRsqrt7 f)
  | 0x05 => vElem1 h c k f.w f.w (vRec7 f mode)
  | 0x10 => vElem1 h c k f.w f.w (fun a => (rvClass f a, 0))
  | _ => none

/-- OPFVV, OPFVF. -/
def vOpf (h : Hart) (c : VCfg) (k : VIns) (mode : Nat) : Option (Hart × Nat) :=
  let n := c.sew
  let f6 := k.f6
  if opfForms f6 / (if k.f3 = 1 then 1 else 2) % 2 = 0 then none
  else if f6 = 0x12 then vfConvert h c k mode
  else
    (vFmt n).bind (fun f =>
      match f6 with
      | 0x01 | 0x03 | 0x05 | 0x07 => vfReduce h c k mode f f
      | 0x31 | 0x33 => (vFmt (2 * n)).bind (fun w => vfReduce h c k mode f w)
      | 0x0E | 0x0F => vSlide1 h c k (decide (f6 = 0x0E)) (h.fbits f k.vs1)
      | 0x10 => vfMove h c k f
      | 0x13 => vfUnary h c k mode f
      | 0x17 => vMerge h c k (k.opF h f)
      | 0x18 | 0x19 | 0x1B | 0x1C | 0x1D | 0x1F =>
        if c.srcOk 1 k.vd n k.vs2 && (!k.vv || c.srcOk 1 k.vd n k.vs1) then
          some (vFillMask h c k.vd (fun i => vfCmp f f6 (vget h n k.vs2 i) (k.opF h f i)))
        else none
      | 0x30 | 0x32 | 0x38 | 0x3C | 0x3D | 0x3E | 0x3F =>
        (vFmt (2 * n)).bind (fun w =>
          vElemF h c k w.w f f (fun a b d => vfWide w mode f6 (decodeF f a) (decodeF f b) (decodeF w d)))
      | 0x34 | 0x36 =>
        (vFmt (2 * n)).bind (fun w =>
          vElemF h c k w.w w f (fun a b d => vfWide w mode f6 (decodeF w a) (decodeF f b) (decodeF w d)))
      | f6 => vElemF h c k n f f (vfOp f mode f6))

/-- A vector floating-point instruction; none when it is reserved, frm being reserved among the reasons. -/
def vFloat (w : BitVec 32) (tick : Nat) (h : Hart) : Option Hart := do
  let mode ← rvMode h 7
  let c ← vcfg h (bit w 25) tick
  let r ← vOpf h c (vins w) mode
  some (r.1.raise r.2).vDone

end Sys2Proof.Machine
end

