-- ==== Sys2Proof/Machine/HartVectorMem.lean ====
section
/-! DEFINITION. The hart's vector loads and stores (V of the profile R119; accesses as R119 to R121 give). A turn moves the fields of one
element; vstart counts the elements done, so a trap or an interrupt between them leaves it where the instruction resumes. Encodings
and effects are the RISC-V standard's (log entry 5). -/

namespace Sys2Proof.Machine

/-- A vector load or store: its element width, fields, registers of a whole-register form (0: another form), mask form,
fault-only-first, index width (0: none), strided. -/
structure VMem where
  store : Bool
  n : Nat
  nf : Nat
  whole : Nat := 0
  mask : Bool := false
  first : Bool := false
  xw : Nat := 0
  strided : Bool := false
  deriving DecidableEq, Repr

/-- Element width of a width field; 0 for those of the scalar accesses. -/
def vWidth (f3 : Nat) : Nat := match f3 with | 0 => 8 | 5 => 16 | 6 => 32 | 7 => 64 | _ => 0

/-- The access a word names, SEW being given; none when the encoding is reserved. -/
def vMemOf (w : BitVec 32) (sew : Nat) : Option VMem :=
  let n := vWidth (fld w 14 12)
  let nf := fld w 31 29 + 1
  let st := decide (fld w 6 0 = 0x27)
  let u := fld w 24 20
  if n = 0 ∨ bit w 28 then none
  else
    match fld w 27 26 with
    | 0 =>
      if u = 0 then some { store := st, n := n, nf := nf }
      else if u = 8 then
        (if bit w 25 && decide (nf = 1 ∨ nf = 2 ∨ nf = 4 ∨ nf = 8) && (!st || decide (n = 8)) then
          some { store := st, n := n, nf := 1, whole := nf } else none)
      else if u = 11 then (if bit w 25 && decide (n = 8 ∧ nf = 1) then some { store := st, n := 8, nf := 1, mask := true } else none)
      else if u = 16 && !st then some { store := st, n := n, nf := nf, first := true }
      else none
    | 2 => some { store := st, n := n, nf := nf, strided := true }
    | _ => some { store := st, n := sew, nf := nf, xw := n }

/-- Registers between the fields of an element. -/
def VMem.step (m : VMem) (c : VCfg) : Nat := if m.whole ≠ 0 ∨ m.mask then 1 else c.regs m.n

/-- The element count. -/
def VMem.len (m : VMem) (c : VCfg) : Nat :=
  if m.whole ≠ 0 then m.whole * 512 / m.n else if m.mask then (c.vl + 7) / 8 else c.vl

/-- Are the register groups legal? -/
def VMem.legal (m : VMem) (c : VCfg) (vd vs2 : Nat) : Bool :=
  if m.whole ≠ 0 then decide (vd % m.whole = 0)
  else if m.mask then true
  else
    let r := c.regs m.n
    c.grpOk m.n vd && decide (m.nf * r ≤ 8 ∧ vd + m.nf * r ≤ 32) && (m.store || c.vm || decide (vd ≠ 0)) &&
    (if m.xw = 0 then true
     else c.grpOk m.xw vs2 &&
       (m.store || (if m.nf = 1 then c.srcOk m.n vd m.xw vs2 else apart vd (m.nf * r) vs2 (c.regs m.xw))))

/-- The address of field `j` of element `i`. -/
def VMem.addr (m : VMem) (h : Hart) (rs1 rs2 i j : Nat) : W64 :=
  let o : W64 :=
    if m.xw ≠ 0 then BitVec.ofNat 64 (vget h m.xw rs2 i)
    else if m.strided then BitVec.ofNat 64 i * h.xr rs2
    else BitVec.ofNat 64 (i * m.nf * (m.n / 8))
  h.xr rs1 + o + BitVec.ofNat 64 (j * (m.n / 8))

/-! ## One element -/

/-- The scalar access that has the same checks. -/
def vScalarAccess (st : Bool) (n : Nat) : HartAccess :=
  { op := if st then .store else .load true, fp := false, rd := 0, rs1 := 0, rs2 := 0, imm := 0,
    size := BitVec.ofNat 2 (Nat.log2 (n / 8)), aq := false, rl := false }

/-- A die unit's location is reached by domain 0 alone, 8 bytes at a time (as `unitAccess`). -/
def vUnitOk (s : State) (d c : Nat) (st : Bool) (n fa : Nat) (va : W64) : Except HExit Unit :=
  if (s.core d c).dom ≠ 0 ∨ s.unreachable (faPkg fa) ∨ 12 ≤ faDie fa ∨ n ≠ 64 ∨ fa % 8 ≠ 0 then .error (accessFault st va)
  else .ok ()

/-- A field read. -/
def vReadAt (s : State) (d c n : Nat) (va : W64) : Except HExit Nat := do
  let x := vScalarAccess false n
  match hartUnit s d c x va with
  | some fa =>
    vUnitOk s d c false n fa va
    if s.here fa then
      match dieUnitRead s (faDie fa) (faUnit fa) (faOff fa) with
      | some v => pure v.toNat
      | none => .error (accessFault false va)
    else pure (s.free 0).toNat
  | none =>
    hartAddrCheck x va
    if va.toNat < 0x2000 then pure (saveRead (s.act d c) va.toNat (n / 8))
    else if va.toNat < 0x100000 then .error (accessFault false va)
    else
      let r ← (toHart false va (hartRead s d c va.toNat (n / 8)))
      pure r.2

/-- Where a field is stored. -/
inductive VPlace where
  | window (va : Nat)
  | unit (fa : Nat)
  | memory (va : Nat) (ps : List (Nat × List Byte))
  deriving Repr

/-- A field's store checked, nothing changed. -/
def vPlaceAt (s : State) (d c n v : Nat) (va : W64) : Except HExit VPlace := do
  let x := vScalarAccess true n
  match hartUnit s d c x va with
  | some fa =>
    vUnitOk s d c true n fa va
    if lastHartStore (s.core d c) ≠ 0 then .error (.stall s)
    else if s.here fa && (dieUnitWrite s (faDie fa) (faUnit fa) (faOff fa) (decide ((s.hart d c).mode = .m)) (BitVec.ofNat 64 v)).isNone then
      .error (accessFault true va)
    else pure (.unit fa)
  | none =>
    hartAddrCheck x va
    if va.toNat < 0x2000 then pure (.window va.toNat)
    else if va.toNat < 0x100000 then .error (accessFault true va)
    else
      let ps ← (toHart true va (storePieces s (.hart d c) false va.toNat (n / 8) [(0, v)]))
      pure (.memory va.toNat ps)

/-- A field stored. -/
def vStoreAt (d c n v : Nat) (s : State) : VPlace → State
  | .window va => s.setAct d c (saveWrite (s.act d c) va (n / 8) v)
  | .unit fa =>
    if s.here fa then
      (dieUnitWrite s (faDie fa) (faUnit fa) (faOff fa) (decide ((s.hart d c).mode = .m)) (BitVec.ofNat 64 v)).getD s
    else s
  | .memory va ps => pushStore s (.hart d c) va ps .store 0 0

/-- The fields of element `i`: read into their registers, or stored together once the buffer has room for all. -/
def vElement (s : State) (d c : Nat) (m : VMem) (g : VCfg) (vd rs1 rs2 i : Nat) : Except HExit State := do
  let h := s.hart d c
  let js := List.range m.nf
  let reg := fun j => vd + j * m.step g
  if m.store then
    let l ← js.mapM (fun j => do
      let v := vget h m.n (reg j) i
      let p ← vPlaceAt s d c m.n v (m.addr h rs1 rs2 i j)
      pure (v, p))
    let need := (l.map (fun x => match x.2 with | .memory _ ps => sbPlaces ps | _ => 0)).sum
    if sbRoom (s.core d c) < need then .error (.stall s)
    else pure (endAccess (l.foldl (fun s x => vStoreAt d c m.n x.1 s x.2) s) (.hart d c))
  else
    let l ← js.mapM (fun j => vReadAt s d c m.n (m.addr h rs1 rs2 i j))
    let s := endAccess s (.hart d c)
    pure (s.setHart d c ((js.zip l).foldl (fun h x => vput h m.n (reg x.1) i x.2) (s.hart d c)))

/-! ## The instruction -/

/-- The elements of a load past its length: tail. -/
def vLoadTail (m : VMem) (g : VCfg) (vd len : Nat) (h : Hart) : Hart :=
  if m.store ∨ m.whole ≠ 0 then h
  else
    (List.range m.nf).foldl (fun h j =>
      (List.range (Nat.max (if m.mask then 64 else g.max) (512 / m.n))).foldl (fun h i =>
        if len ≤ i ∧ (g.ta ∨ m.mask) ∧ g.ag (512 * j + i) then vput h m.n (vd + j * m.step g) i (2 ^ m.n - 1) else h) h) h

/-- Element `i` is done: on to the next, which is within the instruction still (R131), or the end. -/
def vNext (m : VMem) (g : VCfg) (vd i : Nat) (h : Hart) : Hart :=
  if i + 1 < m.len g then { h.setCsr 0x008 (i + 1) with mstatus := BitVec.ofNat 64 (putFld h.mstatus.toNat 9 2 3), busy := true }
  else { (vLoadTail m g vd (m.len g) h).vDone with pc := h.pc + 4 }

/-- A masked-off element of a load. -/
def vMasked (m : VMem) (g : VCfg) (vd i : Nat) (h : Hart) : Hart :=
  if m.store then h
  else
    (List.range m.nf).foldl (fun h j =>
      if g.ma && g.ag (512 * j + i) then vput h m.n (vd + j * m.step g) i (2 ^ m.n - 1) else h) h

/-- A vector load or store of the hart whose turn it is: one element. -/
def vMemory (w : BitVec 32) (d c : Nat) (s : State) : Host.Outcome State Fault Refusal :=
  let h := s.hart d c
  let illegal := Host.Outcome.next (s.hartTrap d c false 2 (w.setWidth 64))
  let vd := fld w 11 7
  let rs1 := fld w 19 15
  let rs2 := fld w 24 20
  let whole := decide (fld w 27 26 = 0 ∧ rs2 = 8)
  let base : VCfg := { sew := 8, l8 := 8, vl := 0, start := h.vstart, ta := false, ma := false, vm := true, tick := s.tick }
  match (if whole then some base else vcfg h (bit w 25) s.tick) with
  | none => illegal
  | some g =>
    match vMemOf w g.sew with
    | none => illegal
    | some m =>
      let i := g.start
      if !m.legal g vd rs2 then illegal
      else if m.len g ≤ i then .next (s.setHart d c { h.vDone with pc := h.pc + 4 })
      else if !(m.whole ≠ 0 || m.mask || g.active h i) then .next (s.setHart d c (vNext m g vd i (vMasked m g vd i h)))
      else
        match vElement s d c m g vd rs1 rs2 i with
        | .ok t => .next (t.setHart d c (vNext m g vd i (t.hart d c)))
        | .error (.stall t) => hartDone 4 s d c w 0 (.error (.stall t))
        | .error e =>
          if m.first ∧ 0 < i then
            let s := endAccess s (.hart d c)
            let h := (s.hart d c).setCsr 0xC20 i
            .next (s.setHart d c { (vLoadTail m g vd i h).vDone with pc := h.pc + 4 })
          else hartDone 4 s d c w 0 (.error e)

end Sys2Proof.Machine
end

