-- ==== Sys2Proof/Machine/Standard.lean ====
section
/-! DEFINITION. The hart's standard instructions that the manual takes from RISC-V without repeating them (R3, R119): RV64IM, Zba,
Zbb, Zbs, Zicond, the CSR instructions, and the trap, return and wait instructions; and the choice among these, the compressed, the
floating-point and the vector instructions. Encodings and effects are the standard's (log entry 5). -/

namespace Sys2Proof.Machine

/-! ## Fields -/

def rvImmI (w : BitVec 32) : W64 := (w.extractLsb' 20 12).signExtend 64
def rvImmU (w : BitVec 32) : W64 := (w &&& 0xFFFFF000#32).signExtend 64
def rvImmB (w : BitVec 32) : W64 :=
  ((w.extractLsb' 31 1 ++ w.extractLsb' 7 1 ++ w.extractLsb' 25 6 ++ w.extractLsb' 8 4 ++ 0#1 : BitVec 13)).signExtend 64
def rvImmJ (w : BitVec 32) : W64 :=
  ((w.extractLsb' 31 1 ++ w.extractLsb' 12 8 ++ w.extractLsb' 20 1 ++ w.extractLsb' 21 10 ++ 0#1 : BitVec 21)).signExtend 64

/-! ## Arithmetic -/

/-- A 32-bit result, sign-extended. -/
def rvW (v : Nat) : W64 := BitVec.ofInt 64 (sext 32 v)

/-- Leading zeros, trailing zeros and set bits of `n` bits. -/
def rvClz (n a : Nat) : Nat := clzBits (a % 2 ^ n) n
def rvCtz (n a : Nat) : Nat := ((List.range n).find? (fun i => decide (a / 2 ^ i % 2 = 1))).getD n
def rvCpop (n a : Nat) : Nat := ((List.range n).filter (fun i => decide (a / 2 ^ i % 2 = 1))).length

/-- Bytes that are not zero become all ones; bytes reversed. -/
def rvOrc (a : Nat) : Nat := ((List.range 8).map (fun i => if byteAt a i = 0 then 0 else 255 * 2 ^ (8 * i))).sum
def rvRev (a : Nat) : Nat := ((List.range 8).map (fun i => byteAt a i * 2 ^ (8 * (7 - i)))).sum

/-- Register-register operations on 64 bits, by funct7 and funct3. -/
def rvOp (f7 f3 : Nat) (a b : W64) : Option W64 :=
  let x := a.toNat
  let y := b.toNat
  let n := y % 64
  match f7, f3 with
  | 0x00, 0 => some (a + b)
  | 0x00, 1 => some (a <<< n)
  | 0x00, 2 => some (if a.slt b then 1 else 0)
  | 0x00, 3 => some (if x < y then 1 else 0)
  | 0x00, 4 => some (a ^^^ b)
  | 0x00, 5 => some (a >>> n)
  | 0x00, 6 => some (a ||| b)
  | 0x00, 7 => some (a &&& b)
  | 0x20, 0 => some (a - b)
  | 0x20, 4 => some (~~~(a ^^^ b))
  | 0x20, 5 => some (a.sshiftRight n)
  | 0x20, 6 => some (a ||| ~~~b)
  | 0x20, 7 => some (a &&& ~~~b)
  | 0x01, 0 => some (a * b)
  | 0x01, 1 => some (BitVec.ofInt 64 ((a.toInt * b.toInt) / 2 ^ 64))
  | 0x01, 2 => some (BitVec.ofInt 64 ((a.toInt * (y : Int)) / 2 ^ 64))
  | 0x01, 3 => some (BitVec.ofNat 64 (x * y / 2 ^ 64))
  | 0x01, 4 => some (BitVec.ofInt 64 (rvDiv 64 x y))
  | 0x01, 5 => some (BitVec.ofNat 64 (rvDivu 64 x y))
  | 0x01, 6 => some (BitVec.ofInt 64 (rvRem 64 x y))
  | 0x01, 7 => some (BitVec.ofNat 64 (rvRemu 64 x y))
  | 0x10, 2 => some (a <<< 1 + b)
  | 0x10, 4 => some (a <<< 2 + b)
  | 0x10, 6 => some (a <<< 3 + b)
  | 0x05, 4 => some (if a.slt b then a else b)
  | 0x05, 5 => some (if x < y then a else b)
  | 0x05, 6 => some (if a.slt b then b else a)
  | 0x05, 7 => some (if x < y then b else a)
  | 0x30, 1 => some (a.rotateLeft n)
  | 0x30, 5 => some (a.rotateRight n)
  | 0x24, 1 => some (a &&& ~~~(1#64 <<< n))
  | 0x24, 5 => some ((a >>> n) &&& 1)
  | 0x34, 1 => some (a ^^^ (1#64 <<< n))
  | 0x14, 1 => some (a ||| (1#64 <<< n))
  | 0x07, 5 => some (if b = 0 then 0 else a)
  | 0x07, 7 => some (if b = 0 then a else 0)
  | _, _ => none

/-- Register-register operations on 32 bits; `z` tells that rs2 names x0 (ZEXT.H). -/
def rvOpW (f7 f3 : Nat) (z : Bool) (a b : W64) : Option W64 :=
  let x := a.toNat % 2 ^ 32
  let y := b.toNat % 2 ^ 32
  let n := y % 32
  let a' : BitVec 32 := a.setWidth 32
  let u : W64 := a'.setWidth 64
  match f7, f3 with
  | 0x00, 0 => some (rvW (x + y))
  | 0x00, 1 => some (rvW (x * 2 ^ n))
  | 0x00, 5 => some (rvW (x / 2 ^ n))
  | 0x20, 0 => some (rvW (x + 2 ^ 32 - y))
  | 0x20, 5 => some ((a'.sshiftRight n).signExtend 64)
  | 0x01, 0 => some (rvW (x * y))
  | 0x01, 4 => some (BitVec.ofInt 64 (sext 32 (wrap 32 (rvDiv 32 x y))))
  | 0x01, 5 => some (rvW (rvDivu 32 x y))
  | 0x01, 6 => some (BitVec.ofInt 64 (sext 32 (wrap 32 (rvRem 32 x y))))
  | 0x01, 7 => some (rvW (rvRemu 32 x y))
  | 0x04, 0 => some (u + b)
  | 0x04, 4 => if z then some (a &&& 0xFFFF) else none
  | 0x10, 2 => some (u <<< 1 + b)
  | 0x10, 4 => some (u <<< 2 + b)
  | 0x10, 6 => some (u <<< 3 + b)
  | 0x30, 1 => some ((a'.rotateLeft n).signExtend 64)
  | 0x30, 5 => some ((a'.rotateRight n).signExtend 64)
  | _, _ => none

/-- The unary operations of funct7 0x30, by the rs2 field, on `n` bits. -/
def rvUnary (n k : Nat) (a : W64) : Option W64 :=
  let x := a.toNat
  match k with
  | 0 => some (BitVec.ofNat 64 (rvClz n x))
  | 1 => some (BitVec.ofNat 64 (rvCtz n x))
  | 2 => some (BitVec.ofNat 64 (rvCpop n x))
  | 4 => if n = 64 then some ((a.setWidth 8).signExtend 64) else none
  | 5 => if n = 64 then some ((a.setWidth 16).signExtend 64) else none
  | _ => none

/-- Operations with a 12-bit immediate on 64 bits: a shift amount has 6 bits. -/
def rvOpImm (f3 : Nat) (w : BitVec 32) (a : W64) : Option W64 :=
  let i := rvImmI w
  let top := fld w 31 26
  let sh : W64 := BitVec.ofNat 64 (fld w 25 20)
  match f3 with
  | 1 =>
    if top = 0x00 ∨ top = 0x12 ∨ top = 0x1A ∨ top = 0x0A then rvOp (2 * top) 1 a sh
    else if fld w 31 25 = 0x30 then rvUnary 64 (fld w 24 20) a
    else none
  | 5 =>
    if fld w 31 20 = 0x287 then some (BitVec.ofNat 64 (rvOrc a.toNat))
    else if fld w 31 20 = 0x6B8 then some (BitVec.ofNat 64 (rvRev a.toNat))
    else if top = 0x00 ∨ top = 0x10 ∨ top = 0x12 ∨ top = 0x18 then rvOp (2 * top) 5 a sh
    else none
  | f3 => rvOp 0 f3 a i

/-- Operations with an immediate on 32 bits. -/
def rvOpImmW (f3 : Nat) (w : BitVec 32) (a : W64) : Option W64 :=
  let f7 := fld w 31 25
  let sh : W64 := BitVec.ofNat 64 (fld w 24 20)
  match f3 with
  | 0 => rvOpW 0 0 false a (rvImmI w)
  | 1 =>
    if f7 = 0 then rvOpW 0 1 false a sh
    else if f7 = 0x30 then rvUnary 32 (fld w 24 20) a
    else if fld w 31 26 = 0x02 then some (((a.setWidth 32 : BitVec 32).setWidth 64) <<< fld w 25 20)
    else none
  | 5 => if f7 = 0 ∨ f7 = 0x20 ∨ f7 = 0x30 then rvOpW f7 5 false a sh else none
  | _ => none

/-- Is a branch taken? None for a reserved funct3. -/
def rvBranch (f3 : Nat) (a b : W64) : Option Bool :=
  match f3 with
  | 0 => some (decide (a = b))
  | 1 => some (decide (a ≠ b))
  | 4 => some (a.slt b)
  | 5 => some (!a.slt b)
  | 6 => some (decide (a.toNat < b.toNat))
  | 7 => some (decide (b.toNat ≤ a.toNat))
  | _ => none

/-- The hart after an integer instruction of `len` bytes without memory access or CSR: rd written, pc moved. -/
def rvPlain (w : BitVec 32) (len : W64) (h : Hart) : Option Hart :=
  let a := h.xr (fld w 19 15)
  let b := h.xr (fld w 24 20)
  let rd := fld w 11 7
  let f3 := fld w 14 12
  let f7 := fld w 31 25
  let put := fun (v : W64) => { h.setX rd v with pc := h.pc + len }
  match fld w 6 0 with
  | 0x37 => some (put (rvImmU w))
  | 0x17 => some (put (h.pc + rvImmU w))
  | 0x6F => some { h.setX rd (h.pc + len) with pc := h.pc + rvImmJ w }
  | 0x67 => if f3 = 0 then some { h.setX rd (h.pc + len) with pc := (a + rvImmI w) &&& ~~~1 } else none
  | 0x63 => (rvBranch f3 a b).map (fun t => { h with pc := h.pc + (if t then rvImmB w else len) })
  | 0x13 => (rvOpImm f3 w a).map put
  | 0x33 => (rvOp f7 f3 a b).map put
  | 0x1B => (rvOpImmW f3 w a).map put
  | 0x3B => (rvOpW f7 f3 (decide (fld w 24 20 = 0)) a b).map put
  | _ => none

/-! ## CSR, trap, return and wait instructions -/

/-- MRET: mode, enables and pc restored. -/
def hartMret (h : Hart) : Hart :=
  let st := h.mstatus.toNat
  let pp := fld h.mstatus 12 11
  let md := match pp with | 3 => Mode.m | 1 => Mode.s | _ => Mode.u
  let st := putFld (putFld (putFld st 3 1 (fld h.mstatus 7 7)) 7 1 1) 11 2 0
  { h with mode := md, pc := h.mepc, mstatus := BitVec.ofNat 64 (if pp = 3 then st else putFld st 17 1 0) }

/-- SRET. -/
def hartSret (h : Hart) : Hart :=
  let st := h.mstatus.toNat
  let md := if fld h.mstatus 8 8 = 1 then Mode.s else Mode.u
  let st := putFld (putFld (putFld (putFld st 1 1 (fld h.mstatus 5 5)) 5 1 1) 8 1 0) 17 1 0
  { h with mode := md, pc := h.sepc, mstatus := BitVec.ofNat 64 st }

/-- A CSR access that enables forbid: fcsr with FS off, vector CSRs with VS off, satp in S-mode under TVM, a counter below M-mode without
its bit of mcounteren (and in U-mode of scounteren). -/
def csrShut (h : Hart) (a : Nat) : Bool :=
  (decide (1 ≤ a ∧ a ≤ 3) && decide (fld h.mstatus 14 13 = 0)) ||
  (decide ((8 ≤ a ∧ a ≤ 15) ∨ (0xC20 ≤ a ∧ a ≤ 0xC22)) && decide (fld h.mstatus 10 9 = 0)) ||
  (decide (a = 0x180 ∧ h.mode = .s) && bit h.mstatus 20) ||
  (decide (0xC00 ≤ a ∧ a ≤ 0xC1F) &&
   ((decide (h.mode ≠ .m) && !(tget 0 h.csrs 0x306).getLsbD (a - 0xC00)) ||
    (decide (h.mode = .u) && !(tget 0 h.csrs 0x106).getLsbD (a - 0xC00))))

/-- CSRRW, CSRRS, CSRRC and their immediate forms. mk_slice and mk_split are written by the meanings of their own rows, which may
stall. -/
def hartCsr (w : BitVec 32) (d c : Nat) (s : State) : Host.Outcome State Fault Refusal :=
  let h := s.hart d c
  let f3 := fld w 14 12
  let a := fld w 31 20
  let r := fld w 19 15
  let src : W64 := if 4 ≤ f3 then BitVec.ofNat 64 r else h.xr r
  let write := decide (f3 % 4 = 1 ∨ r ≠ 0)
  if !csrAllowed h.mode a write || csrShut h a then .next (s.hartTrap d c false 2 (w.setWidth 64))
  else
    let old := csrValue s d c a
    let new := match f3 % 4 with
      | 1 => src
      | 2 => old ||| src
      | _ => old &&& ~~~src
    let rd := fld w 11 7
    if write && decide (a = 0x5C1 ∨ a = 0x5C2) then
      match (if a = 0x5C1 then execMkSlicePack new s else execMkSplitWrite new s) with
      | .next t => .next (if (t.hart d c).pc = h.pc + 4 then t.setHart d c ((t.hart d c).setX rd old) else t)
      | o => o
    else
      let k := if write then csrWrite (s.core d c) a new else s.core d c
      .next (s.setCore d c { k with hart := { k.hart.setX rd old with pc := h.pc + 4 } })

/-- ECALL, EBREAK, MRET, SRET, WFI, SFENCE.VMA (without effect, satp being Bare). None for any other word. -/
def hartSystem (w : BitVec 32) (d c : Nat) (s : State) : Option State :=
  let h := s.hart d c
  let illegal := s.hartTrap d c false 2 (w.setWidth 64)
  let next := fun (h : Hart) => s.setHart d c { h with pc := h.pc + 4 }
  if w = 0x00000073 then some (s.hartTrap d c false (8 + h.mode.rank) 0)
  else if w = 0x00100073 then some (s.hartTrap d c false 3 (s.free 0))
  else if w = 0x30200073 then some (if h.mode = .m then s.setHart d c (hartMret h) else illegal)
  else if w = 0x10200073 then
    some (if h.mode = .u ∨ (h.mode = .s ∧ bit h.mstatus 22) then illegal else s.setHart d c (hartSret h))
  else if w = 0x10500073 then
    some (if h.mode ≠ .m ∧ bit h.mstatus 21 then illegal else next { h with wfi := true })
  else if fld w 31 25 = 0x09 ∧ fld w 14 0 = 0x73 then
    some (if h.mode = .u ∨ (h.mode = .s ∧ bit h.mstatus 20) then illegal else next h)
  else none

/-- Vector instructions: VS, and for floating-point ones FS, is not off. None when reserved. -/
def rvVector (w : BitVec 32) (tick : Nat) (h : Hart) : Option Hart :=
  let f3 := fld w 14 12
  let fs := decide (fld h.mstatus 14 13 ≠ 0)
  if fld h.mstatus 10 9 = 0 then none
  else if f3 = 7 then vsetRun w h
  else if f3 = 1 ∨ f3 = 5 then (if fs then vFloat w tick h else none)
  else vInteger w tick h

/-- Instructions that change registers alone: integer, floating-point (FS not off) and vector ones. -/
def rvRegisters (w : BitVec 32) (len : W64) (tick : Nat) (h : Hart) : Option Hart :=
  match rvPlain w len h with
  | some h => some h
  | none =>
    (if fld w 6 0 = 0x57 then rvVector w tick h
     else if fld h.mstatus 14 13 = 0 then none
     else rvFloat w h).map (fun g => { g with pc := h.pc + len })

/-- A standard instruction of `len` bytes whose word is `w`; `raw` is what an illegal-instruction trap reports. -/
def standardWord (w raw : BitVec 32) (len : W64) (d c : Nat) (s : State) : Host.Outcome State Fault Refusal :=
  let h := s.hart d c
  let illegal := Host.Outcome.next (s.hartTrap d c false 2 (raw.setWidth 64))
  let op := fld w 6 0
  match rvRegisters w len s.tick h with
  | some h => .next (s.setHart d c h)
  | none =>
    if op = 0x73 then
      (if fld w 14 12 % 4 ≠ 0 then hartCsr w d c s
       else match hartSystem w d c s with | some t => .next t | none => illegal)
    else if (op = 0x07 ∨ op = 0x27) ∧ vWidth (fld w 14 12) ≠ 0 ∧ fld h.mstatus 10 9 ≠ 0 then vMemory w d c s
    else illegal

/-- A standard instruction of the hart: a 32-bit word, or a compressed one by the word it stands for. Any other word raises
illegal-instruction. -/
def standardRun (w : BitVec 32) (d c : Nat) (s : State) : Host.Outcome State Fault Refusal :=
  if fld w 1 0 = 3 then standardWord w w 4 d c s
  else
    match rvcExpand w.toNat with
    | none => .next (s.hartTrap d c false 2 (w.setWidth 64))
    | some x =>
      match hartAccessOf x with
      | some a => hartMemory 2 a s
      | none => standardWord x w 2 d c s

/-- A hart in WFI resumes once an interrupt that mie enables is pending, taken or not. -/
def wakeWfi (s : State) (d c : Nat) : State :=
  let k := s.core d c
  if k.hart.wfi && decide ((tget 0 k.hart.csrs 0x344 ||| pendingBits k) &&& k.hart.mie ≠ 0) then s.setHart d c { k.hart with wfi := false } else s

end Sys2Proof.Machine
end

