-- ==== Sys2Proof/Machine/Time.lean ====
section
/-! DEFINITION. What one cycle of a clock changes: a core's arithmetic clock (R99, R112, R147, R310) and a die controller's. -/

namespace Sys2Proof.Machine

/-- One cc of a context: a READY one ages, in the shadow set too (R99), a gang member waits (R310), the hart's too. -/
def Ctx.tick (x : Ctx) : Ctx :=
  { x with
    age := if x.state = .ready then x.age + 1 else x.age
    gangWait := if x.wait = some .gang ∧ ¬x.gangDone then x.gangWait + 1 else x.gangWait }

/-- One cc of a core: mk_cyc, the ages of its contexts, SHEAR_WAIT of a stalled Alloc (R147). -/
def Core.tick (k : Core) : Core :=
  let act : SetState := { k.act with
    ctxs := k.act.ctxs.map (fun p => (p.1, p.2.tick)), hgang := k.act.hgang.map (fun h => { h with wait := h.wait + 1 }) }
  let shd : SetState := { k.shd with ctxs := k.shd.ctxs.map (fun p =>
    (p.1, { p.2 with age := if p.2.state = .ready then p.2.age + 1 else p.2.age })) }
  let k : Core := { k with cyc := k.cyc + 1, act := act, shd := shd }
  if k.allocLive then
    ({ k with shear := { k.shear with stalled := k.shear.stalled + 1 } }).count 0 1
  else { k with shear := { k.shear with waiting := false, stalled := 0, forced := false } }

/-- What waits at a die's routers and drover queues is counted on the clock of its core 0: packets at an output (R445), stream
handles in a queue (R337). -/
def tickDie (s : State) (d : Nat) : State :=
  let v := s.die d
  let s := s.setDie d { v with dq := v.dq.map (fun q => (q.1, q.2.map (fun w => (w.1, w.2 + 1)))) }
  { s with net := s.net.map (fun q => if q.loc = d then { q with waited := q.waited + 1 } else q) }

/-- One cc of a core in service. -/
def tickCore (s : State) (d c : Nat) : State :=
  let k := s.core d c
  let s := if k.failed then s else s.setCore d c k.tick
  if c = 0 then tickDie s d else s

/-- One controller cycle of a slice (R426, R436), up to cycle `now`: REMAIN falls, and the time since PREQ grows. -/
def Slice.tick (now : W64) (x : Slice) : Slice :=
  { x with
    remain := if x.running then x.remain - (if x.remain = 0 then 0 else 1) else x.remain
    zeroAt := if x.running ∧ x.remain = 1 then some now else x.zeroAt
    since := if x.preq then x.since + 1 else x.since }

/-- Has every participant that this package holds of phase `n` of a pod-scope barrier arrived? -/
def podHere (s : State) (l u n : Nat) : Bool :=
  (tget {} s.launches l).away && !unstarted s l 5 u && s.allCtxs.all (fun x => !taskOf l 5 u x || joined x 5 n)

/-- The phases of pod-scope barriers that wait for other packages' tasks alone: launch, unit, phase. -/
def podWaits (s : State) : List (Nat × Nat × Nat) :=
  (s.allCtxs.filterMap (fun x => match x.launch, x.wait with
    | some l, some (.bar 5 n) => if podHere s l (unitOf 5 x.lco) n && !x.satisfied then some (l, unitOf 5 x.lco, n) else none
    | _, _ => none)).eraseDups

/-- Other packages' arrivals at pod-scope barriers: when the last of them comes in is a free choice (log entries 4, 25). -/
def podArrivals (s : State) : State :=
  (podWaits s).foldl (fun s w =>
    if Config.freePick (s.tick * 65536 + w.1) % 2 = 1 then s.mapSets (wakeUnit w.1 5 w.2.1 w.2.2) else s) s

/-- The join unit of a die in a cycle: groups return to FREE, and those that wait to write their records go on (R381). -/
def tickGroups (s : State) (d : Nat) : State := ((s.die d).groups.map (·.1)).foldl (fun s i => goGroup d (reapGroup d s i) i) s

/-- One cycle of a die controller (R428). -/
def tickController (s : State) (d : Nat) : State :=
  let s := tickGroups (podArrivals s) d
  let v := s.die d
  s.setDie d { v with dcyc := v.dcyc + 1, slices := v.slices.map (fun p => (p.1, p.2.tick (v.dcyc + 1))) }

end Sys2Proof.Machine
end

