-- ==== Sys2Proof/Machine/Step.lean ====
section
/-! DEFINITION. One step of the module: whose turn it is, and what that agent does with it. -/

namespace Sys2Proof.Machine

/-- The next turn: the head of the schedule, else a free choice (log entry 2). -/
def State.turn (s : State) : Turn := s.sched.headD (Config.freeTurn s.tick)

/-- The state in which a turn is taken: the schedule moves on. -/
def State.turned (s : State) : State := { s with sched := s.sched.tail, tick := s.tick + 1 }

/-- A turn of slot (d, c, i): a stray of a stopped flock leaves its slot (R434), a slot that waits in a block lets it pass (R101); else
the instruction at IP executes. -/
def slotTurn (s : State) : Host.Outcome State Fault Refusal :=
  match s.env? with
  | none => .next s
  | some e =>
    if turnLeaves s e then
      .next ((s.setAct e.d e.c (leaveStray (s.act e.d e.c) e.sl)).setPend (agentOf e) {})
    else if turnUnused s e then .next s
    else
      let again := (s.slotOf e).stalled
      match slotFetch (s.matched (agentOf e) again (fetchVas s e)) e with
      | .run i s' => exec i (s'.matched (agentOf e) again (accessVas i s' e))
      | .done s' => .next s'

/-- A turn of a hart. -/
def hartTurn (s : State) (d c : Nat) : Host.Outcome State Fault Refusal :=
  if (s.hart d c).wfi then .next (wakeWfi s d c)
  else
    let s := s.matched (.hart d c) (s.hart d c).busy (hartVas s d c)
    match hartWord s d c with
    | .error (.exc cause tval) => .next (s.hartTrap d c false cause tval)
    | .error (.stall s') => .next s'
    | .error _ => .next s
    | .ok w =>
      match hartInstr w with
      | some i => exec i s
      | none => standardRun w d c s

/-- Steps that no agent's code encodes: what an `event` turn may name. -/
def isEvent (i : Instr) : Bool :=
  (encode i).isNone &&
  (match i with
   | .reservedOpcode | .illegalLine | .custom0Reserved _ | .hartMemoryAccess _ | .hartFence _ => false
   | _ => true)

/-- Steps that happen in a module that has not started, or is held in reset (R491, R495, R496). -/
def alwaysOn (i : Instr) : Bool :=
  match i with
  | .moduleReset | .configRequest _ _ | .supplyFault | .thermalTrip _ | .linkUp _ | .linkDown _ | .pbctlWrite _
  | .mctpTelemetry _ | .mctpAttestation _ | .mctpImageStage _ | .mctpKeyLoad _ | .mctpKeyClear _ | .mctpDebugAuth _
  | .mctpDebugRevoke _ | .mctpControl _ => true
  | _ => false

/-- What a turn does. While the module has not started, and on a core out of service, agents' turns pass unused. -/
def takeTurn (t : Turn) (s : State) : Host.Outcome State Fault Refusal :=
  match t with
  | .run a =>
    if s.boot ≠ 5 ∨ (s.core a.die a.core).failed then .next s
    else
      match a with
      | .slot d c i => slotTurn { s with cur := .slot d c i }
      | .hart d c => hartTurn { s with cur := .hart d c } d c
  | .event i => if isEvent i && (decide (s.boot = 5) || alwaysOn i) then exec i s else .next s
  | .cc d c => .next (if s.boot = 5 then tickCore s d c else s)
  | .dcc d => .next (if s.boot = 5 then tickController s d else s)
  | .bar2Write port fn off bytes relaxed => .next (if s.boot = 5 then bar2Write s port fn off bytes relaxed else s)
  | .bar2Read port fn off n => .next (if s.boot = 5 then bar2Read s port fn off n else s)
  | .flaw w corrected => .next (if s.boot = 5 then strike s w corrected else s)

/-- One step. -/
def step (s : State) : Host.Outcome State Fault Refusal := takeTurn s.turn s.turned

/-! ## Placing an instruction where step fetches it -/

/-- Where a placed Makel line lies: virtual line address. -/
abbrev placeVa : Nat := 0x100000

/-- The state in which slot 0 of core 0 of die 0 is a stray that fetches line `l` next: its context, the right to fetch, the
line in the die's fabric cache, and its turn. -/
def placeLine (s : State) (l : Line) : State :=
  let v := s.die 0
  let k := v.core 0
  let x := { blankCtx with wp := 0x2100, wsz := 128, wgen := 1, state := .bound, ip := BitVec.ofNat 64 (placeVa + 1) }
  let a := k.act.setCtx 0 { x with inc := (k.act.ctx 0).inc }
  let a := a.setSlot 0 { mode := .stray, ix := 0 }
  let e : PlbEntry := { v := true, r := true, w := true, x := true, e := true, k := true, pcnt := 1, base := BitVec.ofNat 64 placeVa }
  let k := { k with act := a, plb := tset {} k.plb 0 e, stopped := false, swap := .none }
  let v := { v.setCore 0 k with fab := tins v.fab placeVa (mkFa s.pkg.toNat 0 3 0 placeVa, l) }
  { s.setDie 0 v with sched := [.run (.slot 0 0 0)] }

/-- The state in which the hart of core 0 of die 0 fetches word `w` next, from the save area. -/
def placeWord (s : State) (w : Nat) : State :=
  let a := saveWrite (s.act 0 0) 0x1000 4 w
  let s := s.setAct 0 0 a
  let h := s.hart 0 0
  { s.setHart 0 0 { h with pc := 0x1000, wfi := false } with sched := [.run (.hart 0 0)] }

/-- `s` with a table word stored where `step` fetches its next instruction (log entry 6). -/
def State.withFetchWord (s : State) (nbits w : Nat) : State :=
  match tableCode nbits w with
  | none => s
  | some (.xm v) => placeWord s v.toNat
  | some c => placeLine s (lineOf c)

end Sys2Proof.Machine
end

