-- ==== Sys2Proof/Safety.lean ====
section
/-! DEFINITION. What counts as a safe run, and the terms in which claims about single instructions are stated: the checks an
instruction has passed, what its completion leaves behind, what it may change. -/

namespace Sys2Proof

open Machine

/-- `t` is reached from `s` by `n` steps, each of which answered a next state. -/
def Reaches : Nat → State → State → Prop
  | 0, s, t => s = t
  | n + 1, s, t => ∃ u, step s = .next u ∧ Reaches n u t

/-- `n` steps from `s` are safe: none of them faults or is refused. -/
def Safe : Nat → State → Prop
  | 0, _ => True
  | n + 1, s => ∃ u, step s = .next u ∧ Safe n u

/-- The state in which the agent whose turn comes acts: the schedule has moved on, and the agent is the current one. -/
def onTurn (s : State) (a : Agent) : State := { s.turned with cur := a }

/-! ## A Makel instruction that has passed the checks of R71 -/

/-- It is the turn of the context in `e`, and `i` passes ranks 3 and 4 of R71: `b` lists the bound source registers that it
pops, each of which holds a packet (R96). -/
def Ready (i : Instr) (s : State) (e : Env) (b : List Nat) : Prop :=
  s.env? = some e ∧ ∃ u, i.use? = some u ∧ ctxChecks s e u = .ok b

/-- What completion adds to an instruction's effect: no wait is left behind, and the bound source registers are popped. -/
def finished (e : Env) (b : List Nat) (t : State) : State :=
  let t := endWait t e
  if b.isEmpty then t else t.setAct e.d e.c (popSrcs (t.act e.d e.c) e.ix b)

/-- Completion of an instruction that goes on to the next one. -/
def goesOn (e : Env) (b : List Nat) (t : State) : State := finished e b (advance t e)

/-- Completion of an instruction whose effect is on its core's active set alone. -/
def writes (s : State) (e : Env) (b : List Nat) (a : SetState) : State := goesOn e b (s.setAct e.d e.c a)

/-- What a turn of instruction `i` leaves when it takes `n` beats and `t` is its completion (R91, R178): until its last beat the slot holds what
the first one read and nothing else changes; an instruction of one beat completes at its turn. -/
def onBeat (i : Instr) (n : Nat) (s : State) (e : Env) (t : State) : State :=
  match i.use? with
  | some u =>
    let x := beatOf n u s e
    if n ≤ 1 ∨ x.left ≤ 1 then t else keepBeat s e { x with left := x.left - 1 }
  | none => t

/-- Completion of an instruction that goes to `ip` (R107), with the active set `a` otherwise. -/
def jumps (s : State) (e : Env) (b : List Nat) (a : SetState) (ip : W64) : State := finished e b (s.setAct e.d e.c (goto a e ip))

/-- The register values an instruction reads are there: `regRead` answers `v` (R85). -/
def Reads (s : State) (e : Env) (r : BitVec 7) (v : W128) : Prop := regRead (s.act e.d e.c) e.ix r.toNat = .ok v

/-- A group of registers reads as `v` (R62). -/
def ReadsGrp (s : State) (e : Env) (sh : BitVec 2) (r : BitVec 7) (v : Nat) : Prop := grpRead (s.act e.d e.c) e.ix sh r = .ok v

/-- The active set of the core in `e` with register `r` written whole. -/
def withReg (s : State) (e : Env) (r : BitVec 7) (v : Nat) : SetState := regWrite (s.act e.d e.c) e.ix r.toNat v allBytes

/-! ## Integer operations on words of the element width (R164 to R167) -/

/-- An element as the integer its type gives it. -/
def intVal {w : Nat} (sg : Bool) (x : BitVec w) : Int := if sg then x.toInt else x.toNat

/-- An integer saturated to the range of a signed or unsigned type of width `w`. -/
def satOf (w : Nat) (sg : Bool) (z : Int) : BitVec w :=
  BitVec.ofInt w (if sg then max (-(2 ^ (w - 1) : Nat)) (min ((2 ^ (w - 1) : Nat) - 1) z) else max 0 (min ((2 ^ w : Nat) - 1) z))

/-- A packed integer instruction: destination, tail (form S as the form V it stands for), whether C is a count with IMM, and the result
of one element of width `w` and signedness `sg` from its elements of B and C. -/
def intOp : Instr → Option (BitVec 7 × TailV × Bool × ((w : Nat) → Bool → BitVec w → BitVec w → BitVec w))
  | .addS d t => some (d, tailSV t, false, fun _ _ x y => x + y)
  | .addV d t => some (d, t, false, fun w sg x y => if t.f = 1 then satOf w sg (intVal sg x + intVal sg y) else x + y)
  | .subS d t => some (d, tailSV t, false, fun _ _ x y => x - y)
  | .subV d t => some (d, t, false, fun w sg x y => if t.f = 1 then satOf w sg (intVal sg x - intVal sg y) else x - y)
  | .mulS d t => some (d, tailSV t, false, fun _ _ x y => x * y)
  | .mulV d t => some (d, t, false, fun _ _ x y => x * y)
  | .mulhS d t => some (d, tailSV t, false, mulHigh)
  | .mulhV d t => some (d, t, false, mulHigh)
  | .divS d t => some (d, tailSV t, false, quotient)
  | .divV d t => some (d, t, false, quotient)
  | .remS d t => some (d, tailSV t, false, remainder)
  | .remV d t => some (d, t, false, remainder)
  | .andS d t => some (d, tailSV t, false, fun _ _ x y => x &&& y)
  | .andV d t => some (d, t, false, fun _ _ x y => x &&& y)
  | .orS d t => some (d, tailSV t, false, fun _ _ x y => x ||| y)
  | .orV d t => some (d, t, false, fun _ _ x y => x ||| y)
  | .xorS d t => some (d, tailSV t, false, fun _ _ x y => x ^^^ y)
  | .xorV d t => some (d, t, false, fun _ _ x y => x ^^^ y)
  | .andnS d t => some (d, tailSV t, false, fun _ _ x y => x &&& ~~~y)
  | .andnV d t => some (d, t, false, fun _ _ x y => x &&& ~~~y)
  | .minS d t => some (d, tailSV t, false, fun _ sg x y => if intVal sg x ≤ intVal sg y then x else y)
  | .minV d t => some (d, t, false, fun _ sg x y => if intVal sg x ≤ intVal sg y then x else y)
  | .maxS d t => some (d, tailSV t, false, fun _ sg x y => if intVal sg x ≤ intVal sg y then y else x)
  | .maxV d t => some (d, t, false, fun _ sg x y => if intVal sg x ≤ intVal sg y then y else x)
  | .shlS d t => some (d, tailSV t, false, fun w _ x y => x <<< (y.toNat % w))
  | .shlV d t => some (d, t, t.f.getLsbD 0, fun w _ x y => x <<< (y.toNat % w))
  | .shrS d t => some (d, tailSV t, false, fun w _ x y => x >>> (y.toNat % w))
  | .shrV d t => some (d, t, t.f.getLsbD 0, fun w _ x y => x >>> (y.toNat % w))
  | .sraS d t => some (d, tailSV t, false, fun w _ x y => x.sshiftRight (y.toNat % w))
  | .sraV d t => some (d, t, t.f.getLsbD 0, fun w _ x y => x.sshiftRight (y.toNat % w))
  | .rotS d t => some (d, tailSV t, false, fun w _ x y => x.rotateLeft (y.toNat % w))
  | .rotV d t => some (d, t, t.f.getLsbD 0, fun w _ x y => x.rotateLeft (y.toNat % w))
  | _ => none
where
  /-- The upper half of the double-width product. -/
  mulHigh (w : Nat) (sg : Bool) (x y : BitVec w) : BitVec w :=
    ((if sg then x.signExtend (2 * w) * y.signExtend (2 * w) else x.zeroExtend (2 * w) * y.zeroExtend (2 * w)).extractLsb' w w)
  /-- The quotient, truncated; all ones for a zero divisor. -/
  quotient (w : Nat) (sg : Bool) (x y : BitVec w) : BitVec w :=
    if y = 0 then BitVec.allOnes w else if sg then x.sdiv y else x / y
  /-- The remainder; the dividend for a zero divisor. -/
  remainder (w : Nat) (sg : Bool) (x y : BitVec w) : BitVec w := if sg then x.srem y else x % y

/-! ## Floating-point operations element by element (R180 to R193) -/

/-- The exact value of a finite number. -/
def ratOf : FVal → Option Rat
  | .fin n m e => some ((if n then -(m : Rat) else (m : Rat)) * 2 ^ e)
  | _ => none

/-- A packed floating-point instruction: destination, tail, whether the groups of C and of the destination are sources, and an element's
result bits and flags from its elements of B, C and the destination. -/
def fpOp : Instr → Option (BitVec 7 × TailV × Bool × Bool × (FpElt → Nat → Nat → Nat → Nat × Nat))
  | .fadd d t => some (d, t, true, false, fun k b c _ => k.round (addF k.env.mode (k.rd b) (k.rd c)))
  | .fsub d t => some (d, t, true, false, fun k b c _ => k.round (addF k.env.mode (k.rd b) (k.rd c).neg))
  | .fmul d t => some (d, t, true, false, fun k b c _ => k.round (mulF (k.rd b) (k.rd c)))
  | .fdiv d t => some (d, t, true, false, fun k b c _ => divF k.f k.env (k.rd b) (k.rd c))
  | .fma d t => some (d, t, true, true, fun k b c o =>
      k.round (fmaF k.env.mode (if t.f.getLsbD 0 then (k.rd b).neg else k.rd b) (k.rd c) (if t.f.getLsbD 1 then (k.rd o).neg else k.rd o)))
  | .fsqrt d t => some (d, t, false, false, fun k b _ _ => sqrtF k.f k.env (k.rd b))
  | .fmin d t => some (d, t, true, false, fun k b c _ => pickNum k false b c)
  | .fmax d t => some (d, t, true, false, fun k b c _ => pickNum k true b c)
  | .fsgn d t => some (d, t, true, false, fun k b c _ => fsgnEl k t.f.toNat b c)
  | .frnd d t => some (d, t, false, false, fun k b _ _ =>
      frndEl k (if t.f.toNat % 8 = 0 then k.env.mode else t.f.toNat % 8 - 1) (t.f.getLsbD 3) b)
  | .fcls d t => some (d, t, false, false, fun k b _ _ => (fclsEl k b, 0))
  | .frcp d t => some (d, t, false, false, fun k b _ _ => frcpEl k.f k.env (freeApprox 0 k b) (k.rd b))
  | .frsq d t => some (d, t, false, false, fun k b _ _ => frsqEl k.f k.env (freeApprox 1 k b) (k.rd b))
  | .fexp2 d t => some (d, t, false, false, fun k b _ _ => fexp2El k.f k.env (freeApprox 2 k b) (k.rd b))
  | .flog2 d t => some (d, t, false, false, fun k b _ _ => flog2El k.f k.env (freeApprox 3 k b) (k.rd b))
  | .fsin d t => some (d, t, false, false, fun k b _ _ => fsinEl k.f k.env (freeApprox 4 k b) (k.rd b))
  | .fcos d t => some (d, t, false, false, fun k b _ _ => fcosEl k.f k.env (freeApprox 5 k b) (k.rd b))
  | .ftanh d t => some (d, t, false, false, fun k b _ _ => ftanhEl k.f k.env (freeApprox 6 k b) (k.rd b))
  | _ => none

/-- The flags that the enabled elements among the first `n` raise, together. -/
def raisedBy (on : Nat → Bool) (fl : Nat → Nat) (n : Nat) : BitVec 11 :=
  (List.range n).foldl (fun v k => if on k then v ||| BitVec.ofNat 11 (fl k % 32) else v) 0

/-- An active set with flags ORed into %fpc of the context in `e`, and nothing else of the descriptor changed. -/
def withFlags (a : SetState) (e : Env) (fl : BitVec 11) : SetState := a.setCtx e.ix { a.ctx e.ix with fpc := (a.ctx e.ix).fpc ||| fl }

/-- The handle of the stream that the context in `e` draws from: its own, or the one its draw has been forwarded to (R340). -/
def drawn (s : State) (e : Env) : BitVec 32 := (s.pend (agentOf e)).fwd.getD (s.ctx e).stream

/-! ## A request that its stream processor serves (R333, R340, R342) -/

/-- The stream that `h` names answers the context in `e` at once: the context's stores are performed, the handle (as forwarded) names descriptor
`si` of die `sd`, whose record holds no error, which is of the context's domain, not MIGRATING and not posting. -/
def Serves (s : State) (e : Env) (h : BitVec 32) (sd si : Nat) : Prop :=
  lastStore (s.core e.d e.c) e.ix (s.ctx e).inc = 0 ∧
  s.streamAway ((s.pend (agentOf e)).fwd.getD h) = false ∧ s.streamOf ((s.pend (agentOf e)).fwd.getD h) = some (sd, si) ∧
  streamError s sd si false = none ∧
  (s.stream sd si).dom = (s.ctx e).dom ∧ (s.stream sd si).st ≠ .migrating ∧ (s.stream sd si).posting = false

/-- Completion of an instruction that answers a value in `wD` and leaves nothing pending. -/
def answers (s : State) (e : Env) (b : List Nat) (d : BitVec 7) (v : Nat) : State :=
  goesOn e b (endAccess (s.setAct e.d e.c (regWrite (s.act e.d e.c) e.ix d.toNat v allBytes)) (agentOf e))

/-- A request on the stream that W(B) names (R342): destination and tail, whether a MIGRATING stream answers it BUSY, the result word of a
status, and what of its other operands is read and checked before the stream is looked at. -/
def streamOp (s : State) (e : Env) : Instr → Option (BitVec 7 × TailV × Bool × (Nat → Nat) × Prop)
  | .sfork d t => some (d, t, true, handleStatus noHandle,
      (∃ c, Reads s e t.c c ∧ fld c 59 56 = 0 ∧ fld c 51 32 = 0) ∧ notNone t.b)
  | .sprune d t => some (d, t, true, id, True)
  | .sret d t => some (d, t, false, id, (∃ c, Reads s e t.c c) ∧ (s.pend (agentOf e)).ask ≠ .post)
  | .sadv d t => some (d, t, false, id, (∃ c, Reads s e t.c c) ∧ (s.pend (agentOf e)).ask ≠ .post)
  | .sactPush d t => some (d, t, false, id, ∃ r, regsRead (s.act e.d e.c) e.ix t.c.toNat 4 = .ok r)
  | .sactPop d t => some (d, t, false, id, True)
  | .sactPeek d t => some (d, t, false, id, True)
  | .scommitBegin d t => some (d, t, false, id, True)
  | .scommitCommit d t => some (d, t, false, id, True)
  | .scommitDiscard d t => some (d, t, false, id, True)
  | .ssetBind d t => some (d, t, false, id, notNone t.b)
  | .ssetPrio d t => some (d, t, false, id, masked t.c 7)
  | .ssetModel d t => some (d, t, false, id, masked t.c 0x1FFFF0FFFFFFF)
  | .ssetJoin d t => some (d, t, false, id, masked t.c 0xFFFFFFFF)
  | .ssetRun d t => some (d, t, false, id, masked t.c 1)
  | .ssetRng d t => some (d, t, false, id, masked t.c (2 ^ 128 - 1))
  | .ssetQueue d t => some (d, t, false, id, masked t.c ((2 ^ 64 - 1) * 2 ^ 64 + 0xF * 2 ^ 60))
  | .ssetPen d t => some (d, t, false, id, masked t.c 1)
  | .shor d t => some (d, t, false, id, t.f.getLsbD 0 = true → ∃ c, Reads s e t.c c)
  | _ => none
where
  /-- W(r) does not hold the word that names no stream. -/
  notNone (r : BitVec 7) : Prop := ∀ v, Reads s e r v → (v.setWidth 32 : BitVec 32) ≠ noHandle
  /-- W(r) holds no bit outside the operation's fields. -/
  masked (r : BitVec 7) (m : Nat) : Prop := ∃ c, Reads s e r c ∧ c.toNat &&& (2 ^ 128 - 1 - m) = 0

/-! ## An Xmakel instruction (R72 to R74) -/

/-- It is the turn of the hart of core `c` of die `d`, which does not wait in WFI; the fields that the instruction does not use are zero and
its privilege `least` is there (R74). -/
def HartReady (least : Mode) (r : RType) (u : RUse) (s : State) (d c : Nat) : Prop :=
  s.cur = .hart d c ∧ (s.hart d c).wfi = false ∧ rOnly r u = true ∧ least.rank ≤ (s.hart d c).mode.rank

/-- Completion of an instruction of the hart: rd takes `v`, the pc moves on by four, and nothing of it waits any more. -/
def hartGoesOn (t : State) (d c : Nat) (r : RType) (v : W64) : State :=
  let h := (t.hart d c).setX r.rd.toNat v
  t.setHart d c { h with pc := h.pc + 4, busy := false }

/-- No register named: an instruction of the hart whose registers are not part of its row. -/
def noRegs : RType := { rd := 0, rs1 := 0, rs2 := 0 }

/-- The values of rs1 and rs2. -/
def hartA (s : State) (d c : Nat) (r : RType) : W64 := (s.hart d c).xr r.rs1.toNat
def hartB (s : State) (d c : Nat) (r : RType) : W64 := (s.hart d c).xr r.rs2.toNat

/-- A slot in mode `m`. -/
def inMode (a : SetState) (m : SlotMode) (i : Nat) : Bool := decide ((a.slot i).mode = m)

/-- The least privilege of an Xmakel instruction, its fields, and which of them it uses (R133 to R141). -/
def xmOp : Instr → Option (Mode × RType × RUse)
  | .mkBcast r => some (.u, r, { rd := true, rs1 := true, rs2 := true })
  | .mkLoose r => some (.u, r, { rd := true, rs1 := true, rs2 := true })
  | .mkStopped r => some (.u, r, { rd := true })
  | .mkWaitf r => some (.u, r, { rd := true, rs1 := true })
  | .mkHaltf r => some (.u, r, { rd := true, rs1 := true })
  | .mkLink r => some (.u, r, { rd := true, rs1 := true, rs2 := true })
  | .mkCtxnew r => some (.u, r, { rd := true, rs1 := true, rs2 := true })
  | .mkCtxfree r => some (.u, r, { rd := true, rs1 := true })
  | .mkBind r => some (.u, r, { rd := true, rs1 := true, rs2 := true })
  | .mkUnbind r => some (.u, r, { rd := true, rs1 := true, rs2 := true })
  | .mkRunq r => some (.u, r, { rd := true, rs1 := true, rs2 := true })
  | .mkUpret r => some (.u, r, { rd := true, rs1 := true, rs2 := true })
  | .mkMigr r => some (.u, r, { rd := true, rs1 := true, rs2 := true })
  | .mkGennew r => some (.u, r, { rd := true, rs1 := true, rs2 := true })
  | .mkCwait r => some (.u, r, { rd := true, rs1 := true, rs2 := true })
  | .mkCsig r => some (.u, r, { rs1 := true, rs2 := true })
  | .mkCset r => some (.u, r, { rs1 := true, rs2 := true })
  | .mkCget r => some (.u, r, { rd := true, rs1 := true })
  | .mkEngw r => some (.u, r, { rs1 := true, rs2 := true })
  | .mkEngr r => some (.u, r, { rd := true, rs1 := true })
  | .mkShswap r => some (.m, r, { rd := true })
  | .mkFreeze r => some (.s, r, { rd := true, rs1 := true, rs2 := true })
  | .mkThaw r => some (.m, r, { rd := true, rs1 := true, rs2 := true })
  | .mkPlbw r => some (.s, r, { rs1 := true, rs2 := true })
  | .mkPlbinv r => some (.s, r, { rs1 := true, rs2 := true })
  | .mkDbgrd r => some (.m, r, { rd := true, rs1 := true })
  | .mkDbgwr r => some (.m, r, { rs1 := true, rs2 := true })
  | _ => none

/-! ## What an instruction leaves unchanged -/

/-- Outside core `c` of die `d` nothing changes. -/
def OnlyCore (s t : State) (d c : Nat) : Prop :=
  { t with dies := s.dies } = s ∧
  (∀ j, j ≠ d → t.die j = s.die j) ∧ { t.die d with cores := (s.die d).cores } = s.die d ∧
  (∀ j, j ≠ c → t.core d j = s.core d j)

/-- Of a core only the active set changes. -/
def OnlyActive (s t : State) (d c : Nat) : Prop := OnlyCore s t d c ∧ { t.core d c with act := (s.core d c).act } = s.core d c

/-- Of an active set only workspace and other paddock granules, channel queues, the descriptor of the context in `e` and its
slot change; of the descriptor only the instruction pointer, what the thread engine keeps of a wait, and %fpc. -/
def OnlyRegisters (s t : State) (e : Env) : Prop :=
  OnlyActive s t e.d e.c ∧
  let a := s.act e.d e.c
  let a' := t.act e.d e.c
  { a' with pad := a.pad, chq := a.chq, ctxs := a.ctxs, slots := a.slots } = a ∧
  (∀ j, j ≠ e.ix → a'.ctx j = a.ctx j) ∧ (∀ j, j ≠ e.sl → a'.slot j = a.slot j) ∧
  { a'.ctx e.ix with ip := (a.ctx e.ix).ip, fell := (a.ctx e.ix).fell, wait := (a.ctx e.ix).wait,
                     satisfied := (a.ctx e.ix).satisfied, fpc := (a.ctx e.ix).fpc } = a.ctx e.ix

/-- `t` without what the freezing of the context in `e` itself changes when it consumes an uncorrected error (R441, R465): the die's error count and
its report, the notice, the core's FRZ, and what the descriptor keeps of a freeze. -/
def unfrozen (s t : State) (e : Env) : State :=
  if (t.ctx e).state = .frozen then
    let t := { t with postBox := { t.postBox with lost := s.postBox.lost }, notices := s.notices }
    let t := t.setDie e.d { t.die e.d with errs := (s.die e.d).errs, reports := (s.die e.d).reports }
    let t := t.setCore e.d e.c { t.core e.d e.c with frz := (s.core e.d e.c).frz }
    t.setCtx e { t.ctx e with prior := (s.ctx e).prior, frozenErr := (s.ctx e).frozenErr }
  else t

/-- A faulting instruction has left its context parked, or frozen as well. -/
def faulted (x : Ctx) : Prop := x.state = .parked ∨ x.state = .frozen

/-- Nothing changes but what one context's instruction may change when it completes, waits, stalls or faults: in the active set of its core
granules, its own channel queues, its slot, the addresses under which cached lines are found (R405), and of its descriptor the instruction
pointer, the state, the wait, the fault record and %fpc; its slot's pending access; and, when it faults, the upcall queue or FMASK with FIRST and
FCODE, and what a freeze changes. -/
def OnlyContext (s u : State) (e : Env) : Prop :=
  let t := unfrozen s u e
  OnlyCore s t e.d e.c ∧
  let k := s.core e.d e.c
  let k' := t.core e.d e.c
  let a := k.act
  let a' := k'.act
  { k' with act := a, pend := k.pend } = k ∧ (∀ j, j ≠ e.sl → k'.pendOf j = k.pendOf j) ∧
  { a' with pad := a.pad, chq := a.chq, ctxs := a.ctxs, slots := a.slots, upq := a.upq, fmask := a.fmask, first := a.first,
            ffcode := a.ffcode, lines := a.lines } = a ∧
  (∀ q, (tfind a'.lines q).map (fun l => (l.data, l.dirty)) = (tfind a.lines q).map (fun l => (l.data, l.dirty))) ∧
  (∀ q, q / 8 ≠ e.ix → tget [] a'.chq q = tget [] a.chq q) ∧
  (∀ j, j ≠ e.ix → a'.ctx j = a.ctx j) ∧ (∀ j, j ≠ e.sl → a'.slot j = a.slot j) ∧
  (let x := a.ctx e.ix
   { a'.ctx e.ix with
     ip := x.ip, state := x.state, fcode := x.fcode, faux := x.faux, faddr := x.faddr, fpc := x.fpc, why := x.why, wk := x.wk,
     wt := x.wt, herd := x.herd, fell := x.fell, inBlock := x.inBlock, wait := x.wait, satisfied := x.satisfied,
     gangFault := x.gangFault } = x) ∧
  (¬faulted (a'.ctx e.ix) →
    a'.upq = a.upq ∧ a'.fmask = a.fmask ∧ a'.first = a.first ∧ a'.ffcode = a.ffcode ∧
    (a'.ctx e.ix).fcode = (a.ctx e.ix).fcode ∧ (a'.ctx e.ix).faux = (a.ctx e.ix).faux ∧ (a'.ctx e.ix).faddr = (a.ctx e.ix).faddr)

/-- The granules of `n` registers from `d`, and that of a predicate register. -/
def regGrans (x : Ctx) (d n : Nat) : List Nat := (List.range n).map (fun i => x.gran (d + i))
def predGran (x : Ctx) (n : Nat) : List Nat := [(x.wp.toNat - 128) / 16 + n / 2]

/-- The granules that an instruction whose result goes to registers alone may write: its destination registers, or its destination
predicate register. -/
def granTargets (x : Ctx) (i : Instr) : Option (List Nat) :=
  let one := fun (d : BitVec 7) => some (regGrans x d.toNat 1)
  let grp := fun (d : BitVec 7) (t : TailV) => some (regGrans x d.toNat (shRegs t.sh.toNat))
  let mem := fun (d : BitVec 7) (t : TailM) => some (regGrans x d.toNat (szRegs t.sz))
  let sides := fun (d : BitVec 7) (t : TailV) => some (regGrans x d.toNat (sidesOf t.sh (tyBits (t.f.toNat % 32)) (tyBits t.ty.toNat)).dn)
  match intOp i, fpOp i with
  | some (d, t, _), _ => grp d t
  | none, some (d, t, _) => grp d t
  | none, none =>
    match i with
    | .nop _ | .bra _ _ | .fetch _ _ => some []
    | .call d _ | .jmpx d _ | .loop d _ => one d
    | .abs d t | .neg d t | .clz d t | .popc d t | .madd d t | .sel d t | .bext d t | .bins d t | .shuf d t | .satn d t
    | .doti d t | .fscl d t | .fdot d t | .rope d t | .movx d t | .gath d t | .ttpos d t | .ttpath d t => grp d t
    | .addi d _ | .movi d _ | .movq d _ | .lea d _ | .cyc d | .sysr d _ | .lnkr d _ | .genq d _ | .genqGran d _ | .fred d _
    | .imax d _ | .qntScl d _ | .ttposHdr d _ | .sdesc d _ | .rlq d _ => one d
    | .cmp d _ | .fcmp d _ | .plog d _ => some (predGran x d.toNat)
    | .pmov d t => if t.f = 0 then one d else some (predGran x d.toNat)
    | .ttanc d t => if t.f.getLsbD 2 then some (predGran x d.toNat) else one d
    | .ttmask d _ => some (regGrans x d.toNat 2)
    | .fcvt d t => if convMode x.fpc (t.f.toNat / 32) = 5 then none else sides d t
    | .qnt d t | .dqnt d t => sides d t
    | .ld d t | .ldg d t | .ldnc d t => mem d t
    | .atom d _ | .cas d _ => one d
    | _ => none

/-- The instructions that raise floating-point flags. -/
def mayRaise (i : Instr) : Bool :=
  (fpOp i).isSome ||
  match i with
  | .fscl _ _ | .fcmp _ _ | .fred _ _ | .imax _ _ | .fdot _ _ | .fcvt _ _ | .qnt _ _ | .dqnt _ _ | .qntScl _ _ | .rope _ _ => true
  | _ => false

/-- No granule but those listed changes. -/
def OnlyGranules (s t : State) (e : Env) (gs : List Nat) : Prop :=
  ∀ g, g ∉ gs → tget {} (t.act e.d e.c).pad g = tget {} (s.act e.d e.c).pad g

/-! ## An invariant -/

/-- The three byte memories are in canonical form: addresses strictly rising, no entry equal to what an unlisted one reads as. -/
def MemInv (s : State) : Prop := memWf s.mem = true ∧ memWf s.host = true ∧ memWf s.pool = true

end Sys2Proof
end

