-- ==== Sys2Proof/Certificates/Slice0/Obligations.lean ====
section
/-! DEFINITION. The statements for the provers, from the numbered rules of the manual. -/

open Sys2Proof Sys2Proof.Machine

/-! ## Encoding and fetching -/

/-- Words written out from the manual's own encodings decode to what they stand for: chapter 04's STOP (0x0300) and CALL example, chapter
05's MK.BCAST (0x00B5060B) among custom-0 words, chapter 11's STG with a 64-bit tail and its LDG, chapter 12's and 16's worked
examples (CWAIT and JOPEN among them); the reserved major 0x0E, a tail length SUB does not have and a reserved funct3 have no instruction. -/
def Obligations.SampleWordsDecode : Prop :=
  decode (.zero 0x0300) = .ok (.stop 0) ∧
  decode (.four 0xF083 0x0401800000000000) =
    .ok (.stg 3 { b := 2, c := 0, sz := 3, sx := false, sc := 0, xi := false, p := 0, pn := false, ord := 0, scope := 0, hint := 0,
                  aop := 0, off := 0 }) ∧
  decode (.xm 0x00B5060B) = .ok (.mkBcast { rd := 12, rs1 := 10, rs2 := 11 }) ∧
  decode (.two 0xB800 0x00100001) = .ok (.cwait 0 { b := 0, imm := 0x100001 }) ∧
  decode (.two 0xBE85 0x020C0000) =
    .ok (.jopen 5 { b := 1, c := 3, ty := 0, sh := 0, p := 0, pn := false, f := 0 }) ∧
  decode (.zero 0x0700) = .error (.reservedMajor 0x0E) ∧ decode (.zero 0x0500) = .error (.tailLength 0x0A 0) ∧
  decode (.xm 0x0000400B) = .error (.custom0 0x0000400B)

/-- No bit of an encoding is dropped: for every well-formed instruction that has words, decoding its words gives it back; and
every Makel and Xmakel instruction has words. -/
def Obligations.DecodeEncode : Prop :=
  ∀ i : Instr, i.wf = true →
    (∀ c, encode i = some c → decode c = .ok i) ∧ (i.use?.isSome = true → (encode i).isSome = true)

/-- A turn of a slot runs the instruction at IP: when the slot's line is there (fetched before, or found in the fabric cache with
the right to fetch), has a legal form, and the head that IP names decodes, the step is that instruction's meaning; around it the step only notes
which entries of the PLB the fetch and the accesses match (R401). A stray that leaves for a stop, and a slot that waits in its block, run nothing. -/
def Obligations.SlotTurnRunsDecoded : Prop :=
  ∀ (s t : State) (d c j : Nat) (e : Env) (l : Line) (i : Instr),
    let s1 := onTurn s (.slot d c j)
    let again := (s1.slotOf e).stalled
    s.turn = .run (.slot d c j) → s.boot = 5 → (s.core d c).failed = false → s1.env? = some e →
    turnLeaves s1 e = false → turnUnused s1 e = false →
    e.ip.toNat < 2 ^ 57 → 1 ≤ fld e.ip 5 0 → fld e.ip 5 0 ≤ lineNH l → fld e.ip 5 0 ≤ 30 →
    slotLine (s1.matched (agentOf e) again (fetchVas s1 e)) e = .ok (t, l) → lineOk l = true →
    decode (lineCode l (fld e.ip 5 0)) = .ok i →
    step s = exec i (t.matched (agentOf e) again (accessVas i t e))

/-- A turn of a hart that is not waiting in WFI runs the word at its pc: an Xmakel instruction, a memory access or a fence by its
meaning, any other word as the standard instruction that it is (the standard's encodings are PRESUMED, log 5). A turn of an
event takes that event's step; the free values of the step are numbered anew, and the PLB entries that the hart's accesses match are noted (R401). -/
def Obligations.HartAndEventTurns : Prop :=
  (∀ (s : State) (d c : Nat) (w : BitVec 32),
    let s1 := onTurn s (.hart d c)
    let t := s1.matched (.hart d c) (s1.hart d c).busy (hartVas s1 d c)
    s.turn = .run (.hart d c) → s.boot = 5 → (s.core d c).failed = false → (s.hart d c).wfi = false →
    hartWord t d c = .ok w →
    (∀ i, hartInstr w = some i → step s = exec i t) ∧ (hartInstr w = none → step s = standardRun w d c t)) ∧
  (∀ (s : State) (i : Instr), s.turn = .event i → s.boot = 5 → isEvent i = true →
    step s = exec i { s with sched := s.sched.tail, tick := s.tick + 1 })

/-! ## Memory, and reset -/

/-- Every step keeps the byte memories in their canonical form. -/
def Obligations.StepKeepsMemoryForm : Prop :=
  ∀ s t : State, MemInv s → step s = .next t → MemInv t

/-- The memories are in canonical form at reset. -/
def Obligations.ResetMemoryForm : Prop := MemInv State.reset

/-- What the manual states of the machine right after reset, for every die and core. -/
def Obligations.ResetValues : Prop :=
  ∀ d c : Nat,
    let k := State.reset.core d c
    let v := State.reset.die d
    (∀ g, tget {} k.act.pad g = {} ∧ tget {} k.shd.pad g = {}) ∧ k.setB = false ∧ k.next = 1 ∧
    (∀ i, (k.act.ctx i).state = .free ∧ (k.act.slot i).mode = .empty) ∧
    (∀ i, (k.act.counter i).value = 0 ∧ (k.act.counter i).ovf = false ∧ (k.act.counter i).trig = none) ∧
    (∀ i, tget 0 k.act.chunk i = 0 ∧ tget {} k.act.layouts i = {}) ∧
    (∀ i, (tget {} k.act.halves i).valid = false) ∧
    (∀ i, tget 0 k.act.rotary i = 0 ∧ tget {} k.plb i = {}) ∧
    k.act.cache = 4 ∧ k.hwm = 48 ∧ k.member = 0 ∧ k.gangto = 0x10000 ∧ k.cyc = 0 ∧ k.dom = 0 ∧ k.load = 0 ∧
    k.remain = 0 ∧ k.preq = false ∧ k.pack = false ∧ k.frz = false ∧
    k.act.fmask = 0 ∧ k.act.first = 0 ∧ k.act.ffcode = 0 ∧ k.act.upVec = 0 ∧ k.act.upBusy = false ∧ k.act.upEn = false ∧
    (State.reset.hart d c).mode = .m ∧
    (∀ i, (tget {} v.streams i).st = .free ∧ (tget {} v.streams i).gen = 0 ∧ (tget {} v.groups i).st = .free) ∧
    v.root = 0 ∧ v.ddir = 0 ∧ v.shoot = 0 ∧ v.malf = 0 ∧ (∀ p, tget 0 v.parts p = 0) ∧ (∀ i, tget 0 v.perf i = 0) ∧
    State.reset.fnFrz = 0 ∧ State.reset.debug = false ∧ State.reset.postBox.en = false

/-! ## Checks before an instruction's effect, and faults -/

/-- An instruction that fails the checks of ranks 3 and 4 of R71 (a form that R60 makes illegal, a register at or above WSZ, a bound
source register without a packet), or that would consume a predicate or a register it merges into that holds an uncorrected error, ends as
the failed check says, with no effect of its own. Checks are made at an instruction's first turn: a slot between two beats has passed them. -/
def Obligations.ChecksComeFirst : Prop :=
  ∀ (i : Instr) (u : Use) (s : State) (e : Env) (x : Exit),
    i.use? = some u → s.env? = some e → (s.slotOf e).beat = none → ctxChecks s e u = .error x → exec i s = finish s e (.error x)

/-- What a fault leaves: the fault record (code, FAUX, FADDR, the mode left), the context and its slot PARKED with the slot's former
mode kept, IP where it was; delivery goes to the upcall queue for a page or stream fault while upcalls are on and it has room, else to
FMASK, with the first slot and its code kept. After UNCORRECTED (0x15) the context is FROZEN out of PARKED and its core's FRZ is set (R465). -/
def Obligations.FaultRecord : Prop :=
  ∀ (s : State) (e : Env) (f : FaultInfo),
    let t := takeFault s e f
    let a := s.act e.d e.c
    let a' := t.act e.d e.c
    let up := decide (f.code = 0x09 ∨ f.code = 0x0F) && a.upEn && decide (a.upq.length < 48)
    (f.code ≠ 0x15 → (t.ctx e).state = .parked) ∧
    (f.code = 0x15 → (t.ctx e).state = .frozen ∧ (t.ctx e).prior = .parked ∧ (t.core e.d e.c).frz = true) ∧
    (t.ctx e).fcode = BitVec.ofNat 8 f.code ∧ (t.ctx e).faux = BitVec.ofNat 7 f.aux ∧
    (t.ctx e).faddr = BitVec.ofNat 57 (f.faddr.getD (s.ctx e).ip.toNat) ∧ (t.ctx e).inBlock = decide (e.mode = .block) ∧
    (t.ctx e).ip = (s.ctx e).ip ∧ (t.ctx e).wait = none ∧
    (t.slotOf e).mode = .parked ∧ (t.slotOf e).from_ = e.mode ∧
    a'.pad = a.pad ∧ a'.counters = a.counters ∧ t.mem = s.mem ∧
    (up = true → a'.fmask = a.fmask ∧ a'.first = a.first ∧ a'.ffcode = a.ffcode ∧
      ∃ m, a'.upq = a.upq ++ [m] ∧ m.kind = (if f.code = 0x09 then 1 else 2) ∧ m.slot = BitVec.ofNat 8 e.sl ∧
        m.acc = BitVec.ofNat 8 f.acc ∧ m.handle = BitVec.ofNat 32 (ctxHandle e.d e.c e.ix (s.ctx e).inc) ∧
        m.token = BitVec.ofNat 64 f.tok) ∧
    (up = false → a'.upq = a.upq ∧ a'.fmask = a.fmask ||| (1#32 <<< e.sl) ∧
      (a.fmask = 0 → a'.first = BitVec.ofNat 5 e.sl ∧ a'.ffcode = BitVec.ofNat 8 f.code) ∧
      (a.fmask ≠ 0 → a'.first = a.first ∧ a'.ffcode = a.ffcode))

/-! ## Registers, predicates, granules -/

/-- The write rule of WSet: a register written whole reads as the value; written in part it keeps its other bytes, a stale register's
being zero; every other register of every context, on another granule, reads as before. A read of a register as a source: WSBOUND at or above WSZ; the head packet of a bound channel register; under STRICT a stale
register faults GEN_TRAP with its address; without STRICT a stale register reads zero; a live register that holds an uncorrected error faults UNCORRECTED with its address; an instruction of several
beats reads what it held at its first turn. Predicate registers: p0 reads all ones and ignores a write; another predicate register reads back what is written, under a live
generation, and no other predicate register of the context changes. -/
def Obligations.RegistersReadWrite : Prop :=
  (∀ (a : SetState) (ix i v m : Nat),
    (a.ctx ix).wgen ≠ 0 →
    regRaw (regWrite a ix i v allBytes) (a.ctx ix) i = BitVec.ofNat 128 v ∧
    (∀ k, k < 16 → byteAt (regRaw (regWrite a ix i v m) (a.ctx ix) i).toNat k =
      if m.testBit k then byteAt v k else byteAt (regRaw a (a.ctx ix) i).toNat k) ∧
    (∀ (x : Ctx) (j : Nat), x.gran j ≠ (a.ctx ix).gran i → regRaw (regWrite a ix i v m) x j = regRaw a x j) ∧
    (∀ j, (regWrite a ix i v m).ctx j = a.ctx j)) ∧
  (∀ (a : SetState) (ix i : Nat),
    let x := a.ctx ix
    let g := x.wp.toNat / 16 + i
    (held a x g = none → granSeen a x g = if granLive a.pad g x.wgen then some (tget {} a.pad g).data else none) ∧
    (∀ r, held a x g = some r → granSeen a x g = r) ∧
    (x.wsz.toNat ≤ i → regRead a ix i = raise 0x03) ∧
    (i < x.wsz.toNat → x.bound i = true → regRead a ix i = .ok ((chQueue a ix (i - 120)).headD 0)) ∧
    (i < x.wsz.toNat → x.bound i = false →
      (granSeen a x g = none → regRead a ix i = if x.strict then raiseAt 0x06 (16 * g) else .ok 0) ∧
      (∀ v, granSeen a x g = some v → regRead a ix i =
        if held a x g = none ∧ (tget {} a.pad g).bad = true then raiseAt 0x15 (16 * g) else .ok v))) ∧
  (∀ (a : SetState) (ix n v : Nat),
    (a.ctx ix).wgen ≠ 0 → n < 8 → (∀ g, held a (a.ctx ix) g = none) →
    predRead a (a.ctx ix) 0 = 2 ^ 64 - 1 ∧ predWrite a ix 0 v = a ∧
    (n ≠ 0 → predRead (predWrite a ix n v) (a.ctx ix) n = v % 2 ^ 64) ∧
    (∀ m, m < 8 → m ≠ n → m ≠ 0 → predRead (predWrite a ix n v) (a.ctx ix) m = predRead a (a.ctx ix) m))

/-- Predicated write-back of a group (R63): each byte of the group's registers follows its element's predicate bit, disabled elements keep
their bytes; with SH 0 element 0 alone is written, the rest of wD cleared, or nothing. -/
def Obligations.PredicatedGroupWrite : Prop :=
  ∀ (a : SetState) (ix : Nat) (sh : BitVec 2) (d : BitVec 7) (w pred : Nat) (pn : Bool) (v : Nat),
    (a.ctx ix).wgen ≠ 0 → 8 ≤ w → w % 8 = 0 →
    (sh = 0 → ∀ k, k < 16 →
      byteAt (regRaw (grpWrite a ix sh d w pred pn v) (a.ctx ix) d.toNat).toNat k =
        if pred.testBit 0 != pn then byteAt (v % 2 ^ w) k else byteAt (regRaw a (a.ctx ix) d.toNat).toNat k) ∧
    (sh ≠ 0 → ∀ r k, r < shRegs sh.toNat → k < 16 →
      byteAt (regRaw (grpWrite a ix sh d w pred pn v) (a.ctx ix) (d.toNat + r)).toNat k =
        if pred.testBit ((16 * r + k) / (w / 8) * (w / 8)) != pn then byteAt v (16 * r + k)
        else byteAt (regRaw a (a.ctx ix) (d.toNat + r)).toNat k)

/-! ## Chapter 04: control flow -/

/-- NOP, BRA, CALL, JMPX, LOOP and FETCH complete as R107 says: Goto(T) when the condition holds, the link or count written, the next
instruction otherwise. HALT whose post-queue entries have completed retires its context (R102); with a successor handle that passes the checks of R103, once the
context's stores have performed (R257; log 28), it hands over its scratch regions first, and the successor becomes READY (R104). -/
def Obligations.ControlFlow : Prop :=
  (∀ (s : State) (e : Env) (b : List Nat) (d : BitVec 7) (t : TailB) (v : TailV) (x : W128),
    let a := s.act e.d e.c
    let tgt := BitVec.ofNat 64 (wrap 51 ((fld e.ip 56 6 : Int) + sext 22 t.loff.toNat) * 64 + t.slot.toNat)
    let on := (predRead a (s.ctx e) t.p.toNat).testBit 0 != t.pn
    let onV := (predRead a (s.ctx e) v.p.toNat).testBit 0 != v.pn
    let link := withReg s e d (nextOf s e).toNat
    let n := fld x 63 0
    (Ready (.nop d) s e b → exec (.nop d) s = .next (goesOn e b s)) ∧
    (Ready (.bra d t) s e b → exec (.bra d t) s = .next (if on then jumps s e b a tgt else writes s e b a)) ∧
    (Ready (.call d t) s e b → exec (.call d t) s = .next (if on then jumps s e b link tgt else writes s e b a)) ∧
    (Ready (.jmpx d v) s e b → (onV = true → Reads s e v.b x) → exec (.jmpx d v) s =
      .next (if onV then jumps s e b (if v.f = 1 then link else a) (x.setWidth 64) else writes s e b a)) ∧
    (Ready (.loop d t) s e b → (on = true → Reads s e d x) → exec (.loop d t) s = .next (
      if on = true ∧ n ≠ 0 then
        if n = 1 then writes s e b (withReg s e d 0) else jumps s e b (withReg s e d (n - 1)) tgt
      else writes s e b a)) ∧
    (Ready (.fetch d v) s e b → (onV = true → Reads s e v.b x) → exec (.fetch d v) s =
      .next (if onV then jumps s e b a (x.setWidth 64) else writes s e b a))) ∧
  (∀ (s : State) (e : Env) (b : List Nat) (d : BitVec 7),
    let a := s.act e.d e.c
    let x := s.ctx e
    Ready (.halt d) s e b →
    a.post.all (fun p => !(p.2.issuer.ix = e.ix && !p.2.issuer.hart && p.2.issuer.inc = x.inc)) = true →
    (d = 0 → exec (.halt d) s = .next (finished e b (retire s e.d e.c e.sl e.ix false))) ∧
    (∀ (v : W128) (j : Nat), d ≠ 0 → lastStore (s.core e.d e.c) e.ix x.inc = 0 → Reads s e d v → handleIx a e.d e.c (fld v 31 0) = some j →
      (a.ctx j).state = .held → (a.ctx j).dom = x.dom → (a.ctx j).r1.size = 0 → (a.ctx j).r2.size = 0 → (a.ctx j).r3.size = 0 →
      exec (.halt d) s = .next (finished e b (
        let u := s.setAct e.d e.c (a.setCtx j { a.ctx j with r1 := x.r1, r2 := x.r2, r3 := x.r3 })
        let u := retire (u.setCore e.d e.c (popRead (u.core e.d e.c) e.ix d.toNat)) e.d e.c e.sl e.ix true
        u.setAct e.d e.c (makeReady (u.act e.d e.c) j)))))

/-- STOP acts by mode: a stray's slot becomes herded with IP set to NextIP; in block mode the block ends and the slot is herded. STOP
has no other effect: registers, paddock, memory, other contexts and slots stay. -/
def Obligations.StopHerds : Prop :=
  ∀ (s : State) (e : Env) (b : List Nat) (d : BitVec 7), Ready (.stop d) s e b →
    ∃ t, exec (.stop d) s = .next t ∧
      (t.slotOf e).mode = .herded ∧ (t.ctx e).state = .bound ∧ (t.ctx e).ip = nextOf s e ∧
      OnlyRegisters s t e ∧ (t.ctx e).fpc = (s.ctx e).fpc ∧
      (t.act e.d e.c).pad = (s.act e.d e.c).pad ∧ (t.act e.d e.c).chq = (s.act e.d e.c).chq

/-- TRAP n faults SWTRAP (0x14) with FAUX n, TRAP 127 BREAK (0x13) with FAUX 127; FADDR holds the TRAP's own IP, and IP stays. -/
def Obligations.TrapFaults : Prop :=
  ∀ (s : State) (e : Env) (b : List Nat) (d : BitVec 7), Ready (.trap d) s e b →
    ∃ t, exec (.trap d) s = .next t ∧
      (t.ctx e).fcode = (if d = 127 then 0x13 else 0x14) ∧ (t.ctx e).faux = d ∧ (t.ctx e).faddr = (s.ctx e).ip.setWidth 57 ∧
      (t.ctx e).ip = (s.ctx e).ip ∧ (t.ctx e).state = .parked ∧ (t.slotOf e).mode = .parked ∧
      t = takeFault s e { code := if d = 127 then 0x13 else 0x14, aux := d.toNat }

/-- YIELD of a stray completes and leaves its slot when a READY context of the run queue has EPRIO numerically no higher than its PRIO: it
enters the tail of its PRIO level as READY, with IP at NextIP. Otherwise, and always in block mode, YIELD executes as NOP. -/
def Obligations.YieldLeaves : Prop :=
  ∀ (s : State) (e : Env) (b : List Nat) (d : BitVec 7), Ready (.yield d) s e b →
    let a := s.act e.d e.c
    let p := (s.ctx e).prio.toNat
    let better := a.runq.any (fun j => decide ((a.ctx j).eprio.toNat ≤ p))
    (e.mode = .stray → better = true →
      ∃ t, exec (.yield d) s = .next t ∧
        let a' := t.act e.d e.c
        (t.slotOf e).mode = .empty ∧ (t.ctx e).state = .ready ∧ (t.ctx e).eprio = (s.ctx e).prio ∧ (t.ctx e).ip = nextOf s e ∧
        (let before := a.runq.takeWhile (fun j => decide ((a'.ctx j).eprio.toNat ≤ p))
         a'.runq = before ++ e.ix :: a.runq.drop before.length)) ∧
    (¬(e.mode = .stray ∧ better = true) → exec (.yield d) s = .next (goesOn e b s))

/-- PLOG combines two predicate registers by the op of F[2:0] and writes the third; PMOV moves a predicate register to a register,
zero-extended, or a register's low 64 bits to a predicate register. A write to p0 writes nothing. -/
def Obligations.PredicateOps : Prop :=
  ∀ (s : State) (e : Env) (b : List Nat) (d : BitVec 7) (t : TailV) (v : W128),
    let a := s.act e.d e.c
    let p := fun (r : BitVec 7) => BitVec.ofNat 64 (predRead a (s.ctx e) r.toNat)
    let op : BitVec 64 := match t.f.toNat with
      | 0 => p t.b &&& p t.c
      | 1 => p t.b ||| p t.c
      | 2 => p t.b ^^^ p t.c
      | 3 => p t.b &&& ~~~(p t.c)
      | 4 => p t.b ||| ~~~(p t.c)
      | 5 => ~~~(p t.b &&& p t.c)
      | 6 => ~~~(p t.b ||| p t.c)
      | _ => ~~~(p t.b ^^^ p t.c)
    (Ready (.plog d t) s e b → exec (.plog d t) s = .next (writes s e b (if d = 0 then a else predWrite a e.ix d.toNat op.toNat))) ∧
    (Ready (.pmov d t) s e b → t.f = 0 →
      exec (.pmov d t) s = .next (writes s e b (withReg s e d (predRead a (s.ctx e) t.b.toNat)))) ∧
    (Ready (.pmov d t) s e b → t.f ≠ 0 → (d ≠ 0 → Reads s e t.b v) →
      exec (.pmov d t) s = .next (writes s e b (if d = 0 then a else predWrite a e.ix d.toNat (fld v 63 0))))

/-- CYC and SYSR write the core's cycle counter or the named special register, zero-extended; LNKR and LNKW reach the register of the
context bound on the slot named, a predicate-disabled link writing nothing. CHBIND binds a tag to a channel register unless another binding of the core holds the tag (status 1), dropping what was queued; with OFF it
removes the binding. A packet that the instruction itself reads of the binding it drops is read, not dropped. CHSEND sends its packet as a release: at once, or after the context's earlier stores, and after its earlier SENDs to the same core. -/
def Obligations.SpecialsLinksChannels : Prop :=
  (∀ (s : State) (e : Env) (b : List Nat) (d : BitVec 7) (t : TailV) (v w : W128) (j : Nat),
    let a := s.act e.d e.c
    let x := s.ctx e
    let special : Nat := match t.f.toNat with
      | 0 => x.wp.toNat | 1 => x.wgen.toNat | 2 => x.dom.toNat | 3 => ctxHandle e.d e.c e.ix x.inc | 4 => e.sl | 5 => e.c
      | 6 => e.c / 4 | 7 => e.d | 8 => s.pkg.toNat | 9 => x.lco.toNat | 10 => x.fpc.toNat | 11 => x.stream.toNat
      | _ => (s.core e.d e.c).cyc.toNat
    let on := (predRead a x t.p.toNat).testBit 0 != t.pn
    (Ready (.cyc d) s e b → exec (.cyc d) s = .next (writes s e b (withReg s e d (s.core e.d e.c).cyc.toNat))) ∧
    (Ready (.sysr d t) s e b → exec (.sysr d t) s = .next (writes s e b (withReg s e d special))) ∧
    (Ready (.lnkr d t) s e b → Reads s e t.b v → linkTarget a (fld v 4 0) = some j → t.c.toNat < (a.ctx j).wsz.toNat →
      (on = true → padBad a.pad (a.ctx j).wgen (16 * (a.ctx j).gran t.c.toNat) 1 = none) →
      exec (.lnkr d t) s = .next (writes s e b (if on then withReg s e d (regRaw a (a.ctx j) t.c.toNat).toNat else a))) ∧
    (Ready (.lnkw d t) s e b → Reads s e d w → Reads s e t.b v → linkTarget a (fld w 4 0) = some j → t.c.toNat < (a.ctx j).wsz.toNat →
      exec (.lnkw d t) s = .next (writes s e b (if on then regWrite a j t.c.toNat v.toNat allBytes else a)))) ∧
  (∀ (s : State) (e : Env) (b : List Nat) (d : BitVec 7) (t : TailV) (v r : W128),
    let k := s.core e.d e.c
    let i := t.f.toNat % 8
    (Ready (.chbind d t) s e b → Reads s e t.b v → tagTaken k.act e.ix i (fld v 11 0) = true →
      exec (.chbind d t) s = .next (writes s e b (withReg s e d 1))) ∧
    (Ready (.chbind d t) s e b → Reads s e t.b v → tagTaken k.act e.ix i (fld v 11 0) = false →
      exec (.chbind d t) s = .next (goesOn e b (
        let k := dropBinding (if t.b.toNat = 120 + i then popRead k e.ix t.b.toNat else k) e.ix i
        let a := k.act.setCtx e.ix ((k.act.ctx e.ix).setBinding i (some (fld v 11 0)))
        s.setCore e.d e.c { k with act := regWrite a e.ix d.toNat 0 allBytes }))) ∧
    (Ready (.chbindOff d t) s e b → exec (.chbindOff d t) s = .next (goesOn e b (
        let k := dropBinding k e.ix i
        s.setCore e.d e.c { k with act := regWrite k.act e.ix d.toNat 0 allBytes }))) ∧
    (Ready (.chsend d t) s e b → Reads s e t.b r → Reads s e t.c v → fld r 18 12 ≤ 95 → fld r 22 19 ≤ 11 →
      exec (.chsend d t) s = .next (goesOn e b (update s e (.packet
        { iss := k.act.seq, cls := 1, src := senderOf s e, pkg := fld r 34 23, die := fld r 22 19, core := fld r 18 12,
          body := .channel (BitVec.ofNat 12 (fld r 11 0)) v (r.setWidth 64) })))))

/-- SEND and SPAWN, unless their post queue is frozen, take the lowest free post-queue entry with the header (DOM replaced) and the payload as the registers hold them at issue. SEND with LNCH 1 reads the 256 bytes of the launch record at W(B)[56:0], in 16-byte pieces, and takes the lowest free post-queue entry
with it. -/
def Obligations.MessagesIssue : Prop :=
  (∀ (s : State) (e : Env) (b : List Nat) (d : BitVec 7) (t : TailE) (h : W128) (v i : Nat) (spawn : Bool),
    let a := s.act e.d e.c
    let x := s.ctx e
    let n := fld h 89 88
    let regs := (boundSrcs x ((List.range (n + 1)).map (fun i => t.c.toNat + i))).filter (fun i => decide (i ≠ t.b.toNat))
    let p : PostEntry :=
      { op := .send spawn (headerOf h x.dom x.prio) (BitVec.ofNat 512 v), issuer := issuerOf s e, wk := t.wk.toNat, wt := t.wt.toNat,
        sk := t.sk.toNat, si := sext 4 t.si.toNat, after := lastStore (s.core e.d e.c) e.ix x.inc, captured := true }
    Ready (if spawn then .spawn d t else .send d t) s e b → Reads s e t.b h →
    t.c.toNat + n ≤ 127 → t.c.toNat + n < x.wsz.toNat →
    regs.any (fun i => (chQueue a e.ix (i - 120)).isEmpty) = false → payload a e.ix t.c.toNat (n + 1) = .ok v →
    (spawn = true ∨ (fld h 111 105 ≤ 95 ∧ fld h 115 112 ≤ 11)) → freePost a = some i →
    exec (if spawn then .spawn d t else .send d t) s = .next (writes s e b (popSrcs (putPost a i p) e.ix regs))) ∧
  (∀ (s : State) (e : Env) (b : List Nat) (d : BitVec 7) (t : TailE) (h : W128) (ps : List (Nat × Nat)) (i : Nat),
    let a := s.act e.d e.c
    let va := fld h 56 0
    let v := ps.foldl (fun n kv => n + kv.2 * 2 ^ (128 * kv.1)) 0
    Ready (.sendLaunch d t) s e b → Reads s e t.b h →
    recordPieces s (agentOf e) (va / 16 * 16) (List.range (if va % 16 = 0 then 16 else 17)) = .ok ps → freePost a = some i →
    ∃ t', exec (.sendLaunch d t) s = .next t' ∧
      ∃ p, tfind (t'.act e.d e.c).post i = some p ∧ p.op = .launch (BitVec.ofNat 2048 (v >>> (8 * (va % 16)))) ∧
        p.issuer = issuerOf s e ∧ p.wk = t.wk.toNat ∧ p.wt = t.wt.toNat ∧ p.sk = t.sk.toNat ∧ p.si = sext 4 t.si.toNat)

/-! ## Chapter 07: integer, address and predicate operations -/

/-- The packed integer instructions of two sources (ADD, SUB, MUL, MULH, DIV, REM, AND, OR, XOR, ANDN, the shifts, MIN and MAX, in forms S and
V) compute each element of the shape on words of the element's width, `intOp` being the manual's table, and write the group under
predication. A shift with IMM takes its count from the field C and reads no register there. -/
def Obligations.IntegerElements : Prop :=
  ∀ (i : Instr) (s : State) (e : Env) (b : List Nat) (d : BitVec 7) (t : TailV) (imm : Bool)
    (f : (w : Nat) → Bool → BitVec w → BitVec w → BitVec w) (x y : Nat),
    intOp i = some (d, t, imm, f) → Ready i s e b → ReadsGrp s e t.sh t.b x → (imm = false → ReadsGrp s e t.sh t.c y) →
    let w := tyBits t.ty.toNat
    let second := fun k => BitVec.ofNat w (if imm then t.c.toNat else elem y w k)
    let r := elems w (fun k => (f w (tySigned t.ty.toNat) (BitVec.ofNat w (elem x w k)) (second k)).toNat) (shElems t.sh.toNat w)
    exec i s = .next (onBeat i (shRegs t.sh.toNat) s e (writes s e b
      (grpWrite (s.act e.d e.c) e.ix t.sh d w (predRead (s.act e.d e.c) (s.ctx e) t.p.toNat) t.pn r)))

/-- ABS, NEG, CLZ (leading or trailing zeros), POPC and MADD, element by element; saturation where F[0] asks for it. CMP writes, for every enabled element, the predicate bits of its bytes with the outcome of the condition, keeps those of disabled elements
and clears those beyond the span; SEL takes each element of B where pS is set, else of C. -/
def Obligations.IntegerUnaryCompare : Prop :=
  (∀ (s : State) (e : Env) (b : List Nat) (d : BitVec 7) (t : TailV) (x y z : Nat),
    let w := tyBits t.ty.toNat
    let sg := tySigned t.ty.toNat
    let v := fun (n k : Nat) => BitVec.ofNat w (elem n w k)
    let out := fun (f : Nat → BitVec w) => writes s e b (grpWrite (s.act e.d e.c) e.ix t.sh d w
      (predRead (s.act e.d e.c) (s.ctx e) t.p.toNat) t.pn (elems w (fun k => (f k).toNat) (shElems t.sh.toNat w)))
    ReadsGrp s e t.sh t.b x →
    (Ready (.abs d t) s e b → exec (.abs d t) s = .next (onBeat (.abs d t) (shRegs t.sh.toNat) s e (out (fun k =>
      if t.f = 1 then satOf w true ((v x k).toInt.natAbs : Int) else (v x k).abs)))) ∧
    (Ready (.neg d t) s e b → exec (.neg d t) s = .next (onBeat (.neg d t) (shRegs t.sh.toNat) s e (out (fun k => if t.f = 1 then satOf w sg (-intVal sg (v x k)) else -(v x k))))) ∧
    (Ready (.clz d t) s e b → exec (.clz d t) s = .next (onBeat (.clz d t) (shRegs t.sh.toNat) s e (out (fun k => if t.f = 1 then (v x k).ctz else (v x k).clz)))) ∧
    (Ready (.popc d t) s e b → exec (.popc d t) s = .next (onBeat (.popc d t) (shRegs t.sh.toNat) s e (out (fun k => (v x k).cpop)))) ∧
    (Ready (.madd d t) s e b → ReadsGrp s e t.sh t.c y → ReadsGrp s e t.sh d z →
      exec (.madd d t) s = .next (onBeat (.madd d t) (shRegs t.sh.toNat) s e (out (fun k => v z k + v x k * v y k))))) ∧
  (∀ (s : State) (e : Env) (b : List Nat) (d : BitVec 7) (t : TailV) (x y : Nat),
    let a := s.act e.d e.c
    let w := tyBits t.ty.toNat
    let sg := tySigned t.ty.toNat
    let n := shElems t.sh.toNat w
    let p := predRead a (s.ctx e) t.p.toNat
    let v := fun (m k : Nat) => BitVec.ofNat w (elem m w k)
    let holds := fun k => match t.f.toNat with
      | 0 => decide (v x k = v y k)
      | 1 => decide (v x k ≠ v y k)
      | 2 => decide (intVal sg (v x k) < intVal sg (v y k))
      | 3 => decide (intVal sg (v x k) ≥ intVal sg (v y k))
      | 4 => decide (intVal sg (v x k) ≤ intVal sg (v y k))
      | 5 => decide (intVal sg (v x k) > intVal sg (v y k))
      | _ => decide (v x k &&& v y k ≠ 0)
    ReadsGrp s e t.sh t.b x → ReadsGrp s e t.sh t.c y →
    (Ready (.cmp d t) s e b → ∃ r, exec (.cmp d t) s = .next (onBeat (.cmp d t) (shRegs t.sh.toNat) s e (writes s e b
        (if t.sh = 0 ∧ (p.testBit 0 != t.pn) = false then a else predWrite a e.ix d.toNat r))) ∧
      ∀ j, j < 64 → r.testBit j =
        if j < n * (w / 8) then
          if p.testBit (j / (w / 8) * (w / 8)) != t.pn then holds (j / (w / 8)) else (predRead a (s.ctx e) d.toNat).testBit j
        else false) ∧
    (Ready (.sel d t) s e b → exec (.sel d t) s = .next (onBeat (.sel d t) (shRegs t.sh.toNat) s e (writes s e b (grpWrite a e.ix t.sh d w p t.pn
        (elems w (fun k => if (predRead a (s.ctx e) (t.f.toNat % 8)).testBit (k * w / 8) then elem x w k else elem y w k) n))))))

/-- ADDI, MOVI, MOVQ and LEA: the sum modulo 2^64 with the immediate sign-extended, the immediates zero-extended, the base plus the index
element shifted; a predicate-disabled LEA writes nothing. BEXT and BINS take POS and LEN from the control register: bits POS to POS+LEN-1 of each element extracted (sign-extended for a signed type)
or inserted, nothing beyond the element's width. DOTI adds to each lane of wD the exact sum of the products of its elements, modulo the lane's width; SATN rounds, shifts and saturates to half
the width, the upper half of the span zero; SHUF picks elements by index, zero for an index with its top bit set. -/
def Obligations.ImmediatesFieldsLanes : Prop :=
  (∀ (s : State) (e : Env) (b : List Nat) (d : BitVec 7) (i : TailI) (t : TailV) (x y : W128) (imm : BitVec 32) (big : BitVec 64),
    let w := tyBits t.ty.toNat
    let ix := BitVec.ofNat w y.toNat
    let ix64 : BitVec 64 := if tySigned t.ty.toNat then ix.signExtend 64 else ix.zeroExtend 64
    (Ready (.addi d i) s e b → Reads s e i.b x →
      exec (.addi d i) s = .next (writes s e b (withReg s e d (x.setWidth 64 + i.imm.signExtend 64).toNat))) ∧
    (Ready (.movi d imm) s e b → exec (.movi d imm) s = .next (writes s e b (withReg s e d imm.toNat))) ∧
    (Ready (.movq d big) s e b → exec (.movq d big) s = .next (writes s e b (withReg s e d big.toNat))) ∧
    (Ready (.lea d t) s e b → Reads s e t.b x → Reads s e t.c y →
      exec (.lea d t) s = .next (writes s e b (
        if (predRead (s.act e.d e.c) (s.ctx e) t.p.toNat).testBit 0 != t.pn then
          withReg s e d (x.setWidth 64 + ix64 <<< (t.f.toNat % 8)).toNat
        else s.act e.d e.c)))) ∧
  (∀ (s : State) (e : Env) (b : List Nat) (d : BitVec 7) (t : TailV) (x z : Nat) (c : W128),
    let w := tyBits t.ty.toNat
    let pos := fld c 6 0
    let len := Nat.min (fld c 14 8) w
    let out := fun (f : Nat → Nat) => writes s e b (grpWrite (s.act e.d e.c) e.ix t.sh d w
      (predRead (s.act e.d e.c) (s.ctx e) t.p.toNat) t.pn (elems w f (shElems t.sh.toNat w)))
    ReadsGrp s e t.sh t.b x → Reads s e t.c c →
    (Ready (.bext d t) s e b → ∃ f, exec (.bext d t) s = .next (onBeat (.bext d t) (shRegs t.sh.toNat) s e (out f)) ∧ ∀ k j, j < w → (f k).testBit j =
      if len = 0 then false
      else
        let j' := if j < len then pos + j else pos + len - 1
        if tySigned t.ty.toNat then (elem x w k).testBit (min j' (w - 1))
        else decide (j < len) && (elem x w k).testBit j') ∧
    (Ready (.bins d t) s e b → ReadsGrp s e t.sh d z → ∃ f, exec (.bins d t) s = .next (onBeat (.bins d t) (shRegs t.sh.toNat) s e (out f)) ∧ ∀ k j, j < w → (f k).testBit j =
      if pos ≤ j ∧ j < pos + len then (elem x w k).testBit (j - pos) else (elem z w k).testBit j)) ∧
  (∀ (s : State) (e : Env) (b : List Nat) (d : BitVec 7) (t : TailV) (x y z : Nat),
    let a := s.act e.d e.c
    let ty := t.ty.toNat
    let w := tyBits ty
    let sg := tySigned ty
    let p := predRead a (s.ctx e) t.p.toNat
    let v := fun (sg : Bool) (n k : Nat) => intVal sg (BitVec.ofNat w (elem n w k))
    let lane := if ty = 2 ∨ ty = 3 then 64 else 32
    let h := w / 2
    let narrow := fun k =>
      let n := t.f.toNat / 2
      let r : Int := if n = 0 then v sg x k else (v sg x k + (2 ^ (n - 1) : Nat)).fdiv (2 ^ n : Nat)
      (satOf h (sg && !t.f.getLsbD 0) r).toNat
    ReadsGrp s e t.sh t.b x →
    (Ready (.doti d t) s e b → ReadsGrp s e t.sh t.c y → ReadsGrp s e t.sh d z →
      exec (.doti d t) s = .next (onBeat (.doti d t) (shRegs t.sh.toNat) s e (writes s e b (grpWrite a e.ix t.sh d lane p t.pn (elems lane (fun j =>
        (BitVec.ofInt lane ((elem z lane j : Int) +
          ((List.range (lane / w)).map (fun k => v sg x (j * (lane / w) + k) *
            v (if t.f.getLsbD 0 then !sg else sg) y (j * (lane / w) + k))).sum)).toNat) (shElems t.sh.toNat lane)))))) ∧
    (Ready (.satn d t) s e b → t.sh = 0 →
      exec (.satn d t) s = .next (onBeat (.satn d t) (shRegs t.sh.toNat) s e (writes s e b (grpWrite a e.ix t.sh d h p t.pn (elems h narrow 1))))) ∧
    (Ready (.satn d t) s e b → t.sh ≠ 0 →
      exec (.satn d t) s = .next (onBeat (.satn d t) (shRegs t.sh.toNat) s e (writes s e b (regsWrite a e.ix d.toNat (elems h narrow (shElems t.sh.toNat w))
        (enMask p t.pn (elemBytes h) (shBytes t.sh.toNat / 2) + (2 ^ (shBytes t.sh.toNat / 2) - 1) * 2 ^ (shBytes t.sh.toNat / 2))
        (shRegs t.sh.toNat))))) ∧
    (Ready (.shuf d t) s e b → ReadsGrp s e t.sh t.c y →
      exec (.shuf d t) s = .next (onBeat (.shuf d t) (shRegs t.sh.toNat) s e (writes s e b (grpWrite a e.ix t.sh d w p t.pn (elems w (fun k =>
        if (elem y w k).testBit (w - 1) then 0 else elem x w (elem y w k % shElems t.sh.toNat w)) (shElems t.sh.toNat w)))))))

/-! ## Chapter 08: floating point -/

/-- Sums, products and fused multiply-adds of finite numbers are formed exactly before the one rounding. -/
def Obligations.ExactBeforeRounding : Prop :=
  ∀ (mode : Nat) (x y z : FVal) (p q r : Rat), ratOf x = some p → ratOf y = some q → ratOf z = some r →
    ratOf (addF mode x y).1 = some (p + q) ∧ ratOf (mulF x y).1 = some (p * q) ∧ ratOf (fmaF mode x y z).1 = some (p * q + r) ∧
    ratOf x.neg = some (-p)

/-- The packed floating-point instructions of one format (FADD, FSUB, FMUL, FDIV, FMA, FSQRT, FMIN, FMAX, FSGN, FRND, FCLS and the approximated
functions) write each enabled element's result and OR the enabled elements' flags into %fpc, `fpOp` being the manual's table. -/
def Obligations.FloatElements : Prop :=
  ∀ (i : Instr) (s : State) (e : Env) (b : List Nat) (d : BitVec 7) (t : TailV) (useC useD : Bool)
    (f : FpElt → Nat → Nat → Nat → Nat × Nat) (x y z : Nat),
    fpOp i = some (d, t, useC, useD, f) → Ready i s e b → ReadsGrp s e t.sh t.b x →
    (if useC then ReadsGrp s e t.sh t.c y else y = 0) → (if useD then ReadsGrp s e t.sh d z else z = 0) →
    let a := s.act e.d e.c
    let w := tyBits t.ty.toNat
    let n := shElems t.sh.toNat w
    let p := predRead a (s.ctx e) t.p.toNat
    let g := fun j => f (fpElt (s.ctx e).fpc t.ty.toNat) (elem x w j) (elem y w j) (elem z w j)
    exec i s = .next (onBeat i (shRegs t.sh.toNat) s e (writes s e b (withFlags (grpWrite a e.ix t.sh d w p t.pn (elems w (fun j => (g j).1) n)) e
      (raisedBy (fun j => p.testBit (j * w / 8) != t.pn) (fun j => (g j).2) n))))

/-- FSCL scales by a power of two taken from the elements of C, or with E8 from byte 0 of wC less 127, where 0xFF gives NaN and NV; FCMP writes
the outcomes to a predicate register; FPCSET returns the old %fpc and replaces, sets or clears its bits, [6:5] apart. FRED reduces the enabled elements by the tree of R43, an empty sum being +0 and an empty extremum an infinity; IMAX keeps the greatest candidate
with its key; FDOT adds exact products to an F32 lane with one rounding. -/
def Obligations.ScaleCompareReduce : Prop :=
  (∀ (s : State) (e : Env) (b : List Nat) (d : BitVec 7) (t : TailV) (x y : Nat) (c : W128),
    let a := s.act e.d e.c
    let w := tyBits t.ty.toNat
    let n := shElems t.sh.toNat w
    let k := fpElt (s.ctx e).fpc t.ty.toNat
    let p := predRead a (s.ctx e) t.p.toNat
    let on := fun j => p.testBit (j * w / 8) != t.pn
    let out := fun (g : Nat → Nat × Nat) => writes s e b (withFlags (grpWrite a e.ix t.sh d w p t.pn (elems w (fun j => (g j).1) n)) e
      (raisedBy on (fun j => (g j).2) n))
    (Ready (.fscl d t) s e b → t.f = 0 → ReadsGrp s e t.sh t.b x → ReadsGrp s e t.sh t.c y →
      exec (.fscl d t) s = .next (onBeat (.fscl d t) (shRegs t.sh.toNat) s e (out (fun j => fsclEl k (elem x w j) (sext w (elem y w j)))))) ∧
    (Ready (.fscl d t) s e b → t.f = 1 → ReadsGrp s e t.sh t.b x → Reads s e t.c c →
      exec (.fscl d t) s = .next (onBeat (.fscl d t) (shRegs t.sh.toNat) s e (out (fun j =>
        if fld c 7 0 = 255 then (canonNan k.f, 16) else fsclEl k (elem x w j) ((fld c 7 0 : Int) - 127))))) ∧
    (Ready (.fcmp d t) s e b → ReadsGrp s e t.sh t.b x → ReadsGrp s e t.sh t.c y →
      let g := fun j => fcmpEl t.f.toNat (k.rd (elem x w j)) (k.rd (elem y w j))
      exec (.fcmp d t) s = .next (onBeat (.fcmp d t) (shRegs t.sh.toNat) s e (writes s e b (withFlags (cmpWrite a e.ix t d.toNat w n (fun j => (g j).1)) e
        (raisedBy on (fun j => (g j).2) n))))) ∧
    (Ready (.fpcset d t) s e b → Reads s e t.b c →
      let old := (s.ctx e).fpc
      let v := c.setWidth 11 &&& 0x79F
      let u := withReg s e d old.toNat
      exec (.fpcset d t) s = .next (writes s e b (u.setCtx e.ix { u.ctx e.ix with
        fpc := if t.f = 0 then v else if t.f = 1 then old ||| v else old &&& ~~~v })))) ∧
  (∀ (s : State) (e : Env) (b : List Nat) (d : BitVec 7) (t : TailV) (x y z : Nat) (c o : W128),
    let a := s.act e.d e.c
    let ty := t.ty.toNat
    let w := tyBits ty
    let n := shElems t.sh.toNat w
    let k := fpElt (s.ctx e).fpc ty
    let p := predRead a (s.ctx e) t.p.toNat
    let on := fun w j => p.testBit (j * w / 8) != t.pn
    ReadsGrp s e t.sh t.b x →
    (Ready (.fred d t) s e b →
      let leaves := (List.range n).map (fun j =>
        if on w j then some (k.clean (elem x w j), if (k.rd (elem x w j)).isSnan then 16 else 0) else none)
      let r := (tree (fredStep k t.f.toNat) 6 leaves).getD
        (if t.f = 0 then packF k.f false 0 0 else infBits k.f (decide (t.f = 1)), 0)
      exec (.fred d t) s = .next (onBeat (.fred d t) (shRegs t.sh.toNat) s e (writes s e b (withFlags (withReg s e d (r.1 % 2 ^ w)) e (BitVec.ofNat 11 (r.2 % 32)))))) ∧
    (Ready (.imax d t) s e b → Reads s e t.c c → (if t.f = 1 then Reads s e d o else o = 0) →
      let cands := (List.range n).filterMap (fun j => if on w j then some (elem x w j, (fld c 31 0 + j) % 2 ^ 32) else none) ++
        (if o.getLsbD 96 then [(o.toNat % 2 ^ w, fld o 95 64)] else [])
      let fl := if !isInt ty && cands.any (fun q => (k.rd q.1).isSnan) then 16 else 0
      let r := match imaxBest (imaxBetter k (isInt ty) w (tySigned ty)) cands with
        | none => 0
        | some (v, key) => (if isInt ty then v else k.clean v) + key * 2 ^ 64 + 2 ^ 96 +
            (if !isInt ty && (k.rd v).isNan then 2 ^ 97 else 0)
      exec (.imax d t) s = .next (onBeat (.imax d t) (shRegs t.sh.toNat) s e (writes s e b (withFlags (withReg s e d r) e fl)))) ∧
    (Ready (.fdot d t) s e b → ReadsGrp s e t.sh t.c y → ReadsGrp s e t.sh d z →
      let g := fun j =>
        let acc := decodeF fmtF32 (elem z 32 j)
        let v := fdotSum k w x y (j * (32 / w)) (32 / w) (acc, if acc.isSnan then 16 else 0)
        let r := roundVal fmtF32 { mode := k.env.mode } v.1
        (r.1, v.2 ||| r.2)
      exec (.fdot d t) s = .next (onBeat (.fdot d t) (shRegs t.sh.toNat) s e (writes s e b (withFlags
        (grpWrite a e.ix t.sh d 32 p t.pn (elems 32 (fun j => (g j).1) (shElems t.sh.toNat 32))) e
        (raisedBy (on 32) (fun j => (g j).2) (shElems t.sh.toNat 32)))))))

/-- FCVT, QNT and DQNT convert the enabled elements between formats of different widths, QNT with SCL gives the scale code of its element; FCVT with RND 3
rounds by Philox words of a key and counter in wC, or of the bound stream (as forwarded), whose counter moves on by the blocks drawn. RAND writes Philox words of the key in wB and the counter in wC (moved on with UPD), or of the bound stream, whose counter moves on by one block a
register. ROPE rotates each pair of elements by the position times the pair's entry of the rotary table; ROPE with SET writes the enabled words of its group to
the table's entries from F[5:0] on, modulo 64. -/
def Obligations.ConversionsDrawsRotary : Prop :=
  (∀ (s : State) (e : Env) (b : List Nat) (d : BitVec 7) (t : TailV) (x : Nat) (c : W128) (sd si : Nat),
    let a := s.act e.d e.c
    let fpc := (s.ctx e).fpc
    let ty := t.ty.toNat
    let sty := t.f.toNat % 32
    let l := sidesOf t.sh (tyBits sty) (tyBits ty)
    let mode := convMode fpc (t.f.toNat / 32)
    let rnd := fun (key ctr j : Nat) => (philoxBlock key ((ctr + j / 4) % 2 ^ 128) >>> (32 * (j % 4))) % 2 ^ 32
    (Ready (.fcvt d t) s e b → regsRead a e.ix t.b.toNat l.sn = .ok x → mode ≠ 5 →
      exec (.fcvt d t) s = .next (onBeat (.fcvt d t) (shRegs t.sh.toNat) s e (writes s e b (convWrite a e.ix d t l x (fun _ v => convEl fpc ty sty mode 0 v))))) ∧
    (Ready (.fcvt d t) s e b → regsRead a e.ix t.b.toNat l.sn = .ok x → mode = 5 → Reads s e t.c c → c.getLsbD 127 = false →
      exec (.fcvt d t) s = .next (onBeat (.fcvt d t) (shRegs t.sh.toNat) s e (writes s e b (convWrite a e.ix d t l x
        (fun j v => convEl fpc ty sty 5 (rnd (fld c 63 0) (fld c 126 64) j) v))))) ∧
    (Ready (.fcvt d t) s e b → regsRead a e.ix t.b.toNat l.sn = .ok x → mode = 5 → Reads s e t.c c → c.getLsbD 127 = true →
      s.streamAway (drawn s e) = false → s.streamOf (drawn s e) = some (sd, si) →
      streamError s sd si false = none → (s.stream sd si).st ≠ .migrating →
      let q := s.stream sd si
      let u := endDraw (s.setStream sd si { q with ctr := q.ctr + BitVec.ofNat 128 ((l.n + 3) / 4) }) e
      exec (.fcvt d t) s = .next (onBeat (.fcvt d t) (shRegs t.sh.toNat) s e (goesOn e b (u.setAct e.d e.c (convWrite (u.act e.d e.c) e.ix d t l x
        (fun j v => convEl fpc ty sty 5 (rnd q.key.toNat q.ctr.toNat j) v)))))) ∧
    (Ready (.qnt d t) s e b → regsRead a e.ix t.b.toNat l.sn = .ok x → Reads s e t.c c →
      exec (.qnt d t) s = .next (onBeat (.qnt d t) (shRegs t.sh.toNat) s e (writes s e b (convWrite a e.ix d t l x (fun _ v => qntEl fpc ty sty (fld c 7 0) v))))) ∧
    (Ready (.dqnt d t) s e b → regsRead a e.ix t.b.toNat l.sn = .ok x → Reads s e t.c c →
      exec (.dqnt d t) s = .next (onBeat (.dqnt d t) (shRegs t.sh.toNat) s e (writes s e b (convWrite a e.ix d t l x (fun _ v => dqntEl fpc ty sty (fld c 7 0) v))))) ∧
    (Ready (.qntScl d t) s e b → Reads s e t.b c →
      let r := sclCode ty (readTy fpc sty (c.toNat % 2 ^ tyBits sty))
      exec (.qntScl d t) s = .next (writes s e b (
        if (predRead a (s.ctx e) t.p.toNat).testBit 0 != t.pn then withFlags (withReg s e d r.1) e (BitVec.ofNat 11 (r.2 % 32)) else a)))) ∧
  (∀ (s : State) (e : Env) (b : List Nat) (d : BitVec 7) (t : TailV) (kv c : W128) (sd si : Nat),
    let a := s.act e.d e.c
    let n := shRegs t.sh.toNat
    let p := predRead a (s.ctx e) t.p.toNat
    let word := fun (key ctr j : Nat) =>
      let u := (philoxBlock key ((ctr + j / 4) % 2 ^ 128) >>> (32 * (j % 4))) % 2 ^ 32
      if t.ty = 5 then u else (roundF fmtF32 {} false (2 * (u / 512) + 1) (-24) false).1
    (Ready (.rand d t) s e b → t.f.getLsbD 0 = false → Reads s e t.b kv → Reads s e t.c c →
      let u := grpWrite a e.ix t.sh d 32 p t.pn (elems 32 (word (fld kv 63 0) c.toNat) (4 * n))
      exec (.rand d t) s = .next (onBeat (.rand d t) (shRegs t.sh.toNat) s e (writes s e b (
        if t.f.getLsbD 1 then regWrite u e.ix t.c.toNat ((c.toNat + n) % 2 ^ 128) allBytes else u)))) ∧
    (Ready (.rand d t) s e b → t.f.getLsbD 0 = true → s.streamAway (drawn s e) = false →
      s.streamOf (drawn s e) = some (sd, si) → streamError s sd si false = none → (s.stream sd si).st ≠ .migrating →
      let q := s.stream sd si
      let u := endDraw (s.setStream sd si { q with ctr := q.ctr + BitVec.ofNat 128 n }) e
      exec (.rand d t) s = .next (onBeat (.rand d t) (shRegs t.sh.toNat) s e (goesOn e b (u.setAct e.d e.c
        (grpWrite (u.act e.d e.c) e.ix t.sh d 32 p t.pn (elems 32 (word q.key.toNat q.ctr.toNat) (4 * n)))))))) ∧
  (∀ (s : State) (e : Env) (b : List Nat) (d : BitVec 7) (t : TailV) (x : Nat) (c : W128),
    let a := s.act e.d e.c
    let w := tyBits t.ty.toNat
    let n := shElems t.sh.toNat w / 2
    let p := predRead a (s.ctx e) t.p.toNat
    ReadsGrp s e t.sh t.b x →
    (Ready (.rope d t) s e b → Reads s e t.c c →
      let g := fun j => ropePair (fpElt (s.ctx e).fpc t.ty.toNat)
        (fld c 31 0 * (tget 0 (rotarySeen a (s.ctx e)) ((t.f.toNat + j) % 64)).toNat % 2 ^ 32) (elem x w (2 * j)) (elem x w (2 * j + 1))
      exec (.rope d t) s = .next (onBeat (.rope d t) (shRegs t.sh.toNat) s e (writes s e b (withFlags
        (regsWrite a e.ix d.toNat (elems (2 * w) (fun j => (g j).1.1 + (g j).1.2 * 2 ^ w) n)
          (enMask p t.pn (2 * w / 8) (shBytes t.sh.toNat)) (shRegs t.sh.toNat)) e
        (raisedBy (fun j => p.testBit (j * (2 * w) / 8) != t.pn) (fun j => (g j).2) n))))) ∧
    (Ready (.ropeSet d t) s e b →
      ∃ r, exec (.ropeSet d t) s = .next (onBeat (.ropeSet d t) (shRegs t.sh.toNat) s e (writes s e b { a with rotary := r })) ∧
        ∀ i, i < 64 → tget 0 r i =
          let j := (i + 64 - t.f.toNat % 64) % 64
          if j < shElems t.sh.toNat 32 ∧ (p.testBit (4 * j) != t.pn) = true then BitVec.ofNat 32 (elem x 32 j) else tget 0 a.rotary i))

/-! ## Chapter 06: the paddock -/

/-- LD and ST move the enabled registers of a group between the workspace and the paddock, in the region that holds the whole access: a load extends
each value, a store puts each register's low bytes; with no register enabled nothing is read, written or checked. MOVX and MOVXS move whole registers from or to a computed index, predicated by register; GATH and SCAT move the enabled elements from or to
computed paddock addresses, in ascending order. GENNEW renews a region's generation with NEXT when no lock overlaps the region and no granule holds a tag of the lead window, and returns it; for an
absent scratch region it returns 0. GENQ reports a region; GENQ.gran a granule's liveness and its region. -/
def Obligations.PaddockAccess : Prop :=
  (∀ (s : State) (e : Env) (b : List Nat) (d : BitVec 7) (t : TailM) (ea : Nat) (gen : BitVec 10) (vs : List (Nat × Nat)),
    let a := s.act e.d e.c
    let ks := mEnabled a (s.ctx e) t
    let m := Nat.min (2 ^ t.sz.toNat) 16
    (ks = [] → (Ready (.ld d t) s e b → exec (.ld d t) s = .next (onBeat (.ld d t) (szRegs t.sz) s e (writes s e b a))) ∧
               (Ready (.st d t) s e b → exec (.st d t) s = .next (onBeat (.st d t) (szRegs t.sz) s e (writes s e b a)))) ∧
    (ks ≠ [] → mEa a e.ix t = .ok ea → ea % m = 0 →
      (Ready (.ld d t) s e b → ldstCheck a (s.ctx e) false ea m ks = .ok gen →
        exec (.ld d t) s = .next (onBeat (.ld d t) (szRegs t.sz) s e (writes s e b (ks.foldl (fun u k =>
          regWrite u e.ix (d.toNat + k) (extend t.sx m (padBytes a.pad gen (ea + 16 * k) m)) allBytes) a)))) ∧
      (Ready (.st d t) s e b → ldstCheck a (s.ctx e) true ea m ks = .ok gen → dataRegs a e.ix d.toNat ks = .ok vs →
        exec (.st d t) s = .next (onBeat (.st d t) (szRegs t.sz) s e (writes s e b { a with
          pad := vs.foldl (fun p kv => padPut p gen (ea + 16 * kv.1) m kv.2) a.pad }))))) ∧
  (∀ (s : State) (e : Env) (b : List Nat) (d : BitVec 7) (t : TailV) (x : W128) (i v : Nat) (ks vs : Nat → Nat) (gs : Nat → BitVec 10),
    let a := s.act e.d e.c
    let cnt := shRegs t.sh.toNat
    let p := predRead a (s.ctx e) t.p.toNat
    let w := tyBits t.ty.toNat
    let n := shElems t.sh.toNat w
    let on := (List.range n).filter (fun j => p.testBit (j * w / 8) != t.pn)
    let at' := fun j => fld x 63 0 + ks j * 2 ^ (t.f.toNat % 8)
    let regs := enMask p t.pn 16 (16 * cnt)
    (Ready (.movx d t) s e b → Reads s e t.b x → i = fld x 15 0 + t.c.toNat → i % cnt = 0 → i + cnt ≤ (s.ctx e).wsz.toNat →
      regsRead a e.ix i cnt = .ok v → exec (.movx d t) s = .next (onBeat (.movx d t) (shRegs t.sh.toNat) s e (writes s e b (regsWrite a e.ix d.toNat v regs cnt)))) ∧
    (Ready (.movxs d t) s e b → Reads s e d x → i = fld x 15 0 + t.c.toNat → i % cnt = 0 → i + cnt ≤ (s.ctx e).wsz.toNat →
      ReadsGrp s e t.sh t.b v → exec (.movxs d t) s = .next (onBeat (.movxs d t) (shRegs t.sh.toNat) s e (writes s e b (regsWrite a e.ix i v regs cnt)))) ∧
    (Ready (.gath d t) s e b → (on ≠ [] → Reads s e t.b x) →
      (∀ j ∈ on, elemRead a e.ix t.c w j = .ok (ks j) ∧ at' j % (w / 8) = 0 ∧ at' j < 2 ^ 20 ∧
        padRd a (s.ctx e) (at' j) (at' j) (w / 8) = .ok (vs j)) →
      exec (.gath d t) s = .next (onBeat (.gath d t) (shRegs t.sh.toNat) s e (writes s e b (grpWrite a e.ix t.sh d w p t.pn
        (elems w (fun j => if j ∉ on then 0 else if t.ty = 0x0E ∨ t.ty = 0x0F then vs j % 64 else vs j) n))))) ∧
    (Ready (.scat d t) s e b → (on ≠ [] → Reads s e t.b x) →
      (∀ j ∈ on, elemRead a e.ix t.c w j = .ok (ks j) ∧ at' j % (w / 8) = 0 ∧ at' j < 2 ^ 20 ∧
        padCheck a (s.ctx e) true (at' j) (at' j) (w / 8) = .ok (gs j) ∧ elemRead a e.ix d w j = .ok (vs j)) →
      exec (.scat d t) s = .next (onBeat (.scat d t) (shRegs t.sh.toNat) s e (writes s e b { a with
        pad := on.foldl (fun m j => padPut m (gs j) (at' j) (w / 8) (vs j)) a.pad })))) ∧
  (∀ (s : State) (e : Env) (b : List Nat) (d : BitVec 7) (t : TailV) (x : W128) (q : Nat),
    let k := s.core e.d e.c
    let c := s.ctx e
    let r := t.f.toNat % 4
    (Ready (.gennew d t) s e b → r ≠ 0 → (c.region r).2.1 = 0 → exec (.gennew d t) s = .next (writes s e b (withReg s e d 0))) ∧
    (Ready (.gennew d t) s e b → (r = 0 ∨ (c.region r).2.1 ≠ 0) →
      k.act.locks.any (fun l => l.space = 0 && meets l.lo (l.hi + 1 - l.lo) (c.region r).1 (c.region r).2.1) = false →
      allocStalls k = false →
      exec (.gennew d t) s = .next (goesOn e b (
        let u := { k with act := k.act.setCtx e.ix (c.setGen r k.next), next := if k.next = 1023 then 1 else k.next + 1,
                          shear := { k.shear with waiting := false, stalled := 0, forced := false } }
        s.setCore e.d e.c { u with act := regWrite u.act e.ix d.toNat k.next.toNat allBytes }))) ∧
    (Ready (.genq d t) s e b → exec (.genq d t) s = .next (writes s e b (withReg s e d (genqValue k c r)))) ∧
    (Ready (.genqGran d t) s e b → Reads s e t.b x → fld x 63 0 < 2 ^ 20 → c.regionOf (fld x 63 0) 1 = some q →
      exec (.genqGran d t) s = .next (writes s e b (withReg s e d
        ((if granLive k.act.pad (fld x 63 0 / 16) (c.region q).2.2 then 1 else 0) + 2 * q)))))

/-- A paddock access that no region of the context holds whole faults LOCAL_RANGE; a misaligned one faults ALIGN with its address first; a read under
STRICT of a stale granule faults GEN_TRAP with the first such granule's first byte; a read of a byte under a W lock faults RLOCK with it. Stated of LD. -/
def Obligations.PaddockFaults : Prop :=
  ∀ (s : State) (e : Env) (b : List Nat) (d : BitVec 7) (t : TailM) (ea k : Nat),
    let a := s.act e.d e.c
    let x := s.ctx e
    let m := Nat.min (2 ^ t.sz.toNat) 16
    Ready (.ld d t) s e b → (s.slotOf e).beat = none → mEnabled a x t = [k] → mEa a e.ix t = .ok ea →
    (ea % m ≠ 0 → exec (.ld d t) s = .next (takeFault s e { code := 0x05, faddr := some ea })) ∧
    (ea % m = 0 → (2 ^ 20 ≤ ea ∨ x.regionOf (ea + 16 * k) m = none) →
      exec (.ld d t) s = .next (takeFault s e { code := 0x04, faddr := some ea })) ∧
    (ea % m = 0 → ea < 2 ^ 20 → ∀ r q, x.regionOf (ea + 16 * k) m = some r → lockedByte a 0 false (ea + 16 * k) m = some q →
      exec (.ld d t) s = .next (takeFault s e { code := 0x07, faddr := some q })) ∧
    (ea % m = 0 → ea < 2 ^ 20 → ∀ r g, x.regionOf (ea + 16 * k) m = some r → lockedByte a 0 false (ea + 16 * k) m = none → x.strict = true →
      staleAt a.pad (x.region r).2.2 (ea + 16 * k) m = some g →
      exec (.ld d t) s = .next (takeFault s e { code := 0x06, faddr := some g }))

/-- Bytes put in the paddock under a generation read back under it, and no granule outside the bytes changes. -/
def Obligations.PaddockReadAfterWrite : Prop :=
  ∀ (p : Sparse Gran) (gen : BitVec 10) (a n v : Nat), gen ≠ 0 →
    padBytes (padPut p gen a n v) gen a n = v % 256 ^ n ∧
    (∀ g, (g < a / 16 ∨ (a + n - 1) / 16 < g) → tget {} (padPut p gen a n v) g = tget {} p g) ∧
    (∀ c, c < a ∨ a + n ≤ c → padBytes (padPut p gen a n v) gen c 1 = padBytes p gen c 1)

/-! ## Chapter 10: global memory -/

/-- LDG and LDNC complete once the rights, the translation and the bytes of every enabled register are there (an LDG with ORD 4 also waits for its context's
earlier stores with ORD 4 at its scope): each enabled register gets its value, extended, and the context goes on; with none enabled nothing is read. STG and RED go on at once when their
checks pass and the core's store buffer has room: one entry with the address, the bytes of the enabled registers, the operation, ORD, SCOPE and DOM enters the buffer at its end; with none enabled nothing is stored. A copy of the line that the core
holds under another virtual address is retagged first (R405). -/
def Obligations.GlobalLoadsStores : Prop :=
  (∀ (s : State) (e : Env) (b : List Nat) (d : BitVec 7) (t : TailM) (ea : Nat) (vs : List (Nat × Nat)),
    let ks := mEnabled (s.act e.d e.c) (s.ctx e) t
    let m := Nat.min (2 ^ t.sz.toNat) 16
    let r := ks.foldl (fun s k => retagLine s (agentOf e) (ea + 16 * k)) s
    let loaded := fun (u : State) => goesOn e b (endAccess (u.setAct e.d e.c
      (vs.foldl (fun a kv => regWrite a e.ix (d.toNat + kv.1) (extend t.sx m kv.2) allBytes) (u.act e.d e.c))) (agentOf e))
    (ks = [] → (Ready (.ldg d t) s e b → exec (.ldg d t) s = .next (goesOn e b s)) ∧
               (Ready (.ldnc d t) s e b → exec (.ldnc d t) s = .next (goesOn e b s))) ∧
    (ks ≠ [] → mEa (s.act e.d e.c) e.ix t = .ok ea → ea % m = 0 →
      (Ready (.ldg d t) s e b → loadChecks s (agentOf e) ea m ks = .ok () →
        (t.ord = 4 → ∀ x ∈ (s.core e.d e.c).sb, x.hart = true ∨ x.ix ≠ e.ix ∨ x.inc ≠ (s.ctx e).inc ∨ x.ord ≠ 4 ∨ x.scope ≠ t.scope) →
        loadPieces r (agentOf e) ea m ks = .ok vs → exec (.ldg d t) s = .next (loaded r)) ∧
      (Ready (.ldnc d t) s e b → ldncChecks s (agentOf e) ea ks = .ok () → ldncPieces s (agentOf e) ea m ks = .ok vs →
        exec (.ldnc d t) s = .next (loaded s)))) ∧
  (∀ (s : State) (e : Env) (b : List Nat) (d : BitVec 7) (t : TailM) (ea : Nat) (fs vs : List (Nat × Nat)) (v : W128),
    let a := s.act e.d e.c
    let ks := mEnabled a (s.ctx e) t
    let m := Nat.min (2 ^ t.sz.toNat) 16
    let n := 2 ^ t.sz.toNat
    let room := sbRoom (s.core e.d e.c)
    let stored := fun (u : State) (ps : List (Nat × List Byte)) (op : AccOp) =>
      let k := u.core e.d e.c
      goesOn e b (endAccess (u.setCore e.d e.c { k with
        sb := k.sb ++ [{ seq := k.sbSeq, hart := false, ix := e.ix, inc := (s.ctx e).inc, va := ea, pieces := ps, op := op, ord := t.ord,
                         scope := t.scope, dom := (s.ctx e).dom }]
        sbSeq := k.sbSeq + 1 }) (agentOf e))
    (ks = [] → Ready (.stg d t) s e b → exec (.stg d t) s = .next (goesOn e b s)) ∧
    (ks ≠ [] → Ready (.stg d t) s e b → mEa a e.ix t = .ok ea → ea % m = 0 → storeAddrs s (agentOf e) false ea m ks = .ok fs →
      dataRegs a e.ix d.toNat ks = .ok vs → sbPlaces (piecesOf m fs vs) ≤ room →
      exec (.stg d t) s = .next (stored (ks.foldl (fun s k => retagLine s (agentOf e) (ea + 16 * k)) s) (piecesOf m fs vs) .store)) ∧
    (mOn a (s.ctx e) t 0 = false → Ready (.red d t) s e b → exec (.red d t) s = .next (goesOn e b s)) ∧
    (mOn a (s.ctx e) t 0 = true → Ready (.red d t) s e b → mEa a e.ix t = .ok ea → ea % n = 0 → Reads s e d v →
      storeAddrs s (agentOf e) true ea n [0] = .ok fs → (faClass ((piecesOf n fs [(0, v.toNat)]).headD (0, [])).1 = 4 → t.aop = 2) →
      sbPlaces (piecesOf n fs [(0, v.toNat)]) ≤ room →
      exec (.red d t) s = .next (stored (retagLine s (agentOf e) ea) (piecesOf n fs [(0, v.toNat)]) (.red t.aop))))

/-- The integer operations of an atomic (swap, add, and, or, xor, signed and unsigned extrema), on words of the access size. ATOM and CAS complete when the old value has come back: it is written to wD, extended; a predicate-disabled one does nothing. -/
def Obligations.Atomics : Prop :=
  (∀ (n m v : Nat), 0 < n → m < 2 ^ (8 * n) → v < 2 ^ (8 * n) →
    let x := BitVec.ofNat (8 * n) m
    let y := BitVec.ofNat (8 * n) v
    aopVal 1 n m v = v ∧ aopVal 2 n m v = (x + y).toNat ∧ aopVal 3 n m v = (x &&& y).toNat ∧ aopVal 4 n m v = (x ||| y).toNat ∧
    aopVal 5 n m v = (x ^^^ y).toNat ∧ aopVal 6 n m v = (if x.sle y then x else y).toNat ∧
    aopVal 7 n m v = (if x.sle y then y else x).toNat ∧ aopVal 8 n m v = (if x ≤ y then x else y).toNat ∧
    aopVal 9 n m v = (if x ≤ y then y else x).toNat) ∧
  (∀ (s : State) (e : Env) (b : List Nat) (d : BitVec 7) (t : TailM) (ea m : Nat) (v c : W128),
    let a := s.act e.d e.c
    let n := 2 ^ t.sz.toNat
    let low := fun (x : W128) => BitVec.ofNat 128 (x.toNat % 2 ^ (8 * n))
    let done := goesOn e b (endAccess (s.setAct e.d e.c (regWrite a e.ix d.toNat (extend t.sx n m) allBytes)) (agentOf e))
    (mOn a (s.ctx e) t 0 = false →
      (Ready (.atom d t) s e b → exec (.atom d t) s = .next (goesOn e b s)) ∧
      (Ready (.cas d t) s e b → exec (.cas d t) s = .next (goesOn e b s))) ∧
    (mOn a (s.ctx e) t 0 = true → mEa a e.ix t = .ok ea → ea % n = 0 →
      (Ready (.atom d t) s e b → Reads s e d v → atomicValue s (agentOf e) ea n (.atom t.aop) (low v) 0 = .ok m →
        exec (.atom d t) s = .next done) ∧
      (Ready (.cas d t) s e b → Reads s e d c → regRead a e.ix (d.toNat + 1) = .ok v →
        atomicValue s (agentOf e) ea n .cas (low v) (low c) = .ok m → exec (.cas d t) s = .next done)))

/-- FENCE goes on when the stores older than it have performed, and at once for a wider acquire; PREF has no visible effect; FLUSHL cleans its line when no write to it is
pending at home; INVL drops the line from the die's fabric cache; FABINV empties the fabric caches in scope and keeps the line that its own slot executes. -/
def Obligations.FencesAndLines : Prop :=
  ∀ (s : State) (e : Env) (b : List Nat) (d : BitVec 7) (t : TailV) (m : TailM) (ea fa q : Nat),
    let a := s.act e.d e.c
    let k := s.core e.d e.c
    (Ready (.fence d t) s e b → 4 ≤ t.f.toNat % 8 → t.f.toNat / 8 = 1 → exec (.fence d t) s = .next (goesOn e b s)) ∧
    (Ready (.fence d t) s e b → k.sb = [] → (∀ n, (s.pend (agentOf e)).ask ≠ .fence n) → exec (.fence d t) s = .next (goesOn e b s)) ∧
    (Ready (.fence d t) s e b → (t.f.toNat % 8 ≤ 3 ∨ t.f.toNat / 8 ≠ 1) → (s.pend (agentOf e)).ask = .fence q →
      (∀ x ∈ k.sb, q < x.seq) → exec (.fence d t) s = .next (goesOn e b (endAccess s (agentOf e)))) ∧
    (Ready (.pref d m) s e b → exec (.pref d m) s = .next (goesOn e b s)) ∧
    (mOn a (s.ctx e) m 0 = false →
      (Ready (.flushl d m) s e b → exec (.flushl d m) s = .next (goesOn e b s)) ∧
      (Ready (.invl d m) s e b → exec (.invl d m) s = .next (goesOn e b s))) ∧
    (mOn a (s.ctx e) m 0 = true → mEa a e.ix m = .ok ea → lineTarget s (agentOf e) ea = .ok (some fa) →
      (Ready (.flushl d m) s e b → homeFree s fa = true →
        exec (.flushl d m) s = .next (goesOn e b (endAccess (cleanLine s fa) (agentOf e)))) ∧
      (Ready (.invl d m) s e b → exec (.invl d m) s = .next (goesOn e b (endAccess
        (s.setDie e.d { s.die e.d with fab := (s.die e.d).fab.filter (fun p => decide (p.2.1 ≠ fa / 64 * 64)) }) (agentOf e))))) ∧
    (Ready (.fabinv d t) s e b →
      let u := (if t.f = 3 then [e.d] else List.range 12).foldl fabEmpty s
      exec (.fabinv d t) s = .next (goesOn e b (u.setSlotOf e { u.slotOf e with line := (s.slotOf e).line })))

/-! ## Chapter 09: counters, chunk maps, triggers, barriers -/

/-- CWAIT and CWAITR go on when the counter is at or above the threshold (or equals it, for CWAITR with EQ), and at any later turn once that has been so;
else the context waits: a stray leaves its slot BLOCKED, with WHY, WK and WT. With OVFE a counter with OVF faults COUNTER_OVF. Signal adds to a counter's 16-bit value, saturating with sticky OVF at 0 and 65,535, and makes an armed trigger pending when its condition holds;
a set gives the value and clears OVF. CSIG signals its core's counter and CSET sets it as releases: at once when the context has no earlier store left to perform, else after those; under OVFE a CSIG that would
overflow faults COUNTER_OVF; with RMT a packet of class urgent goes to the core of its route. CGET returns the counter map and clears OVF with OCLR. -/
def Obligations.CounterOps : Prop :=
  (∀ (s : State) (e : Env) (b : List Nat) (d : BitVec 7) (i : TailI) (t : TailV) (kv tv : W128),
    let x := s.ctx e
    let count := fun (k : Nat) => ((s.act e.d e.c).counter k).value.toNat
    let ovf := fun (k : Nat) => ((s.act e.d e.c).counter k).ovf
    let waits := fun (i : Instr) (k n : Nat) (eq : Bool) =>
      (x.ovfe = true → ovf k = true → exec i s = .next (takeFault s e { code := 0x0D, faddr := some k })) ∧
      ((x.ovfe = false ∨ ovf k = false) →
        let met := (if eq then count k = n else n ≤ count k) ∨ (x.satisfied = true ∧ x.wait = some (.counter k n eq))
        (met → exec i s = .next (goesOn e b s)) ∧
        (¬met → ∃ u, exec i s = .next u ∧ (u.ctx e).wait = some (.counter k n eq) ∧ (u.ctx e).satisfied = false ∧ (u.ctx e).ip = x.ip ∧
          (e.mode = .stray → (u.slotOf e).mode = .empty ∧ (u.ctx e).state = .blocked ∧ (u.ctx e).why = 1 ∧
            (u.ctx e).wk = BitVec.ofNat 8 k ∧ (u.ctx e).wt = BitVec.ofNat 16 n)))
    (Ready (.cwait d i) s e b → waits (.cwait d i) (fld i.imm 24 17) (fld i.imm 15 0) false) ∧
    (Ready (.cwaitr d t) s e b → Reads s e t.b kv → Reads s e t.c tv →
      waits (.cwaitr d t) (fld kv 7 0) (fld tv 15 0) (decide (t.f = 1)))) ∧
  (∀ (c : Counter) (inc : Int),
    let v : Int := c.value.toNat + inc
    ((signalCounter c inc).value.toNat : Int) = max 0 (min 65535 v) ∧
    (signalCounter c inc).ovf = (c.ovf || decide (v < 0 ∨ 65535 < v)) ∧
    (c.trig = none → (signalCounter c inc).trig = none) ∧
    (∀ g, c.trig = some g → g.pending = false →
      let n := (signalCounter c inc).value
      let hit := if g.eq then decide (n = g.thr) else decide (g.thr ≤ n)
      (signalCounter c inc).trig = some (if hit then { g with pending := true, fired := n } else g)) ∧
    (∀ g, c.trig = some g → g.pending = true → (signalCounter c inc).trig = some g)) ∧
  (∀ (a : SetState) (k v : Nat) (inc : Int), v < 65536 →
    (signalSet a k inc).counter k = signalCounter (a.counter k) inc ∧
    ((setSet a k v).counter k).value.toNat = v ∧ ((setSet a k v).counter k).ovf = false ∧
    (∀ j, j ≠ k → (signalSet a k inc).counter j = a.counter j ∧ (setSet a k v).counter j = a.counter j)) ∧
  (∀ (s : State) (e : Env) (b : List Nat) (d : BitVec 7) (t : TailI) (r : W128),
    let a := s.act e.d e.c
    let x := s.ctx e
    let q := s.core e.d e.c
    let k := fld t.imm 24 17
    let low := fld t.imm 15 0
    let c := a.counter k
    let n := lastStore q e.ix x.inc
    let later := fun (op : UpdOp) =>
      goesOn e b (s.setCore e.d e.c { q with updates := q.updates ++ [{ after := n, ix := e.ix, inc := x.inc, op := op }] })
    let p : Packet := { cls := 0, src := senderOf s e, pkg := fld r 34 23, die := fld r 22 19, core := fld r 18 12,
                        body := .signal (BitVec.ofNat 8 k) (sext 16 low) (r.setWidth 64) none }
    (Ready (.csig d t) s e b → x.ovfe = false → exec (.csig d t) s = .next (
      if n = 0 then writes s e b (signalSet a k (sext 16 low)) else later (.signal k (sext 16 low)))) ∧
    (Ready (.csig d t) s e b → x.ovfe = true → n = 0 → exec (.csig d t) s = .next (
      if (c.value.toNat : Int) + sext 16 low < 0 ∨ 65535 < (c.value.toNat : Int) + sext 16 low then
        takeFault s e { code := 0x0D, faddr := some k }
      else writes s e b (signalSet a k (sext 16 low)))) ∧
    (Ready (.csigRmt d t) s e b → Reads s e t.b r → fld r 18 12 ≤ 95 → fld r 22 19 ≤ 11 →
      (n = 0 → sendsAhead s e.d e.c p = false → exec (.csigRmt d t) s = .next (goesOn e b (sendPacket s p))) ∧
      (n ≠ 0 → exec (.csigRmt d t) s = .next (later (.packet p)))) ∧
    (Ready (.cset d t) s e b → exec (.cset d t) s = .next (if n = 0 then writes s e b (setSet a k low) else later (.set k low))) ∧
    (Ready (.cget d t) s e b → exec (.cget d t) s = .next (writes s e b (
      regWrite (if t.imm.getLsbD 16 then wakeAll (a.setCounter k (trigEval { c with ovf := false })) else a) e.ix d.toNat
        (c.value.toNat + (if c.ovf then 65536 else 0)) allBytes))))

/-- CTRIG arms a trigger on a counter that has none (status 0, evaluated at once) or reports 1; CTRIG.off disarms the caller's own idle trigger, else
reports 3 (none), 1 (pending) or 4 (another domain). CHKW reads a chunk map under its mask, clears what it saw with CLR, and completes when it is satisfied or has NB. BAR
joins its scope's next phase and goes on when the phase is full. -/
def Obligations.TriggersChunksBarriers : Prop :=
  ∀ (s : State) (e : Env) (b : List Nat) (d : BitVec 7) (t : TailV) (h v m : W128) (g : Trigger) (l : Nat),
    let a := s.act e.d e.c
    let x := s.ctx e
    let k := fld v 23 16
    let c := a.counter k
    let cm := tget 0 a.chunk t.c.toNat
    let sat := if t.f.getLsbD 0 then decide (cm &&& m ≠ 0 ∨ m = 0) else decide (cm &&& m = m)
    let n := tget 0 x.phases t.f.toNat + 1
    let joinedS := s.setCtx e { x with phases := tset 0 x.phases t.f.toNat n }
    (Ready (.ctrig d t) s e b → Reads s e t.b h → Reads s e t.c v → fld v 31 28 = 0 → c.trig = some g →
      exec (.ctrig d t) s = .next (writes s e b (withReg s e d 1))) ∧
    (Ready (.ctrig d t) s e b → Reads s e t.b h → Reads s e t.c v → fld v 31 28 = 0 → c.trig = none →
      exec (.ctrig d t) s = .next (writes s e b (
        let arm : Trigger :=
          { hip := h.setWidth 57, arg := BitVec.ofNat 32 (fld v 63 32), eq := v.getLsbD 27,
            prio := BitVec.ofNat 3 (fld v 26 24), thr := BitVec.ofNat 16 (fld v 15 0), dom := x.dom, eprio0 := x.prio }
        regWrite (a.setCounter k (trigEval { c with trig := some arm })) e.ix d.toNat 0 allBytes))) ∧
    (Ready (.ctrigOff d t) s e b → Reads s e t.c v →
      exec (.ctrigOff d t) s = .next (writes s e b (match c.trig with
        | none => withReg s e d 3
        | some g => if g.pending then withReg s e d 1 else if g.dom ≠ x.dom then withReg s e d 4
                    else regWrite (a.setCounter k { c with trig := none }) e.ix d.toNat 0 allBytes))) ∧
    (Ready (.chkw d t) s e b → Reads s e t.b m → (sat = true ∨ t.f.getLsbD 2 = true) →
      exec (.chkw d t) s = .next (writes s e b (regWrite
        (if sat && t.f.getLsbD 1 then { a with chunk := tset 0 a.chunk t.c.toNat (cm &&& ~~~(cm &&& m)) } else a)
        e.ix d.toNat (cm &&& m).toNat allBytes))) ∧
    (Ready (.bar d t) s e b → x.launch = some l → x.wait = none → lastStore (s.core e.d e.c) e.ix x.inc = 0 →
      phaseFull joinedS l t.f.toNat (unitOf t.f.toNat x.lco) n = true →
      exec (.bar d t) s = .next (goesOn e b (completePhase joinedS l t.f.toNat (unitOf t.f.toNat x.lco) n))) ∧
    (∀ n', Ready (.bar d t) s e b → x.launch = some l → x.wait = some (.bar t.f.toNat n') → x.satisfied = true →
      exec (.bar d t) s = .next (goesOn e b s))

/-! ## Chapter 12: engine commands at issue -/

/-- A command whose ranges pass the checks takes the lowest free post-queue entry with its operands, puts its range locks in place and its words into its
port's shadow set; registers and memory stay. -/
def Obligations.CommandIssues : Prop :=
  ∀ (w : Who) (p : Plan) (t : TailE) (words : Sparse W64) (s : State) (sp dp : List (Nat × Nat)) (n : Nat),
    let a := s.act w.a.die w.a.core
    let locks := p.locks (.post n) a.seq
    localOk w.x p.src = .ok () → alsoOk w.x p.src p.also = .ok () → localOk w.x p.dst = .ok () → overlapOk p.src p.dst = .ok () →
    globalLook s w.a p.src p.dst p.also = .ok (sp, dp) → endOk p.word = .ok () → freePost a = some n →
    (a.port p.port).shadowCmd = none → a.postFrozen = false → a.locks.length + locks.length ≤ 32 →
    ∃ u q, issuePlan w p t words s = .ok u ∧
      let a' := u.act w.a.die w.a.core
      tfind a'.post n = some q ∧ q.op = p.op ∧ q.issuer = w.i ∧ q.wk = t.wk.toNat ∧ q.wt = t.wt.toNat ∧ q.sk = t.sk.toNat ∧
      q.si = sext 4 t.si.toNat ∧ q.cm = p.cm ∧ q.dk = p.dk ∧ q.di = p.di ∧ q.seq = a.seq ∧ q.after = w.after ∧
      q.src = p.src.map (Walk.withPages sp) ∧ q.dst = p.dst.map (Walk.withPages dp) ∧ q.landed = [] ∧ q.ended = false ∧
      a'.locks = a.locks ++ locks ∧ (a'.port p.port).shadowCmd = some n ∧ (a'.port p.port).shadow = words ∧
      a'.pad = a.pad ∧ a'.acc = a.acc ∧ a'.ctxs = a.ctxs ∧ u.mem = s.mem ∧ u.host = s.host ∧ u.pool = s.pool

/-- GET and PUT issue a copy between a global range and a local one of LEN bytes, TCOPY, TGATH, TSCAT and CFILL one between two layout records of the same shape (a
fill: a record alone); the signal, chunk map and destination end are those the operands name. CREPLAY lets the held request of its own domain that a token names resume, or with ABORT ends it without a report; it reports 1 for no such request and 5 for another
domain's. LAYSET stores a record that passes R277 from four registers or from the paddock, KEY 0 and the conflict counter cleared; LAYGET returns a record, or the counter, which CLR
clears; LAYKEY writes KEY when the record, its pages and the key slot allow, with status 1 to 4 otherwise; RLQ reports the locks that meet a range. -/
def Obligations.CopiesAndRecords : Prop :=
  (∀ (s u : State) (e : Env) (b : List Nat) (d : BitVec 7) (t : TailE) (v : Vals) (rs rd : BitVec 512) (l : List Nat),
    let a := s.act e.d e.c
    let w := whoOf s e
    let acc := t.f12.getLsbD 0
    let sp := if acc then 1 else 0
    let len := fld v.b 95 64
    let dew := t.f12.getLsbD 6
    let x := recWalk rs t.l.toNat
    let y := recWalk rd (t.f12.toNat % 64)
    let z := recWalk rd t.l.toNat
    let word := if dew then some v.c else none
    let es := 2 ^ fld v.b 21 20
    let rec2 := (a.layout t.l.toNat).bits = rs ∧ (a.layout (t.f12.toNat % 64)).bits = rd ∧ recV rs = true ∧ recV rd = true ∧
      recSpace rs ≠ 2 ∧ recSpace rd ≠ 2 ∧ chunkOk (recCm rd) y = true ∧ (dew = true → endWordOk v.c = true)
    (Ready (.get d t) s e b → readVals a e.ix t true true false = .ok v →
      fld v.b 127 96 = 0 → len ≤ 0x100000 → fld v.c 70 69 = 0 → fld v.c 63 20 = 0 → (acc = true → fld v.c 19 18 = 0) →
      (let cm := if v.c.getLsbD 68 then some (fld v.c 67 64) else none
       let dst := linearWalk sp (fld v.c 19 0) len
       chunkOk cm dst = true →
       issuePlan w { op := .copy, src := some (linearWalk 3 (fld v.b 63 0) len), dst := some dst, cm := cm, hip := fld v.c 127 71 } t
         (valWords t 0xFC00 v) s = .ok u →
       exec (.get d t) s = .next (goesOn e b u))) ∧
    (Ready (.put d t) s e b → readVals a e.ix t true true (t.f12.getLsbD 1) = .ok v →
      fld v.b 127 120 = 0 → len ≤ 0x100000 → fld v.b 63 20 = 0 → (acc = true → fld v.b 19 18 = 0) → fld v.c 127 64 = 0 →
      (t.f12.getLsbD 1 = true → endWordOk v.c1 = true) →
      issuePlan w { op := .copy, src := some (linearWalk sp (fld v.b 19 0) len), dst := some (linearWalk 3 (fld v.c 63 0) len),
                    dk := fld v.b 103 96, di := sext 16 (fld v.b 119 104), word := if t.f12.getLsbD 1 then some v.c1 else none } t
        (valWords t 0xFC00 v) s = .ok u →
      exec (.put d t) s = .next (goesOn e b u)) ∧
    (Ready (.tcopy d t) s e b → readVals a e.ix t false dew false = .ok v → rec2 → x.e = y.e → x.count = y.count →
      issuePlan w (recPlan .copy (some x) rd y word) t (valWords t 0xFC00 v) s = .ok u →
      exec (.tcopy d t) s = .next (goesOn e b u)) ∧
    (∀ scat : Bool,
      Ready (if scat then .tscat d t else .tgath d t) s e b → readVals a e.ix t true dew false = .ok v → rec2 →
      x.e = y.e → x.extOf 0 = y.extOf 0 → x.extOf 2 = 1 → x.extOf 3 = 1 → y.extOf 2 = 1 → y.extOf 3 = 1 →
      (if scat then x.extOf 1 else y.extOf 1) ≤ 256 → fld v.b 21 20 ≠ 3 → fld v.b 127 22 = 0 → fld v.b 19 0 % es = 0 →
      localOk w.x (some x) = .ok () → localOk w.x (some y) = .ok () →
      indexList a w.x (fld v.b 19 0) es (if scat then x.extOf 1 else y.extOf 1) = .ok l →
      issuePlan w (recPlan (if scat then .scatter l else .gather l) (some x) rd y word) t (valWords t 0xFC00 v) s = .ok u →
      exec (if scat then .tscat d t else .tgath d t) s = .next (goesOn e b u)) ∧
    (Ready (.cfill d t) s e b → readVals a e.ix t true dew false = .ok v → (a.layout t.l.toNat).bits = rd → recV rd = true → recSpace rd ≠ 2 →
      chunkOk (recCm rd) z = true → (dew = true → endWordOk v.c = true) →
      issuePlan w (recPlan (.fill v.b) none rd z word) t (valWords t 0xFC00 v) s = .ok u →
      exec (.cfill d t) s = .next (goesOn e b u))) ∧
  (∀ (s : State) (e : Env) (b : List Nat) (d : BitVec 7) (t : TailV) (v : W128) (n : Nat) (p : PostEntry),
    let a := s.act e.d e.c
    Ready (.creplay d t) s e b → Reads s e t.b v →
    (heldEntry s e.d e.c (fld v 63 0) = none → exec (.creplay d t) s = .next (writes s e b (withReg s e d 1))) ∧
    (heldEntry s e.d e.c (fld v 63 0) = some (n, p) → p.issuer.dom ≠ (s.ctx e).dom →
      exec (.creplay d t) s = .next (writes s e b (withReg s e d 5))) ∧
    (heldEntry s e.d e.c (fld v 63 0) = some (n, p) → p.issuer.dom = (s.ctx e).dom → t.f = 0x30 →
      exec (.creplay d t) s = .next (writes s e b (regWrite
        { a with post := tins a.post n { p with cxlHeld := none, cxlTold := false } } e.ix d.toNat 0 allBytes))) ∧
    (heldEntry s e.d e.c (fld v 63 0) = some (n, p) → p.issuer.dom = (s.ctx e).dom → t.f = 0x31 →
      let u := dropPins (s.setCore e.d e.c (endFailed (s.core e.d e.c) n p (missingImage p))) p.op
      exec (.creplay d t) s = .next (goesOn e b (u.setAct e.d e.c (regWrite (u.act e.d e.c) e.ix d.toNat 0 allBytes))))) ∧
  (∀ (s : State) (e : Env) (b : List Nat) (d : BitVec 7) (t : TailE) (q : TailV) (r n : Nat) (v c : W128),
    let a := s.act e.d e.c
    let x := a.layout t.l.toNat
    let walk := recWalk x.bits t.l.toNat
    let store := { a with layouts := tset {} a.layouts t.l.toNat { bits := BitVec.ofNat 512 (putFld r 288 8 0), conf := 0 } }
    let h := fld v 7 0
    let bound := { a with layouts := tset {} a.layouts t.l.toNat { x with bits := BitVec.ofNat 512 (putFld x.bits.toNat 288 8 h) } }
    let told := fun (a : SetState) (st : Nat) =>
      goesOn e b (endAccess (s.setAct e.d e.c (regWrite a e.ix d.toNat st allBytes)) (agentOf e))
    (Ready (.layset d t) s e b → t.f12 = 0 → regsRead a e.ix t.b.toNat 4 = .ok r → recordOk (BitVec.ofNat 512 r) = true →
      exec (.layset d t) s = .next (writes s e b store)) ∧
    (Ready (.layset d t) s e b → t.f12 = 1 → Reads s e t.b v → fld v 127 20 = 0 → fld v 19 0 % 64 = 0 →
      padRd a (s.ctx e) (fld v 19 0) (fld v 19 0) 64 = .ok r → recordOk (BitVec.ofNat 512 r) = true →
      exec (.layset d t) s = .next (writes s e b store)) ∧
    (Ready (.layget d t) s e b → t.f12.getLsbD 0 = false →
      exec (.layget d t) s = .next (writes s e b (regsWrite a e.ix d.toNat x.bits.toNat (2 ^ 64 - 1) 4))) ∧
    (Ready (.layget d t) s e b → t.f12.getLsbD 0 = true →
      exec (.layget d t) s = .next (writes s e b (regWrite
        (if t.f12.getLsbD 1 then { a with layouts := tset {} a.layouts t.l.toNat { x with conf := 0 } } else a)
        e.ix d.toNat x.conf.toNat allBytes))) ∧
    (Ready (.laykey d t) s e b → Reads s e t.b v → fld v 127 8 = 0 →
      (recV x.bits = false → exec (.laykey d t) s = .next (told a 4)) ∧
      (recV x.bits = true → h = 0 → exec (.laykey d t) s = .next (told bound 0)) ∧
      (recV x.bits = true → h ≠ 0 → walk.space ≠ 3 → exec (.laykey d t) s = .next (told a 3)) ∧
      (recV x.bits = true → h ≠ 0 → walk.space = 3 → (s.die e.d).keyFor h (s.ctx e).dom = none →
        exec (.laykey d t) s = .next (told a 1)) ∧
      (recV x.bits = true → h ≠ 0 → walk.space = 3 → ((s.die e.d).keyFor h (s.ctx e).dom).isSome = true →
        ∀ ok, keyPages s (agentOf e) (pagesOf walk.lo walk.len) = .ok ok →
          exec (.laykey d t) s = .next (if ok then told bound 0 else told a 2))) ∧
    (Ready (.rlq d q) s e b → Reads s e q.b v → Reads s e q.c c → n = fld c 20 0 →
      let met := a.locks.filter (fun l => l.space = q.f.toNat && meets l.lo (l.hi + 1 - l.lo) (fld v 19 0) n)
      exec (.rlq d q) s = .next (writes s e b (withReg s e d (
        (if met.any (fun l => !l.w) then 1 else 0) + (if met.any (fun l => l.w && lockHoldsSome a l (fld v 19 0) n) then 2 else 0) +
        4 * met.length + 2 ^ 8 * (32 - a.locks.length) + 2 ^ 16 * (16 - a.post.length))))))

/-! ## Chapter 13: matrix arrays -/

/-- LDA and STA move the enabled registers between the accumulator and the workspace, an LDA's zero-extended, when no lock stands in the way and no word in error would be read or merged;
an LDA with PEEK reads the accumulator as `peekAcc` finds it under the commands that run. An MMA whose operands and record are valid, whose A range is local and clear of its tile, with the port's shadow set free and
room for its locks, is placed with its operands and locks, and one of a single core completes then; a gang's member completes when its arrival forms the gang, or when its gang has formed, and else waits. MMZ
places a command that locks each run of its mask's tiles for writing, and completes at once with an empty mask. WBLD places its load and makes its half valid with the image's format, logical rows and size; ACCVT places its
conversion; WBSEL sets or flips the half selected. -/
def Obligations.MatrixUnit : Prop :=
  (∀ (s : State) (e : Env) (b : List Nat) (d : BitVec 7) (t : TailM) (ea : Nat) (vs : List (Nat × Nat)),
    let a := s.act e.d e.c
    let ks := mEnabled a (s.ctx e) t
    let m := Nat.min (2 ^ t.sz.toNat) 16
    let beat := fun (i : Instr) (u : State) => onBeat i (szRegs t.sz) s e u
    (ks = [] → (Ready (.lda d t) s e b → exec (.lda d t) s = .next (beat (.lda d t) (goesOn e b s))) ∧
               (Ready (.sta d t) s e b → exec (.sta d t) s = .next (beat (.sta d t) (writes s e b a)))) ∧
    (ks ≠ [] → mEa a e.ix t = .ok ea → ea % m = 0 → ea < 2 ^ 18 → (∀ k ∈ ks, ea + 16 * k + m ≤ 0x40000) →
      (Ready (.lda d t) s e b → (∀ k ∈ ks, ldaLocked a t.sx (ea + 16 * k) m = none ∧ wordBad a.accBad (ea + 16 * k) m = none) →
        let q := if t.sx then ks.foldl (fun q k => peekAcc s e.d e.c e.ix (ea + 16 * k) m q) (a, a.acc) else (a, a.acc)
        exec (.lda d t) s = .next (beat (.lda d t) (writes s e b (ks.foldl (fun u k =>
          regWrite u e.ix (d.toNat + k) (memRead q.2 (ea + 16 * k) m) allBytes) q.1)))) ∧
      (Ready (.sta d t) s e b → (∀ k ∈ ks, lockedByte a 1 true (ea + 16 * k) m = none ∧ (m = 16 ∨ wordBad a.accBad (ea + 16 * k) m = none)) →
        dataRegs a e.ix d.toNat ks = .ok vs →
        exec (.sta d t) s = .next (beat (.sta d t) (writes s e b { a with
          acc := vs.foldl (fun mem kv => memWrite mem (ea + 16 * kv.1) m kv.2) a.acc
          accBad := vs.foldl (fun l kv => wordsWritten l (ea + 16 * kv.1) m) a.accBad }))))) ∧
  (∀ (s u : State) (e : Env) (b : List Nat) (d : BitVec 7) (t : TailE) (v : Vals),
    let a := s.act e.d e.c
    let x := s.ctx e
    let ctl := v.b
    let tile := t.f12.toNat % 16
    let half := a.half (b2n a.sel)
    let r := (a.layout t.l.toNat).bits
    let y := recWalk r t.l.toNat
    let lead := decide ((gangUnit (ctlGs ctl) e.c).1 = e.c)
    let src := if lead then some y else none
    let sc := if lead then aScales y ctl else none
    let wide := decide (mfClass half.mf = 0)
    let locks := mmaLocks a.seq tile (b2n a.sel) half.size wide src sc
    let placed := s.setAct e.d e.c (placeMatrix a
      { op := .mma (b2n a.sel) tile (t.f12.getLsbD 4) ctl half.mf half.kw src, issuer := issuerOf s e, wk := t.wk.toNat, wt := t.wt.toNat,
        sk := t.sk.toNat, si := sext 4 t.si.toNat, seq := a.seq, after := lastStore (s.core e.d e.c) e.ix x.inc } locks
      (portWords (tailBits t) 0xFD00 ctl.toNat 0 0))
    Ready (.mma d t) s e b → x.gangFault = none →
    (x.gangDone = true → exec (.mma d t) s = .next (goesOn e b (endGang s e))) ∧
    (x.gangDone = false → x.wait ≠ some .gang → readVals a e.ix t true false false = .ok v → mmaOk ctl tile half = true →
      (lead = true → aRecOk r y ctl = true) → localOk x src = .ok () → alsoOk x src sc = .ok () →
      (lead = true → y.space = 1 → meets y.lo y.len (tile * 0x4000) (if wide then 0x8000 else 0x4000) = false) →
      (a.port 1).shadowCmd = none → a.locks.length + locks.length ≤ 32 →
      (ctlGs ctl = 0 → exec (.mma d t) s = .next (goesOn e b placed)) ∧
      (ctlGs ctl ≠ 0 → ∀ formed, arriveGang placed e.d e.c ctl (t.f12.getLsbD 4) half.mf a.seq = some (u, formed) →
        exec (.mma d t) s = .next (if formed then goesOn e b u else takeWait (endGang u e) e .gang)))) ∧
  (∀ (s : State) (e : Env) (b : List Nat) (d : BitVec 7) (q : TailV) (m : W128),
    let a := s.act e.d e.c
    let mask : BitVec 16 := m.setWidth 16
    let locks : List Lock := (tileRuns mask).map (fun r =>
      { space := 1, lo := r.1, hi := r.1 + r.2 - 1, w := true, owner := .matrix a.seq, seq := a.seq })
    (Ready (.mmz d q) s e b → (if q.f.getLsbD 0 then Reads s e q.b m else m = 1#128 <<< d.toNat) → fld m 127 16 = 0 →
      (mask = 0 → exec (.mmz d q) s = .next (goesOn e b s)) ∧
      (mask ≠ 0 → (a.port 1).shadowCmd = none → a.locks.length + locks.length ≤ 32 →
        exec (.mmz d q) s = .next (writes s e b (placeMatrix a
          { op := .mmz mask, issuer := issuerOf s e, wk := 0, wt := 0, sk := 0, si := 0, seq := a.seq,
            after := lastStore (s.core e.d e.c) e.ix (s.ctx e).inc } locks
          (portWords (q.f.toNat + q.b.toNat * 2 ^ 25) (0xBD00 + d.toNat) (if q.f.getLsbD 0 then m.toNat else 0) 0 0))))) ∧
    (∀ i, i < 16 → (mask.getLsbD i = true ↔ ∃ l ∈ locks, l.lo ≤ i * 0x4000 ∧ i * 0x4000 + 0x3FFF ≤ l.hi)) ∧
    (Ready (.wbsel d q) s e b → exec (.wbsel d q) s = .next (writes s e b { a with
      sel := if q.f = 0x18 then !a.sel else if q.f = 0x1B then true else false }))) ∧
  (∀ (s u : State) (e : Env) (b : List Nat) (d : BitVec 7) (t : TailE) (v : Vals) (scales : Nat),
    let a := s.act e.d e.c
    let w := whoOf s e
    let r := (a.layout t.l.toNat).bits
    let x := recWalk r t.l.toNat
    let h := t.f12.toNat % 2
    let p := imagePlanes x.fmt (x.extOf 1)
    let a' := u.act e.d e.c
    (Ready (.wbld d t) s e b → wbldOk r x = true →
      issuePlan w { op := .wbld h, src := some x, dst := some (linearWalk 2 (h * 0x40000) (p.1 + p.2.1 + p.2.2)), port := 2,
                    also := if p.2.1 + p.2.2 = 0 then none else some (x.base + x.soff, p.2.1 + p.2.2) } t
        (portWords (tailBits t) 0xFD00 0 0 0) s = .ok u →
      ∃ src, exec (.wbld d t) s = .next (goesOn e b (u.setAct e.d e.c (a'.setHalf h
        { valid := true, mf := x.fmt, kw := imageRows x.fmt (x.extOf 1), size := p.1 + p.2.1 + p.2.2, src := src,
          signal := some (t.sk.toNat, sext 4 t.si.toNat), last := a.seq, dom := (s.ctx e).dom, replay := (a'.half h).replay })))) ∧
    (let tile := t.f12.toNat % 16
     let scl := t.f12.toNat / 32 % 4
     let tty := fld v.b 21 20
     let sadr := fld v.b 19 0
     let size := if tty = 2 then 0x8000 else 0x4000
     Ready (.accvt d t) s e b → readVals a e.ix t true false false = .ok v → fld v.b 127 22 = 0 → tty ≠ 3 → scl ≠ 3 →
     (tty = 2 → tile % 2 = 0) → accvtRecOk r x tty = true → chunkOk (recCm r) x = true → localOk w.x (some x) = .ok () →
     (if scl = 0 then scales = 0 else sadr % 16 = 0 ∧ localRangeOk w.x 0 sadr 256 = .ok () ∧ padRd a w.x sadr sadr 256 = .ok scales) →
     issuePlan w { recPlan (.accvt tile (t.f12.getLsbD 4) scl tty w.satm (BitVec.ofNat 2048 scales)) none r x none with
                   more := (1, tile * 0x4000, size, false) :: (if scl = 0 then [] else [(0, sadr, 256, false)]) } t
       (portWords (tailBits t) 0xFD00 v.b.toNat 0 0) s = .ok u →
     exec (.accvt d t) s = .next (goesOn e b u)))

/-! ## Chapter 14: streams -/

/-- Every request on a stream answers 1 for a handle that names no stream, and for one whose descriptor is in error, which is freed; 5 for another domain's stream; SFORK and SPRUNE
answer 4 for a MIGRATING one. SFORK of a served stream gives the child of R332, the parent's table and penalty page counted once more and its FORKS raised; without a stream it makes a root stream; statuses 2, 3 and
9 say that no descriptor is free, a count is saturated, or the queue is bad. SPRUNE frees its stream. SRET without a join group answers 10; SRET and the end of SADV's horizon complete when the join group's answer to their
post is there: status 0, or 10 and a JOIN_REFUSED. SADV moves the cursor one layer on, or ends the horizon without a group; it answers 6 where the stream does not stand at a layer. SACT.push appends its 64 bytes to the stream's
action queue, or answers 7 when it is full; SACT.pop and SACT.peek read the oldest record, or answer 8 when none is queued; without a queue all answer 6. -/
def Obligations.StreamLife : Prop :=
  (∀ (i : Instr) (s : State) (e : Env) (b : List Nat) (d : BitVec 7) (t : TailV) (busy : Bool) (st : Nat → Nat) (pre : Prop) (v : W128),
    let h := (s.pend (agentOf e)).fwd.getD (v.setWidth 32)
    streamOp s e i = some (d, t, busy, st, pre) → pre → Ready i s e b → Reads s e t.b v →
    lastStore (s.core e.d e.c) e.ix (s.ctx e).inc = 0 → s.streamAway h = false →
    (s.streamOf h = none → exec i s = .next (answers s e b d (st 1))) ∧
    (∀ sd si, s.streamOf h = some (sd, si) →
      (∀ w, streamError s sd si false = some w → exec i s = .next (answers (loseStream s sd si w) e b d (st 1))) ∧
      (streamError s sd si false = none →
        ((s.stream sd si).dom ≠ (s.ctx e).dom → exec i s = .next (answers s e b d (st 5))) ∧
        ((s.stream sd si).dom = (s.ctx e).dom → (s.stream sd si).st = .migrating → busy = true →
          exec i s = .next (answers s e b d (st 4)))))) ∧
  (∀ (s s' : State) (e : Env) (b : List Nat) (d : BitVec 7) (t : TailV) (v c : W128) (sd si q : Nat),
    let h : BitVec 32 := v.setWidth 32
    let x := forkChild s sd si
    let none9 := answers s e b d (noHandle.toNat + 9 * 2 ^ 32)
    Ready (.sfork d t) s e b → Reads s e t.b v → Reads s e t.c c → fld c 59 56 = 0 → fld c 51 32 = 0 →
    (h = noHandle → lastStore (s.core e.d e.c) e.ix (s.ctx e).inc = 0 →
      (queueFa s e e.d (fld c 127 64) (fld c 63 60) = .ok (some q) →
        exec (.sfork d t) s = .next (goesOn e b (placeStream s e d e.d (rootStream (s.ctx e).dom) c q s))) ∧
      (queueFa s e e.d (fld c 127 64) (fld c 63 60) = .ok none → exec (.sfork d t) s = .next none9)) ∧
    (h ≠ noHandle → Serves s e h sd si → (s.stream sd si).wpins = 0 →
      (queueFa s e sd (fld c 127 64) (fld c 63 60) = .ok none → exec (.sfork d t) s = .next none9) ∧
      (queueFa s e sd (fld c 127 64) (fld c 63 60) = .ok (some q) →
        ((do entryUp (← entryUp s sd x.croot) sd x.pen) = Except.ok s' →
          exec (.sfork d t) s = .next (
            if freeStreams (s.die sd) = 0 then answers s e b d (noHandle.toNat + 2 * 2 ^ 32)
            else goesOn e b (placeStream (s'.modStream sd si (fun p => { p with forks := p.forks + 1 })) e d sd x c q s))) ∧
        (∀ err, (do entryUp (← entryUp s sd x.croot) sd x.pen) = Except.error err →
          exec (.sfork d t) s = .next (answers s e b d (noHandle.toNat + 3 * 2 ^ 32)))))) ∧
  (∀ (s : State) (e : Env) (b : List Nat) (d : BitVec 7) (t : TailV) (v c : W128) (sd si st : Nat),
    let h : BitVec 32 := v.setWidth 32
    let p := s.pend (agentOf e)
    let x := s.stream sd si
    let posted := fun (fin : State → State) =>
      let u := s.modStream sd si (fun y => { y with posting := false })
      if st = 0 then answers (fin u) e b d 0 else answers (countRefused u e) e b d 10
    let gone := if st = 0 then answers s e b d 0 else answers (countRefused s e) e b d 10
    let last := fun (u : State) => (u.modStream sd si (fun y => y.unstage { y with cur := 0, hor := 0 })).setSt sd si .done
    (Ready (.sprune d t) s e b → Reads s e t.b v → Serves s e h sd si →
      exec (.sprune d t) s = .next (answers (freeStream s sd si) e b d 0)) ∧
    (Ready (.sret d t) s e b → Reads s e t.b v → Reads s e t.c c → p.ask = .post → p.status = some st →
      s.streamOf (p.fwd.getD h) = some (sd, si) →
      exec (.sret d t) s = .next (posted (fun u => if t.f.getLsbD 0 then u.setSt sd si .done else u))) ∧
    (Ready (.sret d t) s e b → Reads s e t.b v → Reads s e t.c c → p.ask = .post → p.status = some st →
      s.streamOf (p.fwd.getD h) = none → exec (.sret d t) s = .next gone) ∧
    (Ready (.sret d t) s e b → Reads s e t.b v → Reads s e t.c c → p.ask ≠ .post → Serves s e h sd si → x.jg = noHandle →
      exec (.sret d t) s = .next (answers s e b d 10)) ∧
    (Ready (.sadv d t) s e b → Reads s e t.b v → Reads s e t.c c → p.ask = .post → p.status = some st →
      s.streamOf (p.fwd.getD h) = some (sd, si) → exec (.sadv d t) s = .next (posted last)) ∧
    (Ready (.sadv d t) s e b → Reads s e t.b v → Reads s e t.c c → p.ask = .post → p.status = some st →
      s.streamOf (p.fwd.getD h) = none → exec (.sadv d t) s = .next gone) ∧
    (Ready (.sadv d t) s e b → Reads s e t.b v → Reads s e t.c c → p.ask ≠ .post → Serves s e h sd si →
      ((x.layers = 0 ∨ ¬(x.st = .idle ∨ x.st = .ready ∨ x.st = .droved)) → exec (.sadv d t) s = .next (answers s e b d 6)) ∧
      (x.layers ≠ 0 → (x.st = .idle ∨ x.st = .ready ∨ x.st = .droved) →
        (x.cur + 1 ≠ x.layers →
          exec (.sadv d t) s = .next (answers (moveCur s sd si { x with cur := x.cur + 1 }) e b d 0)) ∧
        (x.cur + 1 = x.layers → x.hor ≠ 1 →
          exec (.sadv d t) s = .next (answers (moveCur s sd si
            { x with cur := 0, hor := if 1 < x.hor.toNat then x.hor - 1 else x.hor }) e b d 0)) ∧
        (x.cur + 1 = x.layers → x.hor = 1 → x.jg = noHandle → exec (.sadv d t) s = .next (answers (last s) e b d 0))))) ∧
  (∀ (s : State) (e : Env) (b : List Nat) (d : BitVec 7) (t : TailV) (v : W128) (r sd si : Nat),
    let x := s.stream sd si
    let n := (x.aqt - x.aqh).toNat
    let head := (lineValue s (x.aqb.toNat + 64 * (x.aqh.toNat % 2 ^ x.aqn.toNat))).toNat
    let read := fun (u : State) => answers (u.setAct e.d e.c (regsWrite (u.act e.d e.c) e.ix t.c.toNat head (2 ^ 64 - 1) 4)) e b d 0
    Reads s e t.b v → Serves s e (v.setWidth 32) sd si →
    (x.aqb = 0 →
      (Ready (.sactPush d t) s e b → regsRead (s.act e.d e.c) e.ix t.c.toNat 4 = .ok r →
        exec (.sactPush d t) s = .next (answers s e b d 6)) ∧
      (Ready (.sactPop d t) s e b → exec (.sactPop d t) s = .next (answers s e b d 6)) ∧
      (Ready (.sactPeek d t) s e b → exec (.sactPeek d t) s = .next (answers s e b d 6))) ∧
    (x.aqb ≠ 0 → Ready (.sactPush d t) s e b → regsRead (s.act e.d e.c) e.ix t.c.toNat 4 = .ok r →
      exec (.sactPush d t) s = .next (if n = 2 ^ x.aqn.toNat then answers s e b d 7 else
        answers ((storeLine s (x.aqb.toNat + 64 * (x.aqt.toNat % 2 ^ x.aqn.toNat)) (BitVec.ofNat 512 r)).modStream sd si
          (fun y => { y with aqt := y.aqt + 1 })) e b d 0)) ∧
    (x.aqb ≠ 0 →
      (Ready (.sactPop d t) s e b → exec (.sactPop d t) s = .next (
        if n = 0 then answers s e b d 8 else read (s.modStream sd si (fun y => { y with aqh := y.aqh + 1 })))) ∧
      (Ready (.sactPeek d t) s e b → exec (.sactPeek d t) s = .next (if n = 0 then answers s e b d 8 else read s))))

/-- SPGR, SPGW and SMIG complete with the status their issue gives, in the state it gives; PSORT issues its sort of N values into K entries. SCOMMIT.begin opens an overlay (SPEC 1, the penalty page shared), SCOMMIT.commit
installs the overlay's pages in the committed table, SCOMMIT.discard drops them and restores the penalty page and counter; a stream already in the other state answers 6; one whose table is in error is freed, and 1 answered. The SSET
operations: bind, prio (a queued stream moves to its place by PRIO and arrival), model, join, run, rng, queue and pen, each with the fields it sets and the states in which it answers 6. SHOR returns HOR, CUR and LAYERS and with SET writes
HOR; SSTAT returns 16 bytes of the descriptor, or the pools' free counts, and all ones for a handle that names no stream of the domain. -/
def Obligations.StreamSettingsCommits : Prop :=
  (∀ (s u : State) (e : Env) (b : List Nat) (d : BitVec 7) (t : TailE) (v : Vals) (st : Nat),
    let w := whoOf s e
    readVals (s.act e.d e.c) e.ix t true true false = .ok v →
    (Ready (.spgr d t) s e b → issueSpg false t w v s = .ok (u, st) → exec (.spgr d t) s = .next (answers u e b d st)) ∧
    (Ready (.spgw d t) s e b → issueSpg true t w v s = .ok (u, st) → exec (.spgw d t) s = .next (answers u e b d st)) ∧
    (Ready (.smig d t) s e b → issueSmig t w v s = .ok (u, st) → exec (.smig d t) s = .next (answers u e b d st)) ∧
    (Ready (.psort d t) s e b → psortLegal v.b v.c = true → fld v.b 19 0 % 4 = 0 → fld v.c 19 0 % 8 = 0 →
      issuePlan w { op := .psort (fld v.b 19 0) (fld v.b 36 20) (fld v.c 26 20) (fld v.c 19 0) (fld v.b 95 64),
                    src := some (linearWalk 0 (fld v.b 19 0) (4 * fld v.b 36 20)),
                    dst := some (linearWalk 0 (fld v.c 19 0) (8 * fld v.c 26 20 + 8)) } t (valWords t 0xFE80 v) s = .ok u →
      exec (.psort d t) s = .next (goesOn e b u))) ∧
  (∀ (s u u' : State) (e : Env) (b : List Nat) (d : BitVec 7) (t : TailV) (v : W128) (sd si : Nat) (r root : W64),
    let x := s.stream sd si
    let settle := fun (y : State) => answers (cloned s y sd si) e b d 0
    Reads s e t.b v → Serves s e (v.setWidth 32) sd si →
    (∀ w, streamError s sd si true = some w →
      let lost := answers (loseStream s sd si w) e b d 1
      (Ready (.scommitBegin d t) s e b → exec (.scommitBegin d t) s = .next lost) ∧
      (Ready (.scommitCommit d t) s e b → exec (.scommitCommit d t) s = .next lost) ∧
      (Ready (.scommitDiscard d t) s e b → exec (.scommitDiscard d t) s = .next lost)) ∧
    (streamError s sd si true = none → x.wpins = 0 →
    (Ready (.scommitBegin d t) s e b → x.spec = true → exec (.scommitBegin d t) s = .next (answers s e b d 6)) ∧
    (Ready (.scommitBegin d t) s e b → x.spec = false → entryUp s sd x.pen = .ok u → allocFrame u sd true = .ok (u', r) →
      exec (.scommitBegin d t) s = .next (settle (u'.setStream sd si
        { x with spec := true, cctr := x.ctr, penc := x.pen, oroot := r }))) ∧
    (Ready (.scommitCommit d t) s e b → x.spec = false → exec (.scommitCommit d t) s = .next (answers s e b d 6)) ∧
    (Ready (.scommitCommit d t) s e b → x.spec = true → installAll sd (nodeEntries s sd x.oroot) s x.croot = .ok (u, root) →
      exec (.scommitCommit d t) s = .next (settle ((entryDown (entryDown u sd x.oroot) sd x.penc).modStream sd si
        (fun y => { y with croot := root, oroot := 0, penc := 0, spec := false })))) ∧
    (Ready (.scommitDiscard d t) s e b → x.spec = false → exec (.scommitDiscard d t) s = .next (answers s e b d 6)) ∧
    (Ready (.scommitDiscard d t) s e b → x.spec = true →
      exec (.scommitDiscard d t) s = .next (settle ((entryDown (entryDown s sd x.oroot) sd x.pen).modStream sd si
        (fun y => { y with oroot := 0, pen := x.penc, penc := 0, ctr := x.cctr, spec := false })))))) ∧
  (∀ (s u : State) (e : Env) (b : List Nat) (d : BitVec 7) (t : TailV) (v c : W128) (sd si q : Nat) (p : W64),
    let h : BitVec 32 := v.setWidth 32
    let x := s.stream sd si
    let c64 := fld c 127 64
    Reads s e t.b v →
    (Ready (.ssetBind d t) s e b → h = noHandle →
      exec (.ssetBind d t) s = .next (answers (s.setCtx e { s.ctx e with stream := h }) e b d 0)) ∧
    (Ready (.ssetBind d t) s e b → h ≠ noHandle → Serves s e h sd si →
      exec (.ssetBind d t) s = .next (answers (s.setCtx e { s.ctx e with stream := (s.pend (agentOf e)).fwd.getD h }) e b d 0)) ∧
    (Reads s e t.c c → Serves s e h sd si →
      (Ready (.ssetPrio d t) s e b → c.toNat < 8 → ((tget [] (s.die sd).dq x.entry).any (fun y => decide (y.1 = si))) = false →
        exec (.ssetPrio d t) s = .next (answers (s.setStream sd si { x with prio := BitVec.ofNat 3 c.toNat }) e b d 0)) ∧
      (∀ w, Ready (.ssetPrio d t) s e b → c.toNat < 8 →
        (tget [] (s.die sd).dq x.entry).find? (fun y => decide (y.1 = si)) = some (si, w) →
        let u := s.setStream sd si { x with prio := BitVec.ofNat 3 c.toNat }
        let y := dqDrop (u.die sd) si
        exec (.ssetPrio d t) s = .next (answers (u.setDie sd
          { y with dq := tset [] y.dq x.entry (dqInsert y (tget [] y.dq x.entry) si w) }) e b d 0)) ∧
      (Ready (.ssetModel d t) s e b → c.toNat < 2 ^ 49 → fld c 31 28 = 0 →
        let bad := x.spec = true ∨ 4096 < fld c 15 0 ∨ (fld c 15 0 ≠ 0 ∧ fld c 15 0 ≤ fld c 47 32)
        let y := s.setStream sd si (x.unstage { x with
          layers := BitVec.ofNat 16 (fld c 15 0), wbase := BitVec.ofNat 12 (fld c 27 16), cur := BitVec.ofNat 16 (fld c 47 32),
          stage := c.getLsbD 48 })
        (bad → exec (.ssetModel d t) s = .next (answers s e b d 6)) ∧
        (¬bad → exec (.ssetModel d t) s = .next (answers (if x.st = .ready then y.setSt sd si .ready else y) e b d 0))) ∧
      (Ready (.ssetJoin d t) s e b → c.toNat < 2 ^ 32 →
        exec (.ssetJoin d t) s = .next (answers (s.setStream sd si { x with jg := c.setWidth 32 }) e b d 0)) ∧
      (Ready (.ssetRun d t) s e b → c.toNat < 2 →
        let ok := if c = 1 then x.st = .idle ∨ x.st = .done ∨ x.st = .droved else x.st = .ready ∨ x.st = .droved
        (ok → exec (.ssetRun d t) s = .next (answers (s.setSt sd si (if c = 1 then .ready else .idle)) e b d 0)) ∧
        (¬ok → exec (.ssetRun d t) s = .next (answers s e b d 6))) ∧
      (Ready (.ssetRng d t) s e b → exec (.ssetRng d t) s = .next (
        if x.spec then answers s e b d 6
        else answers (s.setStream sd si { x with key := c.setWidth 64, ctr := BitVec.ofNat 128 c64, cctr := BitVec.ofNat 128 c64 }) e b d 0)) ∧
      (Ready (.ssetQueue d t) s e b → fld c 59 0 = 0 →
        (queueFa s e sd c64 (fld c 63 60) = .ok none → exec (.ssetQueue d t) s = .next (answers s e b d 9)) ∧
        (queueFa s e sd c64 (fld c 63 60) = .ok (some q) → exec (.ssetQueue d t) s = .next (answers (s.setStream sd si
          { x with aqb := BitVec.ofNat 64 q, aqn := BitVec.ofNat 4 (fld c 63 60), aqh := 0, aqt := 0 }) e b d 0))) ∧
      (Ready (.ssetPen d t) s e b → c.toNat < 2 →
        (x.spec = true → exec (.ssetPen d t) s = .next (answers s e b d 6)) ∧
        (x.spec = false → c = 0 →
          exec (.ssetPen d t) s = .next (answers ((entryDown s sd x.pen).modStream sd si (fun y => { y with pen := 0 })) e b d 0)) ∧
        (x.spec = false → c = 1 → allocFrame s sd false = .ok (u, p) →
          exec (.ssetPen d t) s = .next (answers (cloned s
            ((entryDown u sd x.pen).modStream sd si (fun y => { y with pen := p })) sd si) e b d 0))))) ∧
  (∀ (s : State) (e : Env) (b : List Nat) (d : BitVec 7) (t : TailV) (v c : W128) (sd si : Nat),
    let h := (s.pend (agentOf e)).fwd.getD (v.setWidth 32)
    let x := s.stream sd si
    Reads s e t.b v →
    (Ready (.shor d t) s e b → Serves s e (v.setWidth 32) sd si → (t.f.getLsbD 0 = true → Reads s e t.c c) →
      exec (.shor d t) s = .next (answers (if t.f.getLsbD 0 then s.setStream sd si { x with hor := c.setWidth 32 } else s) e b d
        (x.hor.toNat + x.cur.toNat * 2 ^ 32 + x.layers.toNat * 2 ^ 48))) ∧
    (Ready (.sstat d t) s e b → lastStore (s.core e.d e.c) e.ix (s.ctx e).inc = 0 → s.streamAway h = false →
      (t.c = 8 → hDie h < 12 → hPkg h = s.pkg.toNat → exec (.sstat d t) s = .next (answers s e b d (poolCounts (s.die (hDie h))))) ∧
      (t.c = 8 → ¬(hDie h < 12 ∧ hPkg h = s.pkg.toNat) → exec (.sstat d t) s = .next (answers s e b d (2 ^ 128 - 1))) ∧
      (t.c ≠ 8 → s.streamOf h = none → exec (.sstat d t) s = .next (answers s e b d (2 ^ 128 - 1))) ∧
      (∀ w, t.c ≠ 8 → s.streamOf h = some (sd, si) → streamError s sd si false = some w →
        exec (.sstat d t) s = .next (answers (loseStream s sd si w) e b d (2 ^ 128 - 1))) ∧
      (t.c ≠ 8 → s.streamOf h = some (sd, si) → streamError s sd si false = none → x.dom ≠ (s.ctx e).dom → exec (.sstat d t) s = .next (answers s e b d (2 ^ 128 - 1))) ∧
      (t.c ≠ 8 → s.streamOf h = some (sd, si) → streamError s sd si false = none → x.dom = (s.ctx e).dom → x.st ≠ .migrating →
        exec (.sstat d t) s = .next (answers s e b d (x.pack / 2 ^ (128 * t.c.toNat) % 2 ^ 128)))))

/-! ## Chapter 15: token trees -/

/-- TTRESET makes a tree of one node, unbound, or bound to a stream of its die and domain that is not MIGRATING; else it answers 3, 4, 7 or 6; it waits for the context's stores where it binds or unbinds. TTADD adds a node below a parent, with
status 1 in a full tree and 2 for no such parent; TTPRUNE keeps the part of a path from depth K on, renumbered, and writes its map, with status 2 for no such node and 5 where K is beyond its depth. TTMASK, TTPOS, TTPOS.hdr, TTANC and
TTPATH read a tree: the ancestors of a node as 256 bits, positions, the header, one ancestor relation, the nodes or tokens of a path; those of several beats read it as it was at the first. -/
def Obligations.TokenTrees : Prop :=
  (∀ (s : State) (e : Env) (b : List Nat) (d : BitVec 7) (t : TailV) (v c : W128) (a' : SetState),
    let a := s.act e.d e.c
    let n := t.f.toNat % 4
    let x := a.tree n
    let p := fld v 7 0
    let k := fld v 15 8
    treeHeld a n = false → Reads s e t.b v →
    (Ready (.ttreset d t) s e b → fld v 31 0 ≤ 0xFFFFFF → t.f.getLsbD 2 = false → x.bv = false →
      exec (.ttreset d t) s = .next (answers (s.setAct e.d e.c (
        let a1 := a.setTree n { x with bv := false, strm := noHandle }
        a1.setTree n { a1.tree n with cnt := 1, base := BitVec.ofNat 24 (fld v 31 0),
                                      nodes := tset (0, 0, 0) [] 0 (0, 0, BitVec.ofNat 32 (fld v 63 32)) })) e b d 0)) ∧
    (Ready (.ttreset d t) s e b → fld v 31 0 ≤ 0xFFFFFF →
      (t.f.getLsbD 2 = true ∨ x.bv = true → lastStore (s.core e.d e.c) e.ix (s.ctx e).inc = 0) →
      let h : BitVec 32 := BitVec.ofNat 32 (fld v 95 64)
      let reset := fun (u : State) => answers (u.setAct e.d e.c ((u.act e.d e.c).setTree n
        { (u.act e.d e.c).tree n with cnt := 1, base := BitVec.ofNat 24 (fld v 31 0),
                                      nodes := tset (0, 0, 0) [] 0 (0, 0, BitVec.ofNat 32 (fld v 63 32)) })) e b d 0
      let no := fun (st : Nat) => exec (.ttreset d t) s = .next (answers s e b d st)
      (∀ u, t.f.getLsbD 2 = false ∨ h = noHandle → ttBind s e n none = .ok u → exec (.ttreset d t) s = .next (reset u)) ∧
      (t.f.getLsbD 2 = true → h ≠ noHandle → s.streamAway h = false →
        (s.streamOf h = none → no 3) ∧
        (∀ sd si, s.streamOf h = some (sd, si) →
          let y := s.stream sd si
          (y.dom ≠ (s.ctx e).dom → no 4) ∧
          (y.dom = (s.ctx e).dom → sd ≠ e.d → no 7) ∧
          (y.dom = (s.ctx e).dom → sd = e.d → y.st = .migrating → no 6) ∧
          (∀ u, y.dom = (s.ctx e).dom → sd = e.d → y.st ≠ .migrating → ttBind s e n (some h) = .ok u →
            ((u.stream sd si).tb.toNat = 512 + e.c % 128 * 4 + n ∧ ((u.act e.d e.c).tree n).bv = true ∧
             ((u.act e.d e.c).tree n).strm = h) ∧
            exec (.ttreset d t) s = .next (reset u))))) ∧
    (Ready (.ttadd d t) s e b → x.cnt ≤ p → exec (.ttadd d t) s = .next (answers s e b d 0x200)) ∧
    (Ready (.ttadd d t) s e b → p < x.cnt → x.cnt = 256 → exec (.ttadd d t) s = .next (answers s e b d 0x100)) ∧
    (Ready (.ttadd d t) s e b → p < x.cnt → x.cnt ≠ 256 → x.base.toNat + x.depth p + 1 ≤ 0xFFFFFF →
      exec (.ttadd d t) s = .next (answers (s.setAct e.d e.c (a.setTree n
        { x with cnt := x.cnt + 1, nodes := tset (0, 0, 0) x.nodes x.cnt (BitVec.ofNat 8 p, BitVec.ofNat 8 (x.depth p + 1),
            BitVec.ofNat 32 (fld v 63 32)) })) e b d x.cnt)) ∧
    (Ready (.ttprune d t) s e b → Reads s e t.c c → fld c 127 20 = 0 →
      (x.cnt ≤ p → exec (.ttprune d t) s = .next (answers s e b d 2)) ∧
      (p < x.cnt → x.depth p < k → exec (.ttprune d t) s = .next (answers s e b d 5)) ∧
      (p < x.cnt → k ≤ x.depth p →
        padWr a (s.ctx e) (fld c 19 0) (fld c 19 0) (x.depth p + 1) (elems 8 (x.path p) (x.depth p + 1)) = .ok a' →
        exec (.ttprune d t) s = .next (answers (s.setAct e.d e.c (a'.setTree n
          { x.kept p k (x.depth p - k + 1) with cnt := x.depth p - k + 1, base := x.base + BitVec.ofNat 24 k })) e b d
          (x.depth p * 256 + k * 65536 + (x.base + BitVec.ofNat 24 k).toNat * 2 ^ 24))))) ∧
  (∀ (s : State) (e : Env) (b : List Nat) (d : BitVec 7) (t : TailV) (v c : W128),
    let a := s.act e.d e.c
    let x := a.tree (t.f.toNat % 4)
    let y := treeSeen a (s.ctx e) (t.f.toNat % 4)
    let p := predRead a (s.ctx e) t.p.toNat
    let n := fld v 7 0
    let r := x.above n (fld c 7 0)
    let w := if t.f.getLsbD 2 then 32 else 8
    (Ready (.ttmask d t) s e b → Reads s e t.b v →
      exec (.ttmask d t) s = .next (onBeat (.ttmask d t) (2) s e (writes s e b (regsWrite a e.ix d.toNat (elems 1 (fun j => if y.above j n then 1 else 0) 256)
        (2 ^ 32 - 1) 2)))) ∧
    (Ready (.ttpos d t) s e b → Reads s e t.b v →
      exec (.ttpos d t) s = .next (onBeat (.ttpos d t) (shRegs t.sh.toNat) s e (writes s e b (grpWrite a e.ix t.sh d 32 p t.pn (elems 32 (fun k =>
        if n + k < y.cnt then y.base.toNat + y.depth (n + k) else 0xFFFFFFFF) (shElems t.sh.toNat 32)))))) ∧
    (Ready (.ttposHdr d t) s e b →
      exec (.ttposHdr d t) s = .next (writes s e b (withReg s e d
        (x.base.toNat + x.cnt * 2 ^ 24 + x.strm.toNat * 2 ^ 40 + (if x.bv then 2 ^ 72 else 0))))) ∧
    (Ready (.ttanc d t) s e b → Reads s e t.b v → Reads s e t.c c →
      exec (.ttanc d t) s = .next (writes s e b (
        if t.f.getLsbD 2 then predWrite a e.ix d.toNat (if r then 2 ^ 64 - 1 else 0) else withReg s e d (if r then 1 else 0)))) ∧
    (Ready (.ttpath d t) s e b → Reads s e t.b v →
      exec (.ttpath d t) s = .next (onBeat (.ttpath d t) (shRegs t.sh.toNat) s e (writes s e b (grpWrite a e.ix t.sh d w p t.pn (elems w (fun k =>
        let q := y.path n (fld v 15 8 + k)
        if n < y.cnt ∧ fld v 15 8 + k ≤ y.depth n then (if t.f.getLsbD 2 then y.token q else q)
        else if t.f.getLsbD 2 then 0 else 0xFF) (shElems t.sh.toNat w)))))))

/-! ## Chapter 16: join groups and sampling -/

/-- JOPEN opens the lowest free group of its die with the words' fields, or answers BADDST 6, BADPARENT 4 or NOGROUP 2; JPUT completes with the join unit's status once its answer is there, counting JOIN_REFUSED for any but 0, and with 1 for a die or
package that cannot be reached; JGET of a group of its own die returns the group's map, all ones for none, and JGET.close then completes it, where it is open and of its domain; for a group of another die both complete with the map that the
join unit answered. SDESC finds the first element of a prefix-sum vector above its target and adds the key base; PERFR reads an event counter of the core, cleared with CLR, or of the die. -/
def Obligations.JoinAndSampling : Prop :=
  (∀ (s : State) (e : Env) (b : List Nat) (d : BitVec 7) (t : TailV) (v c r : W128) (lines : List Nat) (i gd gi st : Nat),
    let h : BitVec 32 := v.setWidth 32
    let p := s.pend (agentOf e)
    let op := fld v 63 60
    let root := op = 4 ∧ v.getLsbD 56 = false
    let par : BitVec 32 := BitVec.ofNat 32 (fld v 95 64)
    let bytes := if op = 3 then 16 + 16 * fld v 55 48 else 32
    (Ready (.jopen d t) s e b → Reads s e t.b v → Reads s e t.c c → jopenLegal v c = true →
      (if root then regRead (s.act e.d e.c) e.ix (t.c.toNat + 1) = .ok r else r = 0) →
      (recordLines s e c bytes = .ok none → exec (.jopen d t) s = .next (answers s e b d (noHandle.toNat + 6 * 2 ^ 32))) ∧
      (recordLines s e c bytes = .ok (some lines) → lastStore (s.core e.d e.c) e.ix (s.ctx e).inc = 0 →
        let takes := if s.streamAway par then awayParent s else parentOk s par op (fld v 59 58) (s.ctx e).dom
        let q := reapGroups s e.d
        (v.getLsbD 56 = true → takes = false →
          exec (.jopen d t) s = .next (answers s e b d (noHandle.toNat + 4 * 2 ^ 32))) ∧
        ((v.getLsbD 56 = true → takes = true) →
          ((∀ j, j < 1024 → (q.group e.d j).st ≠ .free) →
            exec (.jopen d t) s = .next (answers (q.setDie e.d ((q.die e.d).count 0x0B)) e b d (noHandle.toNat + 2 * 2 ^ 32))) ∧
          (i < 1024 → (q.group e.d i).st = .free → (∀ j, j < i → (q.group e.d j).st ≠ .free) →
            let g : Group :=
              { st := .open, inc := (q.group e.d i).inc, op := op, vt := fld v 59 58, prune := v.getLsbD 57,
                parent := if v.getLsbD 56 then some par else none, k := fld v 55 48, count := fld v 47 32, keyp := v.setWidth 32,
                dom := (s.ctx e).dom, destw := BitVec.ofNat 64 (fld c 127 64), dst := lines, key := r.setWidth 64,
                ctr := BitVec.ofNat 64 (fld r 127 64) }
            let u := q.setGroup e.d i g
            exec (.jopen d t) s = .next (answers u e b d (u.groupHandle e.d i).toNat))))) ∧
    (Ready (.jput d t) s e b → Reads s e t.b v → Reads s e t.c c → p.ask = .post → p.status = some st →
      exec (.jput d t) s = .next (answers (if st = 0 then s else countRefused s e) e b d st)) ∧
    (Ready (.jput d t) s e b → Reads s e t.b v → Reads s e t.c c → p.ask ≠ .post → lastStore (s.core e.d e.c) e.ix (s.ctx e).inc = 0 →
      (11 < hDie h ∨ s.unreachable (hPkg h) = true) → exec (.jput d t) s = .next (answers (countRefused s e) e b d 1)) ∧
    (p.ask = .post → p.status = some st → Reads s e t.b v →
      (Ready (.jget d t) s e b → exec (.jget d t) s = .next (answers s e b d (tget 0 p.val 0).toNat)) ∧
      (Ready (.jgetClose d t) s e b → exec (.jgetClose d t) s = .next (answers s e b d (tget 0 p.val 0).toNat))) ∧
    (p.ask ≠ .post → Reads s e t.b v → (hDie h < 12 → s.unreachable (hPkg h) = false → hPkg h = s.pkg.toNat ∧ hDie h = e.d) →
      (s.groupOf h = none →
        (Ready (.jget d t) s e b → exec (.jget d t) s = .next (answers s e b d (2 ^ 128 - 1))) ∧
        (Ready (.jgetClose d t) s e b → exec (.jgetClose d t) s = .next (answers s e b d (2 ^ 128 - 1)))) ∧
      (s.groupOf h = some (gd, gi) →
        let u := if (s.group gd gi).bad then loseGroup s gd gi else s
        let g := u.group gd gi
        (Ready (.jget d t) s e b → exec (.jget d t) s = .next (answers u e b d g.map)) ∧
        (Ready (.jgetClose d t) s e b → exec (.jgetClose d t) s = .next (answers
          (if g.st = .open ∧ g.completing = false ∧ g.dom = (s.ctx e).dom then completeGroup u gd gi true else u) e b d g.map))))) ∧
  (∀ (s : State) (e : Env) (b : List Nat) (d : BitVec 7) (t : TailV) (v c : W128) (bytes : Nat),
    let a := s.act e.d e.c
    let k := s.core e.d e.c
    let n := fld v 36 20
    let q := fld v 7 0
    let f := sdescFind (decodeF fmtF32 (fld c 31 0)) bytes n
    (Ready (.sdesc d t) s e b → Reads s e t.b v → Reads s e t.c c → 0 < n → n ≤ 65536 → fld v 63 37 = 0 → fld v 127 96 = 0 →
      fld v 19 0 % 4 = 0 → padRd a (s.ctx e) (fld v 19 0) (fld v 19 0) (4 * n) = .ok bytes →
      exec (.sdesc d t) s = .next (writes s e b (withReg s e d (f / 2 ^ 32 * 2 ^ 32 + (fld v 95 64 + f) % 2 ^ 32)))) ∧
    (Ready (.perfr d t) s e b → Reads s e t.b v → fld v 127 8 = 0 →
      (q < 4 → exec (.perfr d t) s = .next (goesOn e b (
        s.setCore e.d e.c { (if t.f.getLsbD 0 then { k with perf := tset 0 k.perf q 0 } else k) with
          act := withReg s e d (tget 0 k.perf q).toNat }))) ∧
      (8 ≤ q → q < 0xD → exec (.perfr d t) s = .next (writes s e b (withReg s e d (tget 0 (s.die e.d).perf q).toNat)))))

/-! ## Chapter 05: the shepherd hart -/

/-- An Xmakel instruction that R74 does not let run (a field it does not use is not zero, or its privilege is missing) raises
illegal-instruction, with its word in the trap value, and has no effect. -/
def Obligations.XmakelPrivilege : Prop :=
  ∀ (i : Instr) (least : Mode) (r : RType) (u : RUse) (s : State) (d c : Nat),
    xmOp i = some (least, r, u) → s.cur = .hart d c → (s.hart d c).wfi = false →
    (rOnly r u = false ∨ (s.hart d c).mode.rank < least.rank) →
    ∃ w, encode i = some (.xm w) ∧ exec i s = .next (s.hartTrap d c false 2 (w.setWidth 64))

/-- A trap of the hart saves the pc, the cause, the trap value, the mode and the interrupt enable of the level that takes it, disables that
level's interrupts, enters its mode at its vector, abandons a wait in progress, and changes no register and no memory; MRET and SRET
restore mode, enable and pc.
The encodings of the trap registers and the vector rule are the RISC-V standard's, which the manual names (log 5, PRESUMED). -/
def Obligations.HartTraps : Prop :=
  ∀ (s : State) (d c : Nat) (interrupt : Bool) (cause : Nat) (tval : W64), cause < 2 ^ 63 →
    let h := s.hart d c
    let t := s.hartTrap d c interrupt cause tval
    let h' := t.hart d c
    let low := h.mode ≠ .m ∧ (if interrupt then h.mideleg else h.medeleg).getLsbD cause = true
    (low → h'.sepc = h.pc ∧ h'.scause.toNat = cause + (if interrupt then 2 ^ 63 else 0) ∧ h'.stval = tval ∧ h'.mode = .s ∧
      h'.pc = trapVector h.stvec interrupt cause ∧ h'.mepc = h.mepc ∧ h'.mcause = h.mcause ∧ h'.mtval = h.mtval ∧
      (∀ j, j < 64 → h'.mstatus.getLsbD j = if j = 5 then h.mstatus.getLsbD 1 else if j = 1 then false
        else if j = 8 then decide (h.mode = .s) else h.mstatus.getLsbD j)) ∧
    (¬low → h'.mepc = h.pc ∧ h'.mcause.toNat = cause + (if interrupt then 2 ^ 63 else 0) ∧ h'.mtval = tval ∧ h'.mode = .m ∧
      h'.pc = trapVector h.mtvec interrupt cause ∧ h'.sepc = h.sepc ∧ h'.scause = h.scause ∧ h'.stval = h.stval ∧
      (∀ j, j < 64 → h'.mstatus.getLsbD j = if j = 7 then h.mstatus.getLsbD 3 else if j = 3 then false
        else if j = 11 then decide (h.mode ≠ .u) else if j = 12 then decide (h.mode = .m) else h.mstatus.getLsbD j)) ∧
    h'.wfi = false ∧ h'.resv = none ∧ (t.act d c).hwait = none ∧ (∀ r, h'.xr r = h.xr r) ∧
    (t.act d c).pad = (s.act d c).pad ∧ t.mem = s.mem ∧ (∀ j, j ≠ d → t.die j = s.die j) ∧
    ((hartMret h').pc = h'.mepc ∧ (low → (hartSret h').pc = h.pc ∧ (hartSret h').mode = h.mode ∧
      (hartSret h').mstatus.getLsbD 1 = h.mstatus.getLsbD 1) ∧
     (¬low → (hartMret h').pc = h.pc ∧ (hartMret h').mode = h.mode ∧ (hartMret h').mstatus.getLsbD 3 = h.mstatus.getLsbD 3))

/-- The flock instructions: MK.BCAST delivers a block line to the herded slots of its mask, parks them at a line that is no block, and does nothing in a stopped flock; MK.LOOSE makes them strays at a pointer; MK.STOPPED
reports; MK.WAITF goes on once the slots of its mask stand and their contexts' stores have performed; MK.HALTF retires the herded contexts of its mask whose drain has ended and completes when none is left; MK.LINK reads or writes a register half or a
predicate register of the context bound on a slot, or reads a word of its descriptor. -/
def Obligations.FlockInstructions : Prop :=
  ∀ (s : State) (d c : Nat) (r : RType),
    let a := s.act d c
    let k := s.core d c
    let m := hartB s d c r
    let v := hartA s d c r
    let all : RUse := { rd := true, rs1 := true, rs2 := true }
    let one : RUse := { rd := true, rs1 := true }
    let hits := fun (m : W64) (w : W64) => ∀ i, i < 64 → w.getLsbD i = (decide (i < 32) && m.getLsbD i && inMode a .herded i)
    let hit := (List.range 32).filter (fun i => m.getLsbD i && inMode a .herded i)
    (∀ l, HartReady .u r all s d c → m.toNat < 2 ^ 32 → v.toNat % 64 = 0 → lastHartStore k = 0 →
      codeLine s (.hart d c) v.toNat = .ok l →
      let s0 := endAccess s (.hart d c)
      let u := hit.foldl (fun s i => deliver s d c i v.toNat l) s0
      (k.halted = true → exec (.mkBcast r) s = .next (hartGoesOn s0 d c r 0)) ∧
      (k.halted = false → (lineNH l = 0 ∨ lineBLK l = false) → exec (.mkBcast r) s = .next (hartGoesOn
        (s0.setCore d c (hit.foldl (fun k i => parkIllegal k i v.toNat) (s0.core d c))) d c r 0)) ∧
      (k.halted = false → lineNH l ≠ 0 → lineBLK l = true →
      ∃ w, exec (.mkBcast r) s = .next (hartGoesOn u d c r w) ∧ hits m w ∧
        ∀ i, i < 32 → if m.getLsbD i && inMode a .herded i then
            ((u.act d c).slot i).mode = .block ∧ ((u.act d c).slot i).ix = (a.slot i).ix ∧
            ((u.act d c).slot i).line = some (v.toNat, overlay s (a.ctx (a.slot i).ix).launch v.toNat l) ∧
            ((u.act d c).ctx (a.slot i).ix).ip = v + 1
          else (u.act d c).slot i = a.slot i)) ∧
    (HartReady .u r all s d c → m.toNat < 2 ^ 32 → lastHartStore k = 0 →
      let u := s.setAct d c (hit.foldl (fun a i =>
        (a.setCtx (a.slot i).ix { a.ctx (a.slot i).ix with ip := v, fell := false }).setSlot i
          { a.slot i with mode := .stray, line := none }) a)
      ∃ w, exec (.mkLoose r) s = .next (hartGoesOn u d c r w) ∧ hits m w ∧
        ∀ i, i < 32 → if m.getLsbD i && inMode a .herded i then
            ((u.act d c).slot i).mode = .stray ∧ ((u.act d c).slot i).ix = (a.slot i).ix ∧ ((u.act d c).ctx (a.slot i).ix).ip = v
          else (u.act d c).slot i = a.slot i) ∧
    (HartReady .u r { rd := true } s d c →
      ∃ w, exec (.mkStopped r) s = .next (hartGoesOn s d c r w) ∧
        ∀ i, i < 64 → w.getLsbD i = if i < 32 then inMode a .herded i else inMode a .parked (i - 32)) ∧
    (HartReady .u r one s d c → v.toNat < 2 ^ 32 → waitfAcquired k v = true →
      (∀ i, i < 32 → v.getLsbD i = true →
        (inMode a .empty i || inMode a .herded i || inMode a .parked i || (inMode a .block i && k.stopped && (a.slot i).stalled)) = true) →
      ∃ w, exec (.mkWaitf r) s = .next (hartGoesOn s d c r w) ∧
        ∀ i, i < 64 → w.getLsbD i = (decide (i < 32) && v.getLsbD i && inMode a .parked i)) ∧
    (HartReady .u r one s d c → v.toNat < 2 ^ 32 →
      let start := k.halting.getD (BitVec.ofNat 32 (slotMask (fun i => v.getLsbD i && inMode a .herded i)), 0)
      let q := (List.range 32).foldl (fun (p : State × BitVec 32) i =>
        let b := p.1.act d c
        if start.1.getLsbD i && inMode b .herded i && drained b (b.slot i).ix then
          (retire p.1 d c i (b.slot i).ix false, p.2 ||| (1#32 <<< i)) else p) (s, start.2)
      (∀ i, i < 32 → start.1.getLsbD i = true → q.2.getLsbD i = false → inMode (q.1.act d c) .herded i = false) →
      exec (.mkHaltf r) s = .next (hartGoesOn (q.1.setCore d c { q.1.core d c with halting := none }) d c r (q.2.setWidth 64))) ∧
    (∀ ix, HartReady .u r all s d c → v.toNat < 2 ^ 18 → linkTarget a (fld v 4 0) = some ix →
      let n := fld v 14 5
      let p := fld v 16 15
      let x := a.ctx ix
      (p < 2 → n < x.wsz.toNat →
        exec (.mkLink r) s = .next (
          if v.getLsbD 17 then hartGoesOn (s.setAct d c (regWrite a ix n (m.toNat * 2 ^ (64 * p)) (0xFF * 2 ^ (8 * p)))) d c r 0
          else hartGoesOn s d c r ((regRaw a x n).extractLsb' (64 * p) 64))) ∧
      (p = 2 → n < 8 → v.getLsbD 17 = false →
        exec (.mkLink r) s = .next (hartGoesOn s d c r (BitVec.ofNat 64 (x.pack.toNat >>> (64 * n))))) ∧
      (p = 3 → n < 8 → exec (.mkLink r) s = .next (
        if v.getLsbD 17 then hartGoesOn (s.setAct d c (predWrite a ix n m.toNat)) d c r 0
        else hartGoesOn s d c r (BitVec.ofNat 64 (predRead a x n)))))

/-- The context instructions: MK.CTXNEW creates a HELD context of the hart's domain under a fresh generation, or answers RANGE 4 or NOROOM 3; a handle that names no context of the domain gives its
status; else MK.CTXFREE, MK.BIND, MK.UNBIND, MK.RUNQ, MK.UPRET, MK.MIGR and MK.GENNEW do their work and answer 0, or the status that the context's state
gives; MK.GENNEW of number 4 renews the save region; MK.UPRET without a handle returns from the upcall.
The order in which two failing statuses are answered is the model's reading (log 24, DEDUCED). -/
def Obligations.ContextInstructions : Prop :=
  ∀ (s : State) (d c : Nat) (r : RType),
    let a := s.act d c
    let k := s.core d c
    let v := hartA s d c r
    let w := hartB s d c r
    let all : RUse := { rd := true, rs1 := true, rs2 := true }
    let got := fun (t : State) (n : Nat) => Host.Outcome.next (hartGoesOn t d c r (BitVec.ofNat 64 n))
    (∀ ix, HartReady .u r all s d c →
      let wsz := fld w 30 20
      let wp := fld w 19 0
      let fit := 128 ≤ wp ∧ w.toNat < 2 ^ 37 ∧ wp % 64 = 0 ∧ 16 ≤ wsz ∧ wsz ≤ 1024 ∧ placeFree k (wp - 128) (128 + 16 * wsz) = true
      (¬fit → exec (.mkCtxnew r) s = got s (2 ^ 63 + 4)) ∧
      (fit → freeIx a = none → exec (.mkCtxnew r) s = got s (2 ^ 63 + 3)) ∧
      (fit → freeIx a = some ix → createWait k [(wp - 128, 128 + 16 * wsz)] 32 = none →
        let u := s.setCore d c (createAt k ix { blankCtx with
          wp := BitVec.ofNat 20 wp, wsz := BitVec.ofNat 11 wsz, ip := v, state := .held, prio := BitVec.ofNat 3 (fld w 33 31),
          eprio := BitVec.ofNat 3 (fld w 33 31), dom := k.dom, strict := w.getLsbD 34, ovfe := w.getLsbD 35, pin := w.getLsbD 36 } [])
        exec (.mkCtxnew r) s = .next (hartGoesOn u d c r (BitVec.ofNat 64 (ctxHandle d c ix ((a.ctx ix).inc + 1)))) ∧
          let x := (u.act d c).ctx ix
          x.inc = (a.ctx ix).inc + 1 ∧ x.state = .held ∧ x.wp.toNat = wp ∧ x.wsz.toNat = wsz ∧ x.ip = v ∧ x.dom = k.dom ∧ x.wgen = k.next ∧
          x.prio.toNat = fld w 33 31 ∧ x.eprio = x.prio ∧ x.strict = w.getLsbD 34 ∧ x.ovfe = w.getLsbD 35 ∧ x.pin = w.getLsbD 36 ∧
          (u.act d c).runq = a.runq ∧ (u.act d c).pad = a.pad ∧ ∀ j, j ≠ ix → (u.act d c).ctx j = a.ctx j)) ∧
    (∀ n, handleArg s d c v = .error n →
      (HartReady .u r { rd := true, rs1 := true } s d c → exec (.mkCtxfree r) s = got s n) ∧
      (HartReady .u r all s d c → w.toNat < 32 → exec (.mkBind r) s = got s n) ∧
      (HartReady .u r all s d c → w.toNat < 2 ^ 18 → fld w 15 6 = 0 → exec (.mkRunq r) s = got s n) ∧
      (HartReady .u r all s d c → r.rs1 ≠ 0 → exec (.mkUpret r) s = got s n) ∧
      (HartReady .u r all s d c → w.toNat ≤ 95 → exec (.mkMigr r) s = got s n) ∧
      (HartReady .u r all s d c → w.toNat < 4 → exec (.mkGennew r) s = got s n)) ∧
    (∀ ix, handleArg s d c v = .ok ix →
      let x := a.ctx ix
      let free := x.state = .held ∨ x.state = .ready
      (HartReady .u r { rd := true, rs1 := true } s d c →
        (free → exec (.mkCtxfree r) s = got (taskGone (s.setCore d c (freeCtx k ix false)) d x) 0) ∧
        (¬free → exec (.mkCtxfree r) s = got s 2)) ∧
      (HartReady .u r all s d c → w.toNat < 32 →
        (free → (a.slot w.toNat).mode = .empty →
          exec (.mkBind r) s = got (s.setAct d c (
            ((runqDrop a ix).setCtx ix { x with state := .bound, eprio := x.prio, slot := BitVec.ofNat 5 w.toNat }).setSlot w.toNat
              { mode := .herded, ix := ix })) 0) ∧
        (¬(free ∧ (a.slot w.toNat).mode = .empty) → exec (.mkBind r) s = got s 2)) ∧
      (HartReady .u r all s d c → w.toNat < 2 ^ 18 → fld w 15 6 = 0 →
        (¬free → exec (.mkRunq r) s = got s 2) ∧
        (free → w.getLsbD 16 = false → w.getLsbD 17 = false → exec (.mkRunq r) s = got s 0) ∧
        (free →
          let b := if w.getLsbD 16 then
              let y := { x with prio := w.setWidth 3, eprio := w.setWidth 3, strict := w.getLsbD 3, ovfe := w.getLsbD 4, pin := w.getLsbD 5 }
              if x.state = .ready then makeReady (runqDrop (a.setCtx ix y) ix) ix else a.setCtx ix y
            else a
          let b := if w.getLsbD 17 = true ∧ x.state = .held then makeReady b ix else b
          exec (.mkRunq r) s = got (s.setAct d c b) 0 ∧
          (x.state = .held → w.getLsbD 16 = true →
            let y := b.ctx ix
            y.prio = w.setWidth 3 ∧ y.eprio = w.setWidth 3 ∧ y.strict = w.getLsbD 3 ∧ y.ovfe = w.getLsbD 4 ∧ y.pin = w.getLsbD 5 ∧
            y.state = (if w.getLsbD 17 then .ready else .held)))) ∧
      (HartReady .u r all s d c → r.rs1 ≠ 0 →
        (x.state ≠ .parked → exec (.mkUpret r) s = got s 2) ∧
        (x.state = .parked →
          let ip := if w = 0 then x.ip else w
          let block := x.inBlock = true ∧ ip.toNat / 64 = x.ip.toNat / 64
          exec (.mkUpret r) s = got (s.setAct d c ((a.setCtx ix { x with
              ip := ip, state := .bound, fcode := 0, inBlock := false, fell := x.fell && decide (w = 0) }).setSlot x.slot.toNat
            { a.slot x.slot.toNat with mode := if block then .block else .stray, line := none, stalled := false })) 0)) ∧
      (HartReady .u r all s d c → w.toNat ≤ 95 →
        (x.state ≠ .ready → exec (.mkMigr r) s = got s 2) ∧
        (x.state = .ready → (x.pin = true ∨ unboundChan x = false) → exec (.mkMigr r) s = got s 6) ∧
        (x.state = .ready → x.pin = false → unboundChan x = true → (noScratch x = false ∨ movesFit a x = false) →
          exec (.mkMigr r) s = got s 4) ∧
        (x.state = .ready → x.pin = false → unboundChan x = true → noScratch x = true → movesFit a x = true → storesGone k ix x.inc = true →
          (∀ wp, moveRoom (s.core d w.toNat) x.wsz.toNat s.tick = some wp →
            exec (.mkMigr r) s = got (moveCtx s d c ix w.toNat wp) 0) ∧
          (moveRoom (s.core d w.toNat) x.wsz.toNat s.tick = none → exec (.mkMigr r) s = got s 3))) ∧
      (HartReady .u r all s d c → w.toNat < 4 →
        ((x.state = .bound ∨ x.state = .parked) → exec (.mkGennew r) s = got s 2) ∧
        (x.state ≠ .bound → x.state ≠ .parked → ∀ k', gennewRegion k ix w.toNat 32 = .ok k' → (w.toNat = 0 ∨ (x.region w.toNat).2.1 ≠ 0) →
          exec (.mkGennew r) s = got (s.setCore d c k') 0) ∧
        (x.state ≠ .bound → x.state ≠ .parked → w ≠ 0 → (x.region w.toNat).2.1 = 0 → exec (.mkGennew r) s = got s 0))) ∧
    (HartReady .u r all s d c → w = 4 → lockOverlaps a 0 0 0x2000 = false → allocStalls k = false →
      exec (.mkGennew r) s = got (s.setCore d c ({ k with act := { a with saveGen := k.next } } : Core).allocDone) 0) ∧
    (HartReady .u r all s d c → v.toNat < 32 → w.toNat < 2 →
      let sl := a.slot v.toNat
      let x := a.ctx sl.ix
      (¬(sl.mode = .parked ∧ x.state = .parked) → exec (.mkUnbind r) s = got s 2) ∧
      (sl.mode = .parked → x.state = .parked → x.dom ≠ k.dom → exec (.mkUnbind r) s = got s 5) ∧
      (sl.mode = .parked → x.state = .parked → x.dom = k.dom → 
        let b := emptySlot (a.setCtx sl.ix { x with state := .held, herd := false, inBlock := false }) v.toNat
        let b := if w = 1 then b else makeReady b sl.ix
        exec (.mkUnbind r) s = got (s.setAct d c b) 0 ∧ (b.slot v.toNat).mode = .empty ∧
        (b.ctx sl.ix).state = (if w = 1 then .held else .ready))) ∧
    (HartReady .u r {} s d c → a.upBusy = true →
      let h := ((s.hart d c).setX 5 (BitVec.ofNat 64 (saveRead a 0x408 8))).setX 6 (BitVec.ofNat 64 (saveRead a 0x410 8))
      exec (.mkUpretReturn r) s = .next (s.setCore d c
        { k with act := { a with upBusy := false }, hart := { h with pc := BitVec.ofNat 64 (saveRead a 0x400 8) } })) ∧
    (HartReady .u r {} s d c → a.upBusy = false → ∃ w, encode (.mkUpretReturn r) = some (.xm w) ∧
      exec (.mkUpretReturn r) s = .next (s.hartTrap d c false 2 (w.setWidth 64)))

/-- The hart's counter, engine-port, set, PLB, debug and CSR instructions complete with the effect of R124, R126, R137 to R141.
The CSR forms are the RISC-V standard's (log 5, PRESUMED). -/
def Obligations.HartSystemInstructions : Prop :=
  ∀ (s : State) (d c : Nat) (r : RType),
    let a := s.act d c
    let k := s.core d c
    let v := hartA s d c r
    let w := hartB s d c r
    let all : RUse := { rd := true, rs1 := true, rs2 := true }
    let one : RUse := { rd := true, rs1 := true }
    let two : RUse := { rs1 := true, rs2 := true }
    let ends := fun (t : State) (x : W64) => Host.Outcome.next (hartGoesOn t d c r x)
    let waits := fun (t : State) => Host.Outcome.next (t.setHart d c { t.hart d c with busy := true })
    let p := a.port (fld v 1 0)
    let gang := a.hgang.filter (fun g => decide (g.pc = (s.hart d c).pc))
    (HartReady .u r all s d c → v.toNat < 256 → w.toNat < 65536 →
      let n := (a.counter v.toNat).value.toNat
      let met := w.toNat ≤ n ∨ (a.hwait = some (v.toNat, w.toNat) ∧ a.hsat = true)
      (met → exec (.mkCwait r) s = ends (s.setAct d c { a with hwait := none, hsat := false }) (BitVec.ofNat 64 n)) ∧
      (¬met → exec (.mkCwait r) s = waits (s.setAct d c { a with hwait := some (v.toNat, w.toNat) }))) ∧
    (HartReady .u r two s d c → v.toNat < 256 → lastHartStore k = 0 →
      exec (.mkCsig r) s = ends (s.setAct d c (signalSet a v.toNat (sext 16 (fld w 15 0)))) 0 ∧
      (w.toNat < 65536 → exec (.mkCset r) s = ends (s.setAct d c (setSet a v.toNat w.toNat)) 0)) ∧
    (HartReady .u r one s d c → v.toNat < 256 →
      let x := a.counter v.toNat
      exec (.mkCget r) s = ends s (BitVec.ofNat 64 (x.value.toNat + (if x.ovf then 65536 else 0)))) ∧
    (HartReady .u r one s d c → fld v 7 5 = 0 → fld v 63 10 = 0 →
      exec (.mkEngr r) s = ends s (tget 0 (if v.getLsbD 9 then p.active else p.shadow) (fld v 4 2))) ∧
    (∀ g, HartReady .u r two s d c → fld v 7 5 = 0 → fld v 63 9 = 0 → gang = some g → g.fault = false → g.done = true →
      exec (.mkEngw r) s = ends (s.setAct d c { a with hgang := none }) 0) ∧
    (HartReady .u r two s d c → fld v 7 5 = 0 → fld v 63 9 = 0 → gang = none → p.shadowCmd = none →
      let t := s.setAct d c (a.setPort (fld v 1 0) { p with shadow := tset 0 p.shadow (fld v 4 2) w })
      (v.getLsbD 8 = false → exec (.mkEngw r) s = ends t 0) ∧
      (∀ u, v.getLsbD 8 = true → lastHartStore k = 0 → commit t d c (fld v 1 0) = .ok (u, 0) →
        ((u.act d c).hgang.isSome = true → a.hgang.isSome = true) → exec (.mkEngw r) s = ends u 0)) ∧
    (HartReady .m r { rd := true } s d c →
      (k.swap = .done → exec (.mkShswap r) s = ends (s.setCore d c { k with swap := .none }) (if k.setB then 0x100 else 0)) ∧
      (k.swap = .none → (swapReady k = false ∨ (k.preq = true ∧ k.pack = false)) → exec (.mkShswap r) s = ends s 2) ∧
      (k.swap = .none → swapReady k = true → (k.preq = false ∨ (k.pack = true ∧ k.ordered = true)) →
        exec (.mkShswap r) s = waits (s.setCore d c { k with swap := .draining }))) ∧
    (HartReady .s r all s d c → agentArg w.toNat v = true →
      let told := fun (t : State) (kind id dom : Nat) =>
        ends (freezeReport (t.setCore d c { t.core d c with frz := true }) d kind 5 id dom (targetDom (s.die d) c) 0 false) 0
      (∀ ix, w = 0 → handleIx a d c v.toNat = some ix → (a.ctx ix).state = .free → exec (.mkFreeze r) s = ends s 2) ∧
      (∀ ix, w = 0 → handleIx a d c v.toNat = some ix → (a.ctx ix).state ≠ .free →
        exec (.mkFreeze r) s = told (s.setAct d c (freezeCtx a ix)) 0 v.toNat (a.ctx ix).dom.toNat) ∧
      (w = 0 → handleIx a d c v.toNat = none → exec (.mkFreeze r) s = ends s 1) ∧
      (w = 1 → exec (.mkFreeze r) s = told (s.setAct d c { a with postFrozen := true }) 1 c k.dom.toNat) ∧
      (w = 2 → (fld v 4 0, fld v 43 32) ∉ (s.die d).engFrz →
        exec (.mkFreeze r) s = told (s.setDie d { s.die d with engFrz := (s.die d).engFrz ++ [(fld v 4 0, fld v 43 32)] }) 2
          (fld v 4 0 + d * 256) (fld v 43 32)) ∧
      (3 ≤ w.toNat → exec (.mkFreeze r) s = ends s 7)) ∧
    (HartReady .m r all s d c → agentArg w.toNat v = true →
      (∀ ix, w = 0 → handleIx a d c v.toNat = some ix → (a.ctx ix).state = .frozen →
        exec (.mkThaw r) s = ends (s.setAct d c (thawCtx a ix)) 0) ∧
      (∀ ix, w = 0 → handleIx a d c v.toNat = some ix → (a.ctx ix).state ≠ .frozen → exec (.mkThaw r) s = ends s 2) ∧
      (w = 0 → handleIx a d c v.toNat = none →
        exec (.mkThaw r) s = ends s (if (handleIx k.shd d c v.toNat).isSome then 2 else 1)) ∧
      (w = 1 → exec (.mkThaw r) s = if a.postFrozen then ends (s.setAct d c { a with postFrozen := false }) 0 else ends s 2) ∧
      (w = 2 → exec (.mkThaw r) s =
        if (fld v 4 0, fld v 43 32) ∈ (s.die d).engFrz then
          ends ((s.setDie d { s.die d with engFrz := (s.die d).engFrz.erase (fld v 4 0, fld v 43 32) }).mapSets
            (resumeStream d (fld v 4 0, fld v 43 32))) 0
        else ends s 2) ∧
      (3 ≤ w.toNat → exec (.mkThaw r) s = ends s 7)) ∧
    (HartReady .s r two s d c →
      (fld v 31 26 = 0 → v.toNat < 2 ^ 48 → w.toNat % pageBytes (fld v 25 24) = 0 →
        let entry : PlbEntry :=
          { v := v.getLsbD 6, dom := BitVec.ofNat 12 (fld v 18 7), r := v.getLsbD 23, w := v.getLsbD 22, x := v.getLsbD 21,
            e := v.getLsbD 20, k := v.getLsbD 19, psz := BitVec.ofNat 2 (fld v 25 24), pcnt := BitVec.ofNat 16 (fld v 47 32), base := w }
        exec (.mkPlbw r) s = ends (s.setCore d c { k with
          plb := tset {} k.plb (fld v 5 0) entry, plbUse := k.plbUse.filter (fun j => decide (j ≠ fld v 5 0)) }) 0) ∧
      (v = 0 → exec (.mkPlbinv r) s = ends (s.setCore d c { k with plb := [] }) 0) ∧
      (v = 1 → w.toNat < 64 → exec (.mkPlbinv r) s = ends (s.setCore d c { k with plb := tset {} k.plb w.toNat {} }) 0) ∧
      (v = 2 → w.toNat < 4096 →
        exec (.mkPlbinv r) s = ends (s.setCore d c { k with plb := k.plb.filter (fun q => decide (q.2.dom ≠ w.setWidth 12)) }) 0)) ∧
    (s.debug = true → v.toNat < 2 ^ 23 → fld v 3 0 = 0 → fld v 21 20 ≠ 3 →
      let b := if v.getLsbD 22 then k.shd else a
      let g := fld v 19 4
      (HartReady .m r one s d c → exec (.mkDbgrd r) s = ends s (
        if fld v 21 20 = 2 then (tget {} b.pad g).tag.setWidth 64 else (rawData b g).extractLsb' (64 * fld v 21 20) 64)) ∧
      (HartReady .m r two s d c → (fld v 21 20 = 2 → w.toNat < 1024) →
        let b2 := if fld v 21 20 = 2 then { b with pad := tset {} b.pad g { tget {} b.pad g with tag := w.setWidth 10 } }
          else setRawData b g (BitVec.ofNat 128 (putFld (rawData b g).toNat (64 * fld v 21 20) 64 w.toNat))
        let u := s.setCore d c (if v.getLsbD 22 then { k with shd := b2 } else { k with act := b2 })
        exec (.mkDbgwr r) s = ends u 0 ∧
        let b' := if v.getLsbD 22 then (u.core d c).shd else u.act d c
        (fld v 21 20 = 2 → (tget {} b'.pad g).tag = w.setWidth 10 ∧ (tget {} b'.pad g).data = (tget {} b.pad g).data) ∧
        (fld v 21 20 ≠ 2 → (rawData b' g).extractLsb' (64 * fld v 21 20) 64 = w ∧
          (rawData b' g).extractLsb' (64 * (1 - fld v 21 20)) 64 = (rawData b g).extractLsb' (64 * (1 - fld v 21 20)) 64) ∧
        (∀ j, j ≠ g → tget {} b'.pad j = tget {} b.pad j))) ∧
    (∀ x : W64, HartReady .s noRegs {} s d c →
      exec (.mkSlicePack x) s = .next (hartGoesOn (s.setCore d c { k with pack := k.pack || x.getLsbD 63 }) d c noRegs 0) ∧
      ((fld x 3 0 = 0 ∨ fld x 3 0 = a.cache.toNat) → exec (.mkSplitWrite x) s = .next (hartGoesOn s d c noRegs 0)) ∧
      (a.cache.toNat < fld x 3 0 → exec (.mkSplitWrite x) s = .next (hartGoesOn
        (if ∀ q ∈ a.taken, q.2 = 0 ∨ q.1 + q.2 ≤ (16 - fld x 3 0) * 65536 then s.setAct d c { a with cache := x.setWidth 4 } else s)
        d c noRegs 0)) ∧
      (fld x 3 0 ≠ 0 → fld x 3 0 < a.cache.toNat →
        exec (.mkSplitWrite x) s = .next (hartGoesOn (shrinkCache s d c (fld x 3 0)) d c noRegs 0)))

/-- What a reserved head, an illegal line and a reserved custom-0 word raise; the hart's memory accesses (the save-area window read and written at its bytes, the hole and the
alignment rules, a plain access of the virtual space once it is served) and fences; a local interrupt; the entry of an upcall, which saves pc, x5 and x6 and the record's
fields.
The causes and trap registers are the RISC-V standard's (log 5, PRESUMED); which access of the hart faults with which cause is the model's reading (log 21). -/
def Obligations.HartMemoryAndInterrupts : Prop :=
  ∀ (s : State) (d c : Nat) (e : Env) (x : HartAccess) (w : BitVec 32),
    let a := s.act d c
    let k := s.core d c
    let h := s.hart d c
    let va := x.addr h
    let n := x.bytes
    let st := x.op.storing
    let turn := s.cur = .hart d c ∧ h.wfi = false
    let fits := va.toNat % 64 + n ≤ 64 ∧ (x.op.atomic = true → va.toNat % n = 0)
    let ends := fun (t : State) => Host.Outcome.next (hartGoesOn t d c noRegs 0)
    (s.env? = some e → exec .reservedOpcode s = .next (takeFault s e { code := 0x02 }) ∧
      exec .illegalLine s = .next (takeFault s e { code := 0x01 })) ∧
    (turn → exec (.custom0Reserved w) s = .next (s.hartTrap d c false 2 (w.setWidth 64))) ∧
    (turn → x.fp = false → va.toNat + n ≤ 0x2000 → fits → (x.rl = true → lastHartStore k = 0) →
      exec (.hartMemoryAccess x) s = ends (hartWindow d c x va.toNat s) ∧
      (∀ z, x.op = .load z → exec (.hartMemoryAccess x) s = .next (hartGoesOn s d c { noRegs with rd := x.rd }
        (let v := BitVec.ofNat (8 * n) (saveRead a va.toNat n)
         if z then v.zeroExtend 64 else v.signExtend 64))) ∧
      (x.op = .store → exec (.hartMemoryAccess x) s = ends (s.setAct d c (saveWrite a va.toNat n (x.operand h))))) ∧
    (turn → x.fp = false → fits → 0x2000 ≤ va.toNat → va.toNat < 0x100000 → (x.rl = true → lastHartStore k = 0) →
      exec (.hartMemoryAccess x) s = .next (s.hartTrap d c false (if st then 7 else 5) va)) ∧
    (turn → x.fp = false → x.op.atomic = false → 64 < va.toNat % 64 + n →
      exec (.hartMemoryAccess x) s = .next (s.hartTrap d c false (if st then 6 else 4) va)) ∧
    (turn → x.fp = false → x.op.atomic = true → va.toNat % n ≠ 0 → exec (.hartMemoryAccess x) s = .next (s.hartTrap d c false 6 va)) ∧
    (∀ t, turn → x.fp = false → fits → 0x100000 ≤ va.toNat → va.toNat < 2 ^ 57 → hartUnit s d c x va = none →
      (x.rl = true → lastHartStore k = 0) → hartGlobal d c x va.toNat s = .ok t → exec (.hartMemoryAccess x) s = ends t) ∧
    (turn → x.fp = true → fld h.mstatus 14 13 = 0 → ∃ z, exec (.hartMemoryAccess x) s = .next (s.hartTrap d c false 2 z)) ∧
    (turn → lastHartStore k = 0 → exec (.hartFence .fenceI) s = ends (fabEmpty s d) ∧ ((fabEmpty s d).die d).fab = []) ∧
    (∀ y, turn → y ≠ .fenceI → k.sb = [] → (∀ q, (s.pend (.hart d c)).ask ≠ .fence q) → exec (.hartFence y) s = ends s) ∧
    (∀ y q, turn → y ≠ .fenceI → (s.pend (.hart d c)).ask = .fence q → (∀ z ∈ k.sb, q < z.seq) →
      exec (.hartFence y) s = ends (endAccess s (.hart d c))) ∧
    (∀ cause, nextInterrupt k = some cause → k.swap ≠ .done → cause ≠ 19 →
      exec (.localInterrupt d c) s = .next (s.hartTrap d c true cause 0)) ∧
    (nextInterrupt k = some 19 → k.swap ≠ .done →
      let t := s.hartTrap d c true 19 0
      exec (.localInterrupt d c) s = .next (t.setCore d c { stopStrays (t.core d c) with stopped := true })) ∧
    (∀ u rest, a.upq = u :: rest → h.mode = .u → a.upEn = true → a.upBusy = false → nextInterrupt k = none → k.swap ≠ .done → h.busy = false →
      let entry := h.pc.toNat + (h.xr 5).toNat * 2 ^ 64 + (h.xr 6).toNat * 2 ^ 128 + u.kind.toNat * 2 ^ 192 + u.slot.toNat * 2 ^ 200 +
        u.acc.toNat * 2 ^ 208 + u.handle.toNat * 2 ^ 224 + u.faddr.toNat * 2 ^ 256 + u.token.toNat * 2 ^ 320
      let t := s.setCore d c { k with
        act := { saveWrite a 0x400 64 entry with upq := rest, upBusy := true }
        hart := { h.setX 5 0x400 with pc := BitVec.ofNat 64 (a.upVec.toNat * 64), wfi := false } }
      exec (.upcallEntry d c) s = .next t ∧
        let b := t.act d c
        a.saveGen ≠ 0 →
        (t.hart d c).pc.toNat = a.upVec.toNat * 64 % 2 ^ 64 ∧ (t.hart d c).mode = .u ∧ b.upBusy = true ∧ b.upq = rest ∧
        (t.hart d c).xr 5 = 0x400 ∧ (∀ j, j ≠ 5 → (t.hart d c).xr j = h.xr j) ∧
        saveRead b 0x400 8 = h.pc.toNat ∧ saveRead b 0x408 8 = (h.xr 5).toNat ∧ saveRead b 0x410 8 = (h.xr 6).toNat ∧
        saveRead b 0x418 1 = u.kind.toNat % 256 ∧ saveRead b 0x419 1 = u.slot.toNat % 256 ∧ saveRead b 0x41A 1 = u.acc.toNat % 256 ∧
        saveRead b 0x41C 4 = u.handle.toNat ∧ saveRead b 0x420 8 = u.faddr.toNat ∧ saveRead b 0x428 8 = u.token.toNat)

/-! ## The thread engine's steps (chapter 04) -/

/-- The thread engine's steps: an arrival enters the buffer, waits, or is a violation; the head of the buffer becomes a task in the lowest free frame with its registers; a trigger
takes a place and then its task; the mailbox takes a message or a trigger that has no handler; a channel packet joins its binding's queue, is counted when no binding takes it, is a violation, or
waits; a counter signal is applied, or is a violation; a message leaves after what its context sent to that core before, and a launch record joins its queue; the run queue's head is bound, and herded or stray, or READY again in a stopped
flock; aging lowers an effective priority in either set.
That each of these is one turn of the schedule is the model's form (log 13); which set a message addresses is its reading (log 15), and HERD 0 after binding its choice (log 28). -/
def Obligations.ThreadEngineSteps : Prop :=
  ∀ (s : State) (d c n ix : Nat) (p : Packet),
    let k := s.core d c
    let a := k.act
    let at' := s.core p.die p.core
    let permits := fun (dom : Nat) => (s.die p.die).permits at'.act.part dom
    (∀ h body coords, s.ready n = some p → p.body = .message h body coords →
      (permits (fld h 104 93) = false → exec (.messageArrival n) s =
        .next (violation (endEntry (s.dropPkt n) p.src false) p.src p.die p.core (fld h 127 64))) ∧
      (permits (fld h 104 93) = true → arrivalRoom at' = true → exec (.messageArrival n) s =
        .next (endEntry ((s.dropPkt n).setCore p.die p.core { at' with arr := at'.arr ++ [.msg h body coords] }) p.src true)) ∧
      (permits (fld h 104 93) = true → arrivalRoom at' = false → exec (.messageArrival n) s = .next s)) ∧
    (∀ x rest k', k.arr = x :: rest → arrivalTask k x = some (some (true, k')) →
      exec (.messageCreate d c) s = .next (s.setCore d c { k' with arr := rest })) ∧
    (∀ h body coords rest f wp, k.arr = .msg h body coords :: rest → fld h 56 0 ≠ 0 → freeIx a = some ix → freeFrame a = some (f, wp) →
      createWait k [(wp.toNat - 128, 640)] = none → k.next ≠ 0 →
      ∃ t, exec (.messageCreate d c) s = .next t ∧
        let b := t.act d c
        let x := b.ctx ix
        (t.core d c).arr = rest ∧ x.state = .ready ∧ x.ip.toNat = fld h 56 0 ∧ x.prio.toNat = fld h 92 90 ∧ x.eprio = x.prio ∧
        x.dom.toNat = fld h 104 93 ∧ x.wp = wp ∧ x.wsz = 32 ∧ x.frame = some f ∧ x.wgen = k.next ∧ x.inc = (a.ctx ix).inc + 1 ∧
        x.stream = noHandle ∧ ix ∈ b.runq ∧
        (∀ i, i ≤ fld h 89 88 → regRaw b x i = body.extractLsb' (128 * i) 128) ∧ regRaw b x 4 = coords.setWidth 128 ∧
        (∀ i, fld h 89 88 < i → i < 32 → i ≠ 4 → granLive a.pad (x.gran i) k.next = false → regRaw b x i = 0)) ∧
    (∀ g, (a.counter n).trig = some g → g.pending = true → g.placed = false → nextTrigger a = some n → k.arr.length < 16 →
      exec (.triggerTaskCreate d c n) s = .next (s.setCore d c { k with
        act := a.setCounter n { a.counter n with trig := some { g with placed := true } }, arr := k.arr ++ [.trigger n] })) ∧
    (∀ g k', (a.counter n).trig = some g → g.pending = true → g.placed = true → k.arr.head? = some (.trigger n) → g.hip ≠ 0 →
      frameCreate k (g.hip.setWidth 64) (if g.prio.toNat < g.eprio0.toNat then g.eprio0 else g.prio) g.dom noHandle
        [(0, g.arg.setWidth 128), (1, BitVec.ofNat 128 (g.fired.toNat + n % 256 * 65536))] = some (true, k') →
      exec (.triggerTaskCreate d c n) s = .next (s.setCore d c { k' with
        act := k'.act.setCounter n { k'.act.counter n with trig := none }, arr := k'.arr.tail })) ∧
    (∀ h body coords rest, k.arr = .msg h body coords :: rest → fld h 56 0 = 0 → mailValid a (a.mbox % 8) = 0 →
      let k' := (k.unreserve (2 ^ 64 + 0x800 + 128 * (a.mbox % 8))).unreserve (2 ^ 64 + 0x840 + 128 * (a.mbox % 8))
      let b := { saveWrite a (0x800 + 128 * (a.mbox % 8)) 128
        (mailBytes h.toNat (body.toNat % 2 ^ (128 * (fld h 89 88 + 1))) coords.toNat 1) with mbox := (a.mbox + 1) % 8 }
      exec (.mailboxDelivery d c) s = .next (s.setCore d c { k' with act := b, arr := rest }) ∧
      (a.saveGen ≠ 0 → a.mbox < 8 → mailValid b a.mbox ≠ 0 ∧ mailKind b a.mbox = 1 ∧
        saveRead b (0x800 + 128 * a.mbox) 16 = h.toNat ∧
        saveRead b (0x810 + 128 * a.mbox) 64 = body.toNat % 2 ^ (128 * (fld h 89 88 + 1)) ∧
        saveRead b (0x850 + 128 * a.mbox) 8 = coords.toNat)) ∧
    (∀ g rest, k.arr = .trigger n :: rest → (a.counter n).trig = some g → g.hip = 0 → mailValid a (a.mbox % 8) = 0 →
      let k' := (k.unreserve (2 ^ 64 + 0x800 + 128 * (a.mbox % 8))).unreserve (2 ^ 64 + 0x840 + 128 * (a.mbox % 8))
      exec (.mailboxDelivery d c) s = .next (s.setCore d c { k' with
        act := { saveWrite (a.setCounter n { a.counter n with trig := none }) (0x800 + 128 * (a.mbox % 8)) 128
          (mailBytes ((s.free 0).toNat + (s.free 1).toNat * 2 ^ 64)
            (g.arg.toNat + (g.fired.toNat + n % 256 * 2 ^ 16) * 2 ^ 128) (s.free 2).toNat 2) with mbox := (a.mbox + 1) % 8 }
        arr := rest })) ∧
    (∀ tag v route, s.ready n = some p → p.body = .channel tag v route → tag ≠ 0xFFF →
      (permits p.src.dom.toNat = false →
        exec (.channelPacketArrival n) s = .next (violation (s.dropPkt n) p.src p.die p.core route.toNat)) ∧
      (permits p.src.dom.toNat = true → tagBinding at'.act tag.toNat = none →
        exec (.channelPacketArrival n) s = .next ((s.dropPkt n).setCore p.die p.core (at'.count 1 1))) ∧
      (∀ b, permits p.src.dom.toNat = true → tagBinding at'.act tag.toNat = some (ix, b) →
        let q := chQueue at'.act ix b
        (4 ≤ q.length → exec (.channelPacketArrival n) s = .next s) ∧
        (q.length < 4 → exec (.channelPacketArrival n) s = .next ((s.dropPkt n).setCore p.die p.core { at' with
          act := wakeAll { at'.act with chq := tset [] at'.act.chq (8 * ix + b) (q ++ [v]) } })))) ∧
    (∀ j inc route b, s.ready n = some p → p.body = .signal j inc route b →
      let u := s.dropPkt n
      (∀ t, remoteUpd u p.die p.core p.src.dom.toNat (.signal j.toNat inc) = some t → exec (.counterSignalPacket n) s = .next t) ∧
      (remoteUpd u p.die p.core p.src.dom.toNat (.signal j.toNat inc) = none →
        exec (.counterSignalPacket n) s = .next (violation u p.src p.die p.core route.toNat))) ∧
    (∀ q, tfind a.post n = some q → entryClear k q = true → q.engine = none →
      let t := s.setAct d c { a with post := tins a.post n { q with engine := some (d, 0, false) } }
      let from' := issuerSender d c q.issuer n q.seq
      (∀ spawn h body, q.op = .send spawn h body →
        let m : Packet :=
          { iss := q.seq, cls := 1, src := from', pkg := if spawn then s.pkg.toNat else fld h 127 116,
            die := if spawn then d else fld h 115 112, core := if spawn then c else fld h 111 105,
            body := .message h body (coordsOf s.pkg from') }
        (q.issuer.hart = true ∨ sendsAhead s d c m = false) →
        exec (.messageSend d c n) s = .next (releaseBehind (sendPacket t m) d c)) ∧
      (∀ img, q.op = .launch img → (t.die d).lrecs.length < 16 →
        exec (.messageSend d c n) s = .next (endEntry
          (t.setDie d { t.die d with lrecs := (t.die d).lrecs ++ [(img, c, q.issuer.dom)] }) from' true))) ∧
    (∀ i, i < 32 → (a.slot i).mode = .binding → (∀ j, j < i → (a.slot j).mode ≠ .binding) →
      (k.halted = true → exec (.contextBind d c) s = .next (s.setAct d c (leaveStray a i))) ∧
      (k.halted = false → exec (.contextBind d c) s = .next (s.setAct d c (
        let y := a.ctx (a.slot i).ix
        (a.setCtx (a.slot i).ix { y with herd := false }).setSlot i
          { a.slot i with mode := if y.herd then .herded else .stray })))) ∧
    (∀ i rest, i < 32 → (∀ j, j < 32 → (a.slot j).mode ≠ .binding) → k.halted = false → (a.slot i).mode = .empty →
      (∀ j, j < i → (a.slot j).mode ≠ .empty) → a.runq = ix :: rest →
      exec (.contextBind d c) s = .next (s.setAct d c (
        let y := a.ctx ix
        (({ a with runq := rest } : SetState).setCtx ix { y with state := .bound, eprio := y.prio, slot := BitVec.ofNat 5 i, age := 0 }).setSlot i
          { mode := .binding, ix := ix }))) ∧
    (let due := fun (b : SetState) => (b.ctx ix).state = .ready ∧ (b.ctx ix).eprio ≠ 0 ∧ 65536 ≤ (b.ctx ix).age
     let aged := fun (b : SetState) => runqTail ((runqDrop b ix).setCtx ix
       { b.ctx ix with eprio := (b.ctx ix).eprio - 1, age := (b.ctx ix).age - 65536 }) ix
     (due a → exec (.agingStep d c ix) s = .next (s.setCore d c { k with act := aged a }) ∧
       ((aged a).ctx ix).eprio = (a.ctx ix).eprio - 1 ∧ ((aged a).ctx ix).prio = (a.ctx ix).prio ∧ ix ∈ (aged a).runq ∧
       ∀ j, j ≠ ix → (aged a).ctx j = a.ctx j ∧ (j ∈ (aged a).runq ↔ j ∈ a.runq)) ∧
     (¬due a → due k.shd → exec (.agingStep d c ix) s = .next (s.setCore d c { k with shd := aged k.shd })))

/-! ## Coherence and translation (chapters 10, 11 and 17) -/

/-- The steps behind global accesses: the home records a reader and answers it, a proxy answers, the keeper records a sharer that the entry has no room for, the fill installs a line, the fabric cache takes a line, the
load goes on; a write's line goes to P and its copies are invalidated and acknowledged; the oldest store performs when they are; an atomic is indivisible at its home, once the older entries of its core's buffer have performed; the remote agent, the
counter window and the host answer.
The cut of an access into these turns is the model's (log 14, DESIGN CHOICE). -/
def Obligations.CoherenceSteps : Prop :=
  ∀ (s : State) (a : Agent) (va fa d c : Nat) (l : Line) (x : Acc),
    let p := s.pend a
    let asks := fun (t : State) (q : Ask) => t.setPend a { t.pend a with ask := q }
    let value := fun (t : State) (v : Nat) (q : Ask) =>
      t.setPend a { t.pend a with val := (x.fa, BitVec.ofNat 128 v) :: (t.pend a).val, ask := q }
    let made := fun (t : State) (v : Nat) (q : Ask) => let u := value t v q; u.setPend a { u.pend a with made := decide (x.op ≠ .load) }
    let older := ∀ e ∈ (s.core a.die a.core).sb, p.seq.getD (s.core a.die a.core).sbSeq < e.seq
    let k := s.core d c
    (p.ask = .line va fa → faPkg fa = s.pkg.toNat → faDie fa = a.die → homeFree s fa = true → dirFits s fa = true →
      exec (.homeRead a) s = .next (serveLine s a va fa (.core a.core))) ∧
    (p.ask = .line va fa → faPkg fa = s.pkg.toNat → faDie fa ≠ a.die →
      (∀ q, tfind (s.die a.die).proxy (fa / 64 * 64) = some q →
        exec (.proxyMiss a none) s = .next (asks (proxyShare s a.die fa a.core q.data) (.fill va fa q.data true))) ∧
      (tfind (s.die a.die).proxy (fa / 64 * 64) = none → homeFree s fa = true → dirFits s fa = true →
        proxyRoom (s.die a.die) fa = true →
        exec (.proxyMiss a none) s = .next (serveLine s a va fa (.proxy a.die)))) ∧
    (p.ask = .keep va fa l → lineValue s fa ≠ l → exec (.keeperPost a) s = .next (asks s (.fill va fa l false))) ∧
    (p.ask = .keep va fa l → keeperRoom s fa ≤ keptCount s fa →
      exec (.keeperPost a) s = .next (asks s (.fill va fa l false))) ∧
    (p.ask = .keep va fa l → lineValue s fa = l → keptCount s fa < keeperRoom s fa → homeFree s fa = true → dirFits s fa = true →
      let q := ptrOf s fa a.die a.core
      let t := dirRoom s fa
      let y := t.dirOf fa
      let t := t.setDir fa { y with kept := if y.copies.contains q then y.kept else y.kept ++ [q] }
      exec (.keeperPost a) s = .next (asks
        (if faDie fa = a.die ∧ faPkg fa = s.pkg.toNat then t else proxyShare t a.die fa a.core l) (.fill va fa l true))) ∧
    (p.ask = .fill va fa l false → exec (.cacheFill a none 0) s = .next (s.setPend a { p with
      got := (fa / 64 * 64, l) :: p.got.filter (fun q => decide (q.1 ≠ fa / 64 * 64)), ask := .reply })) ∧
    (p.ask = .fill va fa l true → mayInstall s a.die va fa = true → tfind (s.act a.die a.core).lines (fa / 64 * 64) = none →
      (s.act a.die a.core).lines.length < cacheRoom (s.core a.die a.core) →
      let j := s.core a.die a.core
      let line : CacheLine := { va := va / 64 * 64, data := l, dirty := false }
      let t := s.setCore a.die a.core { j with
        act := { j.act with lines := tins j.act.lines (fa / 64 * 64) line }
        shd := { j.shd with lines := tdel j.shd.lines (fa / 64 * 64) } }
      exec (.cacheFill a none 0) s = .next (t.setPend a { t.pend a with
        got := (fa / 64 * 64, l) :: (t.pend a).got.filter (fun q => decide (q.1 ≠ fa / 64 * 64)), ask := .reply })) ∧
    (let kept := (s.die a.die).fab.filter (fun q => decide (q.2.1 ≠ fa / 64 * 64))
     p.ask = .fab va fa → faPkg fa = s.pkg.toNat → homeFree s fa = true → kept.length < 32768 → mayInstall s a.die va fa = true →
      (lineDirty s fa = true ∨ s.badWord (fa / 64 * 64) 64 = none) →
      exec (.fabricCacheFill a none) s = .next (asks (s.setDie a.die { s.die a.die with
        fab := tins kept (va / 64 * 64) (fa / 64 * 64, lineValue s fa) }) (if p.load.isSome then .reply else .idle))) ∧
    (p.ask = .reply → p.load = none → exec (.loadReply a) s = .next (asks s .idle)) ∧
    (∀ dd t i, a = .slot d c i → p.ask = .reply → p.load = some (dd, t, false) → k.halted = false →
      exec (.loadReply a) s = exec (.ldg dd t) { s with cur := a }) ∧
    (∀ q, let y := s.dirOf va
      y.st = .p → q ∈ y.pendAck → exec (.invalidation va q) s = .next (
        let t := dropCopy s va q
        t.setDir va { t.dirOf va with pendAck := (t.dirOf va).pendAck.erase q, ptrs := (t.dirOf va).ptrs.erase q })) ∧
    ((s.dirOf va).st = .p → (s.dirOf va).keeperAck = true →
      exec (.keeperInvalidate va) s = .next (
        let t := (s.dirOf va).kept.foldl (fun t q => dropCopy t va q) s
        t.setDir va { t.dirOf va with kept := [] }) ∧
      ((s.dirOf va).kept = [] →
        exec (.keeperComplete va) s = .next (s.setDir va { s.dirOf va with keeperAck := false, ovf := false }))) ∧
    (∀ e rest, k.sb = e :: rest → e.atHome = false → storeLines s e = [fa / 64 * 64] → homeFree s (fa / 64 * 64) = true →
      dirFits s (fa / 64 * 64) = true →
      let la := fa / 64 * 64
      let t := dirRoom s la
      let y := t.dirOf la
      let u := t.setDir la { y with st := .p, pendAck := y.ptrs.filter (fun q => decide (q ≠ .core c ∨ faDie la ≠ d)), keeperAck := y.ovf }
      exec (.homeWrite d c) s = .next (u.setCore d c { u.core d c with sb := { e with atHome := true } :: rest })) ∧
    (∀ e rest bs, k.sb = e :: rest → e.pieces = [(fa, bs)] → faPkg fa = s.pkg.toNat → s.unreachable (faPkg fa) = false →
      ((faClass fa = 2 ∨ faClass fa = 3) → e.atHome = true → (s.dirOf (fa / 64 * 64)).pendAck = [] →
        (s.dirOf (fa / 64 * 64)).keeperAck = false →
        exec (.storePerform d c) s = .next (sbRetire (performPiece s (sbSender d c e) e.op fa bs) d c)) ∧
      (∀ b, faClass fa = 6 → hostBus s fa = some b →
        exec (.storePerform d c) s = .next (sbRetire { s with host := memPut s.host b bs } d c)) ∧
      (faClass fa = 4 → storePermitted s e = true →
        exec (if e.op = .store then .counterWindowSet d c else .counterWindowSignal d c) s =
          .next (sbRetire (windowWrite s e.dom e.op fa bs) d c))) ∧
    (p.ask = .atomic x → faPkg x.fa = s.pkg.toNat → homeFree s x.fa = true → older →
      let t := dropAllCopies s x.fa
      let old := memRead t.mem x.fa x.size
      t.badWord x.fa x.size = none →
      exec (.atomicAtHome a) s = .next (made
        (if x.op ≠ .cas ∨ old = x.cmp.toNat % 2 ^ (8 * x.size) then storeBytes t x.fa (bytesOf x.size (atomicNew x old)) else t) old .idle)) ∧
    (p.ask = .remote x → faClass x.fa = 0 → faPkg x.fa = s.pkg.toNat → x.op = .load →
      (∀ d' c' sh g, remoteAt s x = .set d' c' sh g → padBad ((s.core d' c').set sh).pad g (faOff x.fa) x.size = none →
        exec (.remotePaddockAccess a) s = .next (
        made s (padBytes ((s.core d' c').set sh).pad g (faOff x.fa) x.size) .reply)) ∧
      (remoteAt s x = .fails → exec (.remotePaddockAccess a) s = .next (s.setPend a { p with ans := .remote x.fa, ask := .reply })) ∧
      (∀ d' c', remoteAt s x = .refused d' c' → exec (.remotePaddockAccess a) s = .next (
        violation (s.setPend a {}) (agentSender s a) d' c' x.fa))) ∧
    (∀ j n sh, p.ask = .counter x → faPkg x.fa = s.pkg.toNat → logicalOf (s.die (faDie x.fa)) (faUnit x.fa) = some j →
      windowCounter x.fa = some n → s.setFor (faDie x.fa) j x.dom.toNat = some sh →
      exec (.counterWindowRead a) s = .next (
        value s (counterMap (((s.core (faDie x.fa) j).set sh).counter n)) .reply)) ∧
    (∀ b old, p.ask = .hostAtomic x → faPkg x.fa = s.pkg.toNat → older →
      exec (.hostAtomicCompletion a old true) s = .next (s.setPend a { p with ans := .remote x.fa, ask := .idle }) ∧
      (hostBus s x.fa = some b → exec (.hostAtomicCompletion a old false) s = .next (
        let m := old.toNat % 2 ^ (8 * x.size)
        made (if x.op ≠ .cas ∨ m = x.cmp.toNat % 2 ^ (8 * x.size) then
          { s with host := memPut s.host b (bytesOf x.size (atomicNew x m)) } else s) m .idle)))

/-- Refills and walks: a PLB refill installs the range of the domain's list that holds the address, in an invalid entry or the one matched least recently, or tells its agent that there is none; a walk caches the leaf it ends at, or tells its agent; a malformed
list or entry is counted in MALF. A write of SHOOT starts a shootdown, which removes the range from the translations, and completes when no core still uses it.
The cut into turns is the model's (log 14), and of entries that nothing has matched since they were written it takes the lowest (log 28). -/
def Obligations.TranslationSteps : Prop :=
  ∀ (s : State) (a : Agent) (va d : Nat) (w : BitVec 64),
    let p := s.pend a
    let k := s.core a.die a.core
    let idle := fun (t : State) => t.setPend a { t.pend a with ask := .idle }
    let bad := malformed s a.die va (s.domOf a).toNat
    let start : BitVec 64 := (w &&& ~~~0x00003E0000000000#64)
    (p.ask = .plb va →
      (∀ r, findRange s a.die (s.domOf a).toNat va = .range r → exec (.plbRefill a) s = .next (idle (
        s.setCore a.die a.core { k with
          plb := tset {} k.plb (refillSlot k) (rangeEntry r (s.domOf a))
          plbUse := k.plbUse.filter (fun j => decide (j ≠ refillSlot k)) }))) ∧
    (let i := refillSlot k
     (∀ j, 16 ≤ j → j < 64 → (tget {} k.plb j).v = false → (tget {} k.plb i).v = false ∧ 16 ≤ i ∧ i ≤ j) ∧
     (∀ j rest, k.plbUse = rest ++ [j] → (∀ q, 16 ≤ q → q < 64 → (tget {} k.plb q).v = true ∧ q ∈ k.plbUse) → i = j)) ∧
      (findRange s a.die (s.domOf a).toNat va = .none →
        exec (.plbRefill a) s = .next (s.setPend a { p with ask := .idle, ans := .noRange va })) ∧
      (findRange s a.die (s.domOf a).toNat va = .broken →
        exec (.plbRefill a) s = .next (bad.setPend a { bad.pend a with ask := .idle, ans := .noRange va }))) ∧
    (p.ask = .walk va →
      (∀ psz fa, walk s a.die va = .page psz fa → (s.die a.die).tlb.length < 16384 →
        exec (.tableWalk a) s = .next (idle (s.setDie a.die { s.die a.die with
          tlb := tins (s.die a.die).tlb (va / pageBytes psz * pageBytes psz / 65536) { psz := BitVec.ofNat 2 psz, fa := fa } }))) ∧
      (walk s a.die va = .invalid →
        exec (.tableWalk a) s = .next (s.setPend a { p with ask := .idle, ans := .noPage va })) ∧
      (walk s a.die va = .malformed →
        exec (.tableWalk a) s = .next (bad.setPend a { bad.pend a with ask := .idle, ans := .noPage va }))) ∧
    ((s.die d).shoot.getLsbD 63 = true → exec (.shootdown d w) s = .next s) ∧
    ((s.die d).shoot.getLsbD 63 = false → (w.getLsbD 63 = false ∨ w.getLsbD 62 = true) →
      exec (.shootdown d w) s = .next (s.setDie d { s.die d with shoot := start &&& 0x7FFFFFFFFFFFFFFF })) ∧
    ((s.die d).shoot.getLsbD 63 = false → w.getLsbD 63 = true → w.getLsbD 62 = false →
      exec (.shootdown d w) s = .next (
        let u := s.setDie d { s.die d with shoot := start }
        (if w.getLsbD 61 then u.dies.map (·.1) else [d]).foldl (shootDie w) u) ∧
      (w.getLsbD 61 = false → ∃ t, exec (.shootdown d w) s = .next t ∧
        (∀ e ∈ (t.die d).tlb, e ∈ (s.die d).tlb ∧ inShoot w (e.1 * 65536) (pageBytes e.2.psz.toNat) = false) ∧
        (∀ e ∈ (t.die d).fab, inShoot w e.1 64 = false))) ∧
    ((s.die d).shoot.getLsbD 63 = true →
      (∀ j ∈ shootDies s d (s.die d).shoot, ∀ q ∈ (s.die j).cores, shootBusy (s.die d).shoot q.2 = false) →
      exec (.shootdownComplete d) s = .next (s.setDie d { s.die d with shoot := (s.die d).shoot &&& 0x7FFFFFFFFFFFFFFF }))

/-! ## The engines, the matrix arrays and launches (chapters 12, 13 and 18) -/

/-- The engines' steps: a port's shadow set becomes active and its command is captured; a command whose wait is met and whose hazards are gone is dispatched, or freezes its post queue for want of a key, an SMIG starting its migration; a
chunk lands and sets its chunk-map bit, is asked for again when its CRC fails, and ends the command at the fourth failure; a completed command gives its destination-end signal, then its handler, then in one step lifts its locks, frees its entry
and gives its signal; a failing one is counted and ends without it; a far chunk that the pool does not present is held; a sort writes its table and ends.
The cut into turns and the readings of log 16 are the model's (DEDUCED). -/
def Obligations.EngineSteps : Prop :=
  ∀ (s : State) (d c n j : Nat) (p : PostEntry),
    let k := s.core d c
    let a := k.act
    let q := a.port j
    (∀ i, q.activeCmd = none → q.shadowCmd = some i → exec (.commandCapture d c j) s = .next (s.setAct d c
      (a.setPort j { q with active := q.shadow, activeCmd := some i, shadowCmd := none }))) ∧
    (∀ i x, j ≠ 1 → q.activeCmd = some i → tfind a.post i = some x → exec (.commandCapture d c j) s = .next (s.setAct d c
      (wakeCommands { (a.setPort j { q with activeCmd := none }) with post := tins a.post i { x with captured := true } }))) ∧
    (tfind a.post n = some p →
      (∀ h pkg die dst va, entryClear k p = true → p.engine = none → p.op = .smig h pkg die dst va →
        exec (.commandDispatch d c n) s = .next
          { s.setAct d c { a with post := tins a.post n { p with engine := some (d, 0, false) } } with
            migs := tins s.migs s.nextMig { h := h, pkg := pkg, die := die, dst := dst, ed := d, ec := c, ee := n, es := p.seq }
            nextMig := s.nextMig + 1 }) ∧
      (entryClear k p = true → p.engine = none → hazardFree a n p = true → p.op.byChunks = true →
        (∀ va, keyMissing s d p = some va → exec (.commandDispatch d c n) s = .next (freezePost s d c 2 p.issuer.dom.toNat va)) ∧
        (let g := engineFor s d c p
         keyMissing s d p = none → (g.2.2 = true → farCount s g.1 g.2.1 < 32) → exec (.commandDispatch d c n) s = .next (
          let t := s.setAct d c { a with post := tins a.post n { p with engine := some g, arr := (s.die g.1).engSeq } }
          t.setDie g.1 { t.die g.1 with engSeq := (s.die g.1).engSeq + 1 }))) ∧
      (∀ w, p.dst = some w → chunkReady s k p j = true →
        (∀ s' got, moveChunk s d c p w j = .ok (s', got) → exec (.chunkLand d c n j false) s = .next (landed s' d c n j { p with resume := false } got)) ∧
        (tget 0 p.retries j < 3 → exec (.chunkLand d c n j true) s = .next (s.setAct d c
          { a with post := tins a.post n { p with retries := tset 0 p.retries j (tget 0 p.retries j + 1) } })) ∧
        (tget 0 p.retries j = 3 → exec (.chunkLand d c n j true) s = .next
          (freezePost (failEntry s d c n p) d c 6 p.issuer.dom.toNat (w.lo + 512 * j)))) ∧
      (p.op.byChunks = true → p.engine.isSome = true → p.done = true → endLost s p = false →
        (p.signalled = false → p.di = 0 →
          exec (.completionMessage d c n) s = .next (s.setAct d c { a with post := tins a.post n { p with signalled := true } })) ∧
        (∀ t, p.signalled = false → p.endPkg = s.pkg.toNat → ¬(p.endDie = d ∧ p.endCore = c) → p.di ≠ 0 →
          remoteUpd (s.setAct d c { a with post := tins a.post n { p with signalled := true } }) p.endDie p.endCore
            p.issuer.dom.toNat (.signal p.dk p.di) = some t →
          exec (.completionMessage d c n) s = .next t) ∧
        (p.signalled = false → p.endPkg = s.pkg.toNat → p.endDie = d → p.endCore = c → p.di ≠ 0 →
          exec (.completionMessage d c n) s = .next (
            let t := s.setAct d c { a with post := tins a.post n { p with signalled := true } }
            t.setAct d c (signalSet (t.act d c) p.dk p.di))) ∧
        (p.signalled = true → p.handled = false → p.hip = 0 →
          exec (.completionMessage d c n) s = .next (s.setAct d c { a with post := tins a.post n { p with handled := true } })) ∧
        (p.signalled = true → p.handled = false → p.hip ≠ 0 → p.endPkg = s.pkg.toNat → p.endDie = d → p.endCore = c →
          arrivalRoom k = true → exec (.completionMessage d c n) s = .next (
            let b := { a with post := tins a.post n { p with handled := true } }
            s.setCore d c { k with act := b, arr := k.arr ++ [.handler p.hip (handlerW0 b.acc p)
              ((coordsOf s.pkg (entrySender d c n p)).setWidth 128) p.issuer.prio p.issuer.dom] })) ∧
        (p.signalled = true → p.handled = true →
          exec (.completionMessage d c n) s = .next (dropPins (s.setAct d c (endCommand a n p)) p.op))) ∧
      (p.op.byChunks = false → p.ended = true → exec (.completionMessage d c n) s = .next (s.setAct d c (endCommand a n p))) ∧
      (p.failed = none → p.si ≠ 0 → p.op = .copy →
        (endCommand a n p).counters = (signalSet (freeEntry a n) p.sk p.si).counters ∧
        tfind (endCommand a n p).post n = none ∧ (∀ l ∈ (endCommand a n p).locks, l.owner ≠ .post n)) ∧
      (p.engine.isSome = true → p.op.byChunks = true → (p.done = false ∨ endLost s p = true) → ∀ addr, failAddr s d c p = some addr →
        exec (.commandFail d c n) s = .next (failEntry (failReport s d c p addr) d c n p)) ∧
      (∀ ed en far, p.engine = some (ed, en, far) → p.cxlHeld = none → j < p.chunks → p.landed.contains j = false →
        (poolAddr a.acc p j).isSome = true → (∀ i, i < j → p.landed.contains i = true ∨ poolAddr a.acc p i = none) →
        exec (.cxlNotPresent d c n) s = .next (
          let y := { p with cxlHeld := some (j, (s.die ed).cxlSeq % 65536), cxlTold := false }
          let t := s.setDie ed { s.die ed with cxlSeq := ((s.die ed).cxlSeq + 1) % 65536 }
          tellHold (t.setEntry d c n y) d c n y)) ∧
      (∀ src m kk dst base, p.op = .psort src m kk dst base → entryClear k p = true →
        psortBad a src (4 * m) dst (8 * kk + 8) = none → exec (.psortComplete d c n) s = .next (s.setAct d c (endCommand
          (enginePut a dst (8 * kk + 8) (psortOut (engineBytes a src (4 * m)) base m kk)) n p))))

/-- The matrix arrays' steps: an MMA starts when it is clear, alone or with every member of its gang, and its tile is cleared and masked; a K-group enters each unmasked element of rows 0 to M-1 and nothing
else; a completed command, in a gang every member's at once, frees its port and gives its signal; MMZ zeroes its tiles; a gang wait ends after GTO, the waiting arrival undone; a half's image is written again, or reported.
The cut into turns and the readings of log 16 are the model's (DEDUCED). -/
def Obligations.MatrixSteps : Prop :=
  ∀ (s : State) (d c n : Nat) (m : MCmd),
    let k := s.core d c
    let a := k.act
    (activeMatrix a = some (n, m) →
      (∀ h tile z ctl mf kw w, m.op = .mma h tile z ctl mf kw w →
        (ctlGs ctl = 0 → matrixClear k n m = true → (s.die d).capped = false →
          exec (.mmaStart d c) s = .next (startMma s d c n m)) ∧
        (∀ x, mmaOf s d c m = some x → m.started = true → m.groups < x.total →
          (m.bad = true ∨ x.badAt s d c m.groups = none) →
          let t := s.setAct d c { a with acc := x.mapTile a.acc (x.group m.groups), mcmds := tins a.mcmds n { m with groups := m.groups + 1 } }
          exec (.mmaGroupLand d c) s = .next t ∧
            (ctlM x.ctl ≤ 64 → ∀ i l, l < 64 →
              (i < ctlM x.ctl → memRead (t.act d c).acc (x.addr i l) x.es % 2 ^ (8 * x.es) =
                x.group m.groups i l (memRead a.acc (x.addr i l) x.es) % 2 ^ (8 * x.es)) ∧
              (ctlM x.ctl ≤ i → i < 64 →
                memRead (t.act d c).acc (x.addr i l) x.es = memRead a.acc (x.addr i l) x.es))) ∧
        (m.gang = none → m.started = true → (ctlK ctl + groupSize (ctlAmf ctl) mf - 1) / groupSize (ctlAmf ctl) mf ≤ m.groups →
          exec (.mmaComplete d c) s = .next (s.setAct d c (endMatrix a n m))) ∧
        (∀ g y, m.gang = some g → tfind (s.die d).gangs g = some y → y.members.all (mmaLanded s d) = true →
          exec (.mmaComplete d c) s = .next (
            let t := y.members.foldl (fun t j => match activeMatrix (t.act d j) with
              | some (i, q) => t.setAct d j (endMatrix (t.act d j) i q)
              | none => t) s
            t.setDie d { t.die d with gangs := tdel (t.die d).gangs g }))) ∧
      (∀ mask, m.op = .mmz mask →
        (matrixClear k n m = true → (s.die d).capped = false → exec (.mmzStart d c) s = .next (s.setAct d c
          { a with mcmds := tins a.mcmds n { m with started := true } })) ∧
        (m.started = true → exec (.mmzComplete d c) s = .next (s.setAct d c (endMatrix
          { a with
            acc := (tileRuns mask).foldl (fun x r => memZero x r.1 r.2) a.acc
            accBad := (tileRuns mask).foldl (fun l r => wordsWritten l r.1 r.2) a.accBad } n m))))) ∧
    (∀ g x, tfind (s.die d).gangs g = some x → x.formed = true → x.members.all (gangReady s d g) = true →
      exec (.gangStart d g) s = .next (x.members.foldl (fun t j => match activeMatrix (s.act d j) with
        | some (i, q) => startMma t d j i q
        | none => t) s)) ∧
    (∀ ix g y, let x := a.ctx ix
      (if ix = 64 then ∃ w, a.hgang = some w ∧ w.done = false ∧ w.fault = false ∧ k.gangto.toNat ≤ w.wait ∧
          waitingArrival (s.die d) a (fun i q => decide (i = w.n) && q.issuer.hart) = some (g, y)
        else x.wait = some .gang ∧ x.gangDone = false ∧ x.gangFault = none ∧ k.gangto.toNat ≤ x.gangWait ∧
          waitingArrival (s.die d) a (fun _ q => decide (q.issuer.ix = ix ∧ q.issuer.inc = x.inc ∧ ¬q.issuer.hart)) = some (g, y)) →
      let t := s.setAct d c (undoArrival a g gangTimeoutCode)
      let l := y.members.filter (fun j => decide (j ≠ c))
      y.formed = false ∧ exec (.gangTimeout d c ix) s = .next (t.setDie d { t.die d with
        gangs := if l.isEmpty then tdel (t.die d).gangs g else tins (t.die d).gangs g { y with members := l } })) ∧
    (∀ h r y, h < 2 → (a.half h).replay = some r → ((a.half (1 - h)).replay = none ∨ h = b2n a.sel) → r.src = some y →
      exec (.weightReplayComplete d c h true) s = .next (failReplay s d c h y.lo true) ∧
      (keyMissing s d (replayEntry h r) ≠ none →
        exec (.weightReplayComplete d c h false) s = .next (failReplay s d c h y.lo true)) ∧
      (∀ t, keyMissing s d (replayEntry h r) = none →
        reload s d c (replayEntry h r) (linearWalk 2 (halfBase h) r.size) (List.range (replayEntry h r).chunks) = .ok t →
        exec (.weightReplayComplete d c h false) s = .next (t.setAct d c (endReplay (t.act d c) h true))))

/-- Launch packets: a first write makes the aperture's slot busy, another into a busy slot is an overrun, and a frozen function's slot gives its packet up; a packet taken from its slot or queue that is illegal is answered BAD_PACKET, one for a
partition not bound to its function freezes the function, and otherwise LAUNCH, REGISTER, GLOAD, REPLAY and PATCH do their work or give their status; a share is placed whole; a task is created with its coordinates; a launch completes when every
task has retired; a replay starts.
The order of the statuses and the other readings of log 18 are the model's (DEDUCED). -/
def Obligations.LaunchSteps : Prop :=
  ∀ (s t : State) (src : PktSrc) (w : BitVec 2048) (relaxed : Bool) (home : Nat) (r : Reply),
    let pkt : Nat → Instr := fun ty => match ty with
      | 1 => .launchPacket src w relaxed
      | 2 => .gloadPacket src w relaxed
      | 3 => .replayPacket src w relaxed
      | 4 => .patchPacket src w relaxed
      | 5 => .registerPacket src w relaxed
      | _ => .reservedPacketType src w relaxed
    let ty := pType w
    let key := 64 * pPart w + pNum w
    let answered := fun (u : State) (st : Nat) => (Host.Outcome.next ((reply u r st).getD s) : Host.Outcome State Fault Refusal)
    (∀ port fn slot, src = .host port fn slot → port < 2 → fn < 8 → slot < 16 → fnFrozen s port fn = false → fnLen s port fn = true →
      let at' := 128 * port + 16 * fn + slot
      (tfind s.aper at' = none → exec (pkt ty) s = .next { s with
        slots := tins s.slots at' w, aper := tins s.aper at' (w, relaxed), apAt := tins s.apAt at' (s.die (portDie port)).dcyc }) ∧
      (∀ x, tfind s.aper at' = some x → x ≠ (w, relaxed) → exec (pkt ty) s = .next (overrun s port fn slot)) ∧
      (tfind s.aper at' = some (w, relaxed) → ∃ r', takePacket s src w relaxed =
        .took { s with aper := tdel s.aper at' } (portDie port) r' ∧ r'.src = .host port fn ∧ r'.lro = relaxed ∧
        r'.caddr = pCaddr w)) ∧
    (∀ port fn slot, src = .host port fn slot → port < 2 → fn < 8 → slot < 16 → fnFrozen s port fn = true →
      exec (pkt ty) s = .next { s with aper := tdel s.aper (128 * port + 16 * fn + slot) }) ∧
    (takePacket s src w relaxed = .took t home r →
      (packetOk w r.src.isHost = false → exec (pkt ty) s = answered t 1) ∧
      (packetOk w r.src.isHost = true →
        (∀ port fn, ty ≠ 5 → unbound t r (pPart w) = some (port, fn) → exec (pkt ty) s = .next (freezeFn t port fn (pDom w) 0)) ∧
        (ty ≠ 5 → unbound t r (pPart w) = none →
          (ty = 1 → ∀ u u' ps, readParams t home w = (u, ps) → readHeld ps = false →
            (∀ l, checkLaunch u home w r ps = (u', .ok l) → exec (pkt ty) s = .next (enterLaunch u' l)) ∧
            (∀ st, checkLaunch u home w r ps = (u', .error st) → exec (pkt ty) s = answered u' st)) ∧
          (ty = 3 →
            (tfind t.graphs key = none → exec (pkt ty) s = answered t 7) ∧
            (∀ g, tfind t.graphs key = some g → (t.die home).permits (some (pPart w)) (pDom w) = false → exec (pkt ty) s = answered t 5) ∧
            (∀ g, tfind t.graphs key = some g → (t.die home).permits (some (pPart w)) (pDom w) = true → replayFirst t src w = true →
              (g.queue.length < 8 →
                exec (pkt ty) s = .next { t with graphs := tins t.graphs key { g with queue := g.queue ++ [(home, r)] } }) ∧
              (8 ≤ g.queue.length → exec (pkt ty) s = answered t 8))) ∧
          (ty = 4 → tfind t.graphs key = none → exec (pkt ty) s = answered t 7) ∧
          (ty = 4 → ∀ g x, tfind t.graphs key = some g → g.nodes[pNode w]? = some x →
            ((t.die home).permits (some (pPart w)) (pDom w) = false → exec (pkt ty) s = answered t 5) ∧
            ((t.die home).permits (some (pPart w)) (pDom w) = true → pInl x.rcd = false → exec (pkt ty) s = answered t 1)) ∧
          (ty = 4 → ∀ g, tfind t.graphs key = some g → g.nodes[pNode w]? = none → exec (pkt ty) s = answered t 1) ∧
          (ty = 4 → ∀ g x u pages, tfind t.graphs key = some g → g.nodes[pNode w]? = some x → pInl x.rcd = true → (t.die home).permits (some (pPart w)) (pDom w) = true → (g.running.isSome = true ∨ g.queue = []) →
            let y := { x with rcd := patchRec x.rcd (pPoff w) (pPlen w) (pInline w) }
            let va := g.va + 512 * pNode w + 0x40 + pPoff w
            unitPages home g.dom.toNat [2] (pagesOf va (pPlen w))
              { t with graphs := tins t.graphs key { g with nodes := g.nodes.set (pNode w) y } } = (u, some pages) →
            exec (pkt ty) s = answered ((bytesOf (pPlen w) (pInline w)).zipIdx.foldl
              (fun u b => storeBytes u (pageFa pages (va + b.2)) [b.1]) u) 0) ∧
          (ty = 2 → (tget {} t.graphs key).queue = [] → (tget {} t.graphs key).running = none →
            ((t.die home).permits (some (pPart w)) (pDom w) = false → exec (pkt ty) s = answered t 5) ∧
            (∀ u u' b l, (t.die home).permits (some (pPart w)) (pDom w) = true →
              unitRead t home (pDom w) [2] (pPaddr w) (512 * pNode w) = (u, some b) → nodesOf (pNode w) b = some l →
              recordsOk home r l u = (u', true) →
              let g : Graph := { va := pPaddr w, dom := BitVec.ofNat 12 (pDom w), nodes := l }
              exec (pkt ty) s =
                if graphOk l then answered { u' with graphs := tins u'.graphs key g } 0 else answered u' 7))) ∧
        (ty = 5 → ∀ u,
          (∀ im, readImage t home (BitVec.ofNat 12 (pDom w)) (pPaddr w) = (u, some im) →
            exec (pkt ty) s = answered { u with images := tins u.images (pNum w) im } 0) ∧
          (readImage t home (BitVec.ofNat 12 (pDom w)) (pPaddr w) = (u, none) → exec (pkt ty) s = answered u 2)))) ∧
    (∀ id d c l, tfind s.launches id = some l →
      (∀ h pkg todo v wps, l.shares.find? (fun h => decide (h.die = d) && !h.placed) = some h →
        pkgOrd s l.pkgb (shapeAt l.shape 1) = some pkg → shareFirst (s.die d) l id = true →
        let ts := shareTasks (s.die d) l h.ord pkg
        let cores := (ts.map (·.1)).eraseDups
        ts.length = shapeAt l.shape 3 * shapeAt l.shape 4 * shapeAt l.shape 5 →
        (∀ c' ∈ cores, coreTakes s d c' (shapeAt l.shape 5) l id = true) →
        dealPlaces (decide (hScratch l.hdr ≠ 0)) ts wps = some todo → reserveAll l.hdr (s.die d) todo = some v →
        let v' := cores.foldl (fun v c' => v.setCore c' (resetMasks l.hdr (v.core c'))) v
        let key := 8 * l.part + l.prio
        exec (.sharePlace id d wps) s = .next
          { s.setDie d { v' with lq := tset [] v'.lq key (tget [] v'.lq key).tail } with
            launches := tins s.launches id (l.setShare d (fun h => { h with placed := true, cores := cores, todo := todo })) }) ∧
      (∀ h t' k', l.shares.find? (fun h => decide (h.die = d)) = some h → h.todo.find? (fun t => decide (t.core = c)) = some t' →
        (s.core d c).act.part = some l.part → (s.core d c).halted = false →
        createTask (s.core d c) id l t' (BitVec.ofNat 128 (copyVa (s.die d) l % 2 ^ 64 + l.params.length * 2 ^ 64)) = .ok k' →
        exec (.taskCreate id d c) s = .next { s.setCore d c k' with
          launches := tins s.launches id (l.setShare d (fun h => { h with todo := h.todo.erase t' })) }) ∧
      (launchOver s id l = false → exec (.launchComplete id) s = .next s) ∧
      (launchOver s id l = true → (∀ g i n, l.reply.src ≠ .node g i n) →
        exec (.launchComplete id) s = .next ((reply { s with launches := tdel s.launches id } l.reply 0).getD s)) ∧
      (∀ g i n, launchOver s id l = true → l.reply.src = .node g i n →
        exec (.launchComplete id) s = .next ((nodeDone { s with launches := tdel s.launches id } g i n).getD s))) ∧
    (∀ part g x rest u snap, tfind s.graphs (64 * part + g) = some x → x.running = none → x.queue = (home, r) :: rest →
      snapshot home x.nodes s = (u, some snap) →
      let p : Replay :=
        { id := u.nextReplay, home := home, reply := r, snap := snap, left := x.nodes.zipIdx.map (fun n => (n.2, n.1.dep)) }
      let y := { x with queue := rest, running := some p }
      let roots := (x.nodes.zipIdx.filter (fun n => decide (n.1.dep = 0))).map (·.2)
      exec (.replayStart part g) s = .next ((afterNodes (64 * part + g) p (launchNodes (64 * part + g) y p roots
        { u with graphs := tins u.graphs (64 * part + g) y, nextReplay := u.nextReplay + 1 })).getD s))

/-! ## Depths, renewal, slices, pre-emption, images (chapters 05, 06, 18 and 19) -/

/-- Every 64 cc a core's mk_load and mk_slice are refreshed; a context moves to the mate of least depth; a moved context is created READY in its place; the shearer clears stale tags of four granules; a stalled Alloc raises its
rate; a due region takes a fresh generation with its granules; gated banks wake; a slice that ends raises PREQ when another partition waits; the order goes to its cores when all have acknowledged; the exchange swaps a drained core's
sets; a late core is reported; a set is copied out and in; a freeze packet freezes its sender; FTHAW releases functions.
The cut into turns and the readings of log 19 are the model's (DEDUCED). -/
def Obligations.SchedulingSteps : Prop :=
  ∀ (s : State) (d c n p : Nat),
    let v := s.die d
    let k := v.core c
    let a := k.act
    (k.cyc.toNat % 64 = 0 → exec (.loadRefresh d c) s = .next (s.setCore d c { k with load := loadValue v c })) ∧
    (v.dcyc.toNat % 64 = 0 →
      (∀ x q, a.part = some q → tfind v.slices q = some x → exec (.sliceCopy d c) s =
        .next (s.setCore d c { k with running := x.running, remain := x.remain, preq := k.preq || x.preq })) ∧
      (a.part = none → exec (.sliceCopy d c) s = .next (s.setCore d c { k with running := false, remain := 0 }))) ∧
    (∀ ix tc m wp, k.cyc.toNat % 64 = 0 → k.moved ≠ some k.cyc → k.hwm.toNat < loadDepth v c → k.halted = false → a.part.isSome = true →
      (a.runq.filter (movable s k)).getLast? = some ix → storesGone k ix (a.ctx ix).inc = true → sharePending s d tc = false →
      leastOf (loadDepth v) ((List.range 96).filter (fun i => decide (i ≠ c ∧ (v.core i).act.part = a.part))) = some (tc, m) →
      m + 2 ≤ loadDepth v c → moveRoom (v.core tc) (a.ctx ix).wsz.toNat s.tick = some wp →
      exec (.balanceMove d c) s = .next (
        let t := moveCtx s d c ix tc wp
        t.setCore d c { t.core d c with moved := some k.cyc })) ∧
    (∀ pkt x regs preds wp ix, s.ready n = some pkt → pkt.body = .context x regs preds wp →
      let k' := s.core pkt.die pkt.core
      let r := (wp.toNat - 128, 128 + 16 * x.wsz.toNat)
      r ∈ k'.act.resv → freeIx k'.act = some ix → createWait k' [r] = none →
      let b := createAt { k' with act := { k'.act with resv := k'.act.resv.erase r } } ix (movedCtx x wp) regs
      exec (.contextMigrateArrival n) s = .next ((s.dropPkt n).setCore pkt.die pkt.core
        { b with act := preds.foldl (fun a q => predWrite a ix q.1 q.2.toNat) b.act })) ∧
    (n < 16 → tget 0 k.shear.pos n < 4096 → k.shear.setB = k.setB → twf {} a.pad = true →
      let at' := 4096 * n + tget 0 k.shear.pos n
      let b := shearRange a at' 4
      exec (.shearerScan d c n) s = .next (s.setCore d c { k with act := b, shear := k.shear.examined n }) ∧
      (∀ g, (tget {} b.pad g).data = (tget {} a.pad g).data) ∧
      (∀ g, ¬(at' ≤ g ∧ g < at' + 4) → tget {} b.pad g = tget {} a.pad g) ∧
      (∀ g, at' ≤ g → g < at' + 4 → (tget {} b.pad g).tag = if granStale a g (tget {} a.pad g).tag then 0 else (tget {} a.pad g).tag)) ∧
    (n < 16 → tget 0 k.shear.pos n < 4096 → k.shear.setB ≠ k.setB → exec (.shearerScan d c n) s =
      .next (s.setCore d c { k with shd := shearRange k.shd (4096 * n + tget 0 k.shear.pos n) 4, shear := k.shear.examined n })) ∧
    (k.shear.waiting = true → 4096 ≤ k.shear.stalled →
      exec (.shearForcedRate d c) s = .next (s.setCore d c { k with shear := { k.shear with forced := true } })) ∧
    (∀ ix g lo len old, liveRegion a ix g = some (lo, len, old) → inLead k.next old = true →
      leadBusy k.next (dueGens k.next a ++ dueGens k.next k.shd) a.pad = false →
      leadBusy k.next (dueGens k.next a ++ dueGens k.next k.shd) k.shd.pad = false →
      exec (.regionRenew d c false ix g) s = .next (s.setCore d c (
        { k with act := setRegionGen { a with pad := retag a.pad lo len old k.next } ix g k.next } : Core).allocDone)) ∧
    (k.wake ≠ 0 → exec (.bankWake d c) s = .next (s.setCore d c
      { k with act := { a with gated := a.gated &&& ~~~k.wake }, wake := 0 })) ∧
    (∀ x, tfind v.slices p = some x → x.running = true → x.remain = 0 → x.zeroAt ≠ some v.dcyc →
      let up := x.preq || (!x.quiet && otherWaits v p)
      let v' := v.mapPart p (fun q => { q with running := true, remain := 0, preq := q.preq || up })
      exec (.sliceExpiry d p) s = .next (s.setDie d
        { v' with slices := tins v.slices p { x with preq := up, since := if x.preq then x.since else 0 } })) ∧
    (∀ x, tfind v.slices p = some x → x.preq = true → (∃ q ∈ v.cores, q.2.act.part = some p) →
      (∀ q ∈ v.cores, q.2.act.part = some p → q.2.preq = true ∧ q.2.pack = true) →
      exec (.preemptOrder d p) s = .next (s.setDie d (v.mapPart p (fun q => { q with ordered := true })))) ∧
    (k.swap = .draining → drainedCore k = true →
      let u := unformed s d c
      let t := u.setDie d (exchange (u.die d) c)
      exec (.shswapExchange d c) s = .next t ∧
      let k' := t.core d c
      k'.swap = .done ∧ k'.setB = !k.setB ∧ k'.pack = false ∧ k'.preq = false ∧ k'.stopped = false ∧
      k'.shd.pad = a.pad ∧ k'.shd.acc = a.acc ∧ k'.act.pad = k.shd.pad ∧ k'.act.ctxs = k.shd.ctxs ∧ k'.act.acc = k.shd.acc) ∧
    (∀ x q, a.part = some q → tfind v.slices q = some x → x.preq = true → 2 ^ 20 ≤ x.since → k.pack = false → c < 96 → x.late.getLsbD c = false →
      exec (.preemptLate d c) s = .next
        ((s.setDie d { v with slices := tins v.slices q { x with late := x.late ||| (1#96 <<< c) } }).report d 6 c)) ∧
    (∀ q t fas, k.shd.part = some q → savable k.shd = true → tfind v.saved (128 * q + c) = none →
      imagePages d (saveVa v q + imageSize * c) (List.range 23) s = (t, some fas) →
      let t1 := (k.shd.lines.map (·.1)).foldl (fun t f => castOutShadow t d c f) t
      let b := (t1.core d c).shd
      let t2 := fas.zipIdx.foldl (fun t q => putPage b t1 (65536 * q.2) q.1 t) t1
      exec (.copyOut d c) s = .next ((t2.setDie d { t2.die d with
          saved := tins (t2.die d).saved (128 * q + c) { set := { b with pad := [], acc := [] } } }).setCore d c
        { t2.core d c with shd := emptied b })) ∧
    (∀ img x t fas, tfind v.saved (128 * p + img) = some x → k.shd.part = none → k.shd.anyLive = false → partCore (v.part p) c = true →
      imagePages d (saveVa v p + imageSize * img) (List.range 23) s = (t, some fas) →
      let t' := (List.range 64).foldl (placeRestored d c) (t.setCore d c { t.core d c with
        shd := { x.set with pad := imagePad t fas, acc := imageAcc t fas, part := some p, lines := [] } })
      let k' := t'.core d c
      let keys := k'.shd.regionKeys
      let g := drawGens (t.core d c) x.drawn (keys.length - x.drawn.length)
      (g.2.length < keys.length → exec (.copyIn d c p img) s = .next ((t.setDie d { t.die d with
        saved := tins (t.die d).saved (128 * p + img) { x with drawn := g.2 } }).setCore d c g.1)) ∧
      (keys.length ≤ g.2.length →
        let r := renewAll k'.shd [] keys g.2
        let t2 := t'.setCore d c { k' with shd := x.held.foldl setUpd (keepTags r.1 r.2), next := g.1.next, shear := g.1.shear }
        exec (.copyIn d c p img) s =
          .next (t2.setDie d { t2.die d with saved := tdel (t2.die d).saved (128 * p + img) }))) ∧
    (∀ pkt who tdom addr, s.ready n = some pkt → pkt.body = .freeze who tdom addr →
      exec (.freezePacket n) s = .next (freezeSender (s.dropPkt n) who tdom.toNat addr.toNat)) ∧
    (∀ w, exec (.fthawWrite d w) s = .next { s with fnFrz := s.fnFrz &&& ~~~(w.setWidth 16) }) ∧
    (∀ w : BitVec 512, p < 64 →
      ((partLive v p = true ∨ 8 < partNdom w) → exec (.partitionWrite d p w) s = .next (s.report d 5 p)) ∧
      (partLive v p = false → partNdom w ≤ 8 →
        let r : BitVec 512 := (w >>> 268) <<< 268
        let v' := (List.range 96).foldl (fun v j => v.setCore j ((v.core j).belong p (partCore r j))) { v with parts := tset 0 v.parts p r }
        let t := s.setDie d (syncSlices v')
        exec (.partitionWrite d p w) s = .next t ∧ (t.die d).part p = r ∧ ∀ q, q ≠ p → (t.die d).part q = v.part q))

/-! ## Droves, frames, migration, join arrivals (chapters 14 and 16) -/

/-- A due queue's streams become one task and are DROVED, or the drover counts that it could not place them; a residency entry is replaced and rejects queued streams; the cascade frees frames; a frame moves between tiers and every entry follows; a
migration freezes its source, pulls its frames and switches; an arrival at the join unit is answered and counted, the last one completes the group; a child's result is added; a descent goes on; a pruned stream is freed.
The cut into turns and the readings of log 17 are the model's (DEDUCED). -/
def Obligations.StreamJoinSteps : Prop :=
  ∀ (s : State) (d e n m : Nat) (pkt : Packet) (x : Migration),
    let v := s.die d
    let r := v.res e
    let q := tget [] v.dq e
    let st := arrivalStatus s
    (droveDue r q = true → (freeList s v = none ∨ nextQuad v e r = none) → exec (.droveDispatch d e) s = .next (s.setDie d (v.count 0x0A))) ∧
    (∀ buf quad, droveDue r q = true → freeList s v = some buf → nextQuad v e r = some quad →
      arrivalRoom (v.core (shallowCore v quad)) = true →
      let l := (q.take 256).map (·.1)
      l.find? (fun i => (s.stream d i).bad) = none →
      let k := v.core (shallowCore v quad)
      let arr := Arrival.drove (BitVec.ofNat 57 (resHip r)) (droveW0 v buf l.length (v.stream (l.headD 0)).cur.toNat e)
          (s.streamHandle d (l.headD 0)) (BitVec.ofNat 3 (resPrio r)) (BitVec.ofNat 12 (resDom r))
      let u := droveMembers { v with rr := tset 0 v.rr e ((quad + 1) % 24) } buf l
      let t := l.foldl (stageNext d) (s.setDie d (u.setCore (shallowCore v quad) { k with arr := k.arr ++ [arr] }))
      exec (.droveDispatch d e) s = .next (storeBytes t (spReg (t.die d) 0x98 + 1024 * buf)
        (l.flatMap (fun i => bytesOf 4 (s.streamHandle d i).toNat))) ∧
      ∀ i ∈ l, (u.stream i).st = .droved ∧ (u.stream i).drove = some buf) ∧
    (∀ w : BitVec 128, e < 4096 → exec (.residencyWrite d e w) s = .next (s.setDie d (setResidency v e w)) ∧
      (q = [] → exec (.residencyWrite d e w) s = .next (s.setDie d { v with resid := tset 0 v.resid e ((w.setWidth 125).setWidth 128) }))) ∧
    (v.cascade = [] → exec (.frameCascade d) s = .next s) ∧
    (exec (.frameCascade d) s = .next (cascadeEntries d 16 s)) ∧
    (∀ tier node frame toTier toFrame f, tfind v.frames (tier * 2 ^ 61 + b2n node * 2 ^ 60 + frame) = some f →
      tier < 3 → toTier < 3 → frame < 2 ^ 32 → f.rpins = 0 → f.wpins = 0 → f.going = false → toFrame < poolCount v toTier node →
      tfind v.frames (toTier * 2 ^ 61 + b2n node * 2 ^ 60 + toFrame) = none →
      let key := tier * 2 ^ 61 + b2n node * 2 ^ 60 + frame
      let dest := toTier * 2 ^ 61 + b2n node * 2 ^ 60 + toFrame
      let old := entryOf key
      let new := entryOf dest
      let y : State := copyFrame s (frameFa v old) (frameFa v new) (frameBytes node)
      let u : Die := (v.setFrame key {}).setFrame dest f
      let u' : Die := { u with streams := u.streams.map (fun p => (p.1, { p.2 with
        staged := p.2.staged.filterMap (fun q => if q.1 ≠ key then some q else if toTier = 2 then some (dest, q.2) else none)
        croot := if p.2.croot = old then new else p.2.croot, oroot := if p.2.oroot = old then new else p.2.oroot
        pen := if p.2.pen = old then new else p.2.pen, penc := if p.2.penc = old then new else p.2.penc })) }
      exec (.tierMove d tier node frame toTier toFrame) s = .next
        (((u'.frames.filter (fun g => decide (g.1 / 2 ^ 60 % 2 = 1))).map (·.1)).foldl (fun t g => renode t d old new g) (y.setDie d u')) ∧
      (dest ≠ key → u'.frame dest = f ∧ u'.frame key = {})) ∧
    (tfind s.migs m = some x → (faPkg x.dst = s.pkg.toNat → homeFree s x.dst = true) →
      (∀ sd si, x.frozen = false → s.streamOf x.h = some (sd, si) →
        let y := s.stream sd si
        (∀ w, streamError s sd si true = some w → exec (.migrationPull m) s = .next (failMigration (loseStream s sd si w) m x 1)) ∧
        (streamError s sd si true = none →
        (y.st = .migrating → exec (.migrationPull m) s = .next (failMigration s m x 4)) ∧
        (y.st ≠ .migrating → (y.st = .droved ∨ y.st = .waitPage ∨ y.spec = true) →
          exec (.migrationPull m) s = .next (failMigration s m x 6)) ∧
        (y.st ≠ .migrating → y.st ≠ .droved → y.st ≠ .waitPage → y.spec = false → y.wpins = 0 → y.posting = false →
          exec (.migrationPull m) s = .next (
            let t := s.setDie sd ((dqDrop (s.die sd) si).setStream si { y with st := .migrating, pst := y.st })
            { t with migs := tins t.migs m { x with frozen := true } })))) ∧
      (∀ sd si, x.frozen = true → x.di = none → s.streamOf x.h = some (sd, si) → x.die < 12 → x.pkg = s.pkg.toNat →
        s.unreachable x.pkg = false → s.allocStream x.die = none → exec (.migrationPull m) s = .next (failMigration s m x 2)) ∧
      (∀ sd si di t root t2 page t3, x.frozen = true → x.di = none → s.streamOf x.h = some (sd, si) → x.die < 12 → x.pkg = s.pkg.toNat →
        s.unreachable x.pkg = false → s.allocStream x.die = some (di, t) → pullTree sd x.die 2 (s.stream sd si).croot t = .ok (t2, root) →
        pullTree sd x.die 0 (s.stream sd si).pen t2 = .ok (t3, page) → exec (.migrationPull m) s = .next (
          let u := t3.modStream x.die di (fun z => { z with croot := root, pen := page })
          { u with migs := tins u.migs m { x with di := some di } })) ∧
      (∀ sd si di, x.di = some di → x.pkg = s.pkg.toNat → s.streamOf x.h = some (sd, si) →
        exec (.migrationSwitch m) s = .next (
          let y := s.stream sd si
          let z := s.stream x.die di
          let t := (s.setStream x.die di { y with gen := z.gen, croot := z.croot, pen := z.pen, oroot := 0, penc := 0, tb := 0, drove := none,
                                                  posting := false, wpins := 0, staged := [], st := .idle }).setSt x.die di y.pst
          let h := (s.setStream x.die di { y with gen := z.gen }).streamHandle x.die di
          freeStream (forwardPrunes (releaseHeld (endMigration t m x h 0) x.h (some h)) x.h h) sd si))) ∧
    (s.ready n = some pkt →
      (∀ g w key stream who, pkt.body = .post g w key stream who → exec (.joinArrival n) s = .next (
        let t := groupGood (s.dropPkt n) g
        let r := arrivalStatus t g (some pkt.src.dom)
        answerPost (if r = 0 then arrive t g (fun vt => [{ v := valOf vt w, key := key, stream := stream }]) else t) who r 0)) ∧
      (∀ g w key stream who gd gi, pkt.body = .post g w key stream who → (s.pend who).ask = .post → s.groupOf g = some (gd, gi) →
        (s.group gd gi).bad = false → st g (some pkt.src.dom) = 0 → (s.group gd gi).arr + 1 ≠ (s.group gd gi).count →
        exec (.joinArrival n) s = .next (
          let y := s.group gd gi
          let t := (s.dropPkt n).setGroup gd gi
            { y with arr := y.arr + 1, cands := y.cands ++ [{ v := valOf y.vt w, key := key, stream := stream }] }
          t.setPend who { t.pend who with status := some 0 })) ∧
      (∀ g close who, pkt.body = .get g close who → exec (.joinArrival n) s = .next (
        let r : State × Nat := groupRead (s.dropPkt n) g close pkt.src.dom
        answerPost r.1 who 0 r.2)) ∧
      (∀ parent child cs, pkt.body = .child parent child cs → exec (.childResultArrival n) s = .next (
        let t := groupGood (s.dropPkt n) parent
        if arrivalStatus t parent none = 0 then arrive t parent (fun _ => cs) else childLost t pkt.die parent child)) ∧
      (∀ g t gd gi, pkt.body = .descent g t → s.groupOf g = some (gd, gi) → (s.group gd gi).st = .descent →
        (s.group gd gi).bad = false → (s.group gd gi).ending = false → (s.group gd gi).spent = false →
        exec (.descentStep n) s = .next (descend (s.dropPkt n) gd gi (t.map (fun w => (w.dyadic).getD (0, 0))))) ∧
      (∀ h g sd si, pkt.body = .prune h g → s.streamOf h = some (sd, si) →
        (∀ w, streamError s sd si false = some w →
          exec (.joinPrune n) s = .next (pruneAnswered (loseStream (s.dropPkt n) sd si w) g true)) ∧
        (streamError s sd si false = none → exec (.joinPrune n) s = .next (if (s.stream sd si).st = .migrating then s
          else pruneAnswered (freeStream (s.dropPkt n) sd si) g true))) ∧
      (∀ h g, pkt.body = .prune h g → s.streamOf h = none →
        exec (.joinPrune n) s = .next (pruneAnswered (s.dropPkt n) g false)))

/-! ## The fabric, the host, integrity and management (chapters 20, 21 and 25) -/

/-- A packet takes one hop toward its die in class order; an evicted packet is sent again; a delivered one is forgotten by its source; an aged one goes first; a corrected flit or a worn lane is counted, repaired or takes the port down; links
come up and go down with a report; a spare channel is taken and counted; the rate window ends; BAR 4 reads and writes the window, or answers Unsupported Request; configuration answers by the start-up; the post box takes the oldest record; its control
register starts the ring; a register without behaviour of its own is written.
The cut into turns and the readings of log 20 and 21 are the model's (DEDUCED). -/
def Obligations.FabricHostSteps : Prop :=
  ∀ (s : State) (d n port fn off : Nat) (pkt : Packet),
    let v := s.die d
    (s.pkt n = some pkt → pkt.evicted = false →
      (outranked s pkt = true → exec (.packetRoute n none) s = .next s) ∧
      (outranked s pkt = false →
        (pkt.loc = exitDie s pkt → pkt.pkg = s.pkg.toNat → exec (.packetRoute n none) s = .next s) ∧
        (pkt.loc ≠ exitDie s pkt →
          (s.die pkt.loc).downPorts.contains (hopPort pkt.loc (nextDie pkt.loc (exitDie s pkt)) pkt.core) = false →
          exec (.packetRoute n none) s = .next { s with net := s.net.map (fun q => if q.id = pkt.id then
            { q with loc := nextDie pkt.loc (exitDie s pkt), via := hopPort (nextDie pkt.loc (exitDie s pkt)) pkt.loc pkt.core, waited := 0 } else q) }) ∧
        (∀ m, victimOk s pkt m = true → exec (.packetRoute n (some m)) s =
          .next (hop { s with net := s.net.map (fun q => if q.id = m then { q with evicted := true } else q) } pkt)) ∧
        (pkt.loc = exitDie s pkt → pkt.pkg ≠ s.pkg.toNat → s.unreachable pkt.pkg = false →
          exec (.packetRoute n none) s = .next (depart (s.dropPkt pkt.id) pkt)) ∧
        (pkt.loc = exitDie s pkt → pkt.pkg ≠ s.pkg.toNat → s.unreachable pkt.pkg = true →
          exec (.packetRoute n none) s = .next (discard (s.dropPkt pkt.id) (exitDie s pkt) pkt))) ∧
      (headOfClass s pkt = true → 1024 ≤ pkt.waited → exec (.classAging n) s = .next (hop s pkt))) ∧
    (∀ x y, x < 12 → y < 12 → x ≠ y → nextDie x y < 12 ∧ nextDie x y ≠ x ∧
      (x % 4 ≠ y % 4 → nextDie x y / 4 = x / 4) ∧ (x % 4 = y % 4 → nextDie x y % 4 = x % 4)) ∧
    (exec (.evictionNotice n) s = .next { s with net := s.net.map (fun q =>
      if q.id = n ∧ q.evicted = true then { q with evicted := false, loc := q.src.die, via := 0, waited := 0 } else q) }) ∧
    (s.pkt n = none → exec (.endToEndAck n) s = .next { s with kept := s.kept.filter (fun k => decide (k ≠ n)) }) ∧
    (∀ k lane, isPort d k = true → lane < 256 →
      (let u := corrected s d k
       let key := 256 * k + lane
       exec (.flitReplay d k lane) s = .next (u.setDie d { u.die d with
          replays := tset 0 (u.die d).replays key (tget 0 (u.die d).replays key + 1)
          laneErr := tset 0 (u.die d).laneErr key (tget 0 (u.die d).laneErr key + 1) }) ∧
        fld ((u.die d).err d k) 31 0 = Nat.min 0xFFFFFFFF (fld (v.err d k) 31 0 + 1)) ∧
      (laneWorn v (256 * k + lane) = false → exec (.laneRetrain d k lane) s = .next s) ∧
      (laneWorn v (256 * k + lane) = true →
        let key := 256 * k + lane
        let u := (takeSpare s d k).1
        let w := u.die d
        let t := u.setDie d { w with replays := tset 0 w.replays key 0, laneErr := tset 0 w.laneErr key 0 }
        (v.spares d k ≠ 0 → exec (.laneRetrain d k lane) s = .next t ∧ (t.die d).spares d k = v.spares d k - 1 ∧ t.up = s.up) ∧
        (v.spares d k = 0 → exec (.laneRetrain d k lane) s = .next (
          let w := t.die d
          let t' := t.setDie d { w with downPorts := if w.downPorts.contains k then w.downPorts else w.downPorts ++ [k] }
          if 162 ≤ k ∧ s.up.getLsbD (k - 162) = true then setLink t' (k - 162) false else t')))) ∧
    (n < 6 →
      (s.up.getLsbD n = false → 3 ≤ s.boot → exec (.linkUp n) s = .next (setLink s n true) ∧
        (5 ≤ s.boot → setLink s n true = ({ s with up := s.up ||| (1#6 <<< n) } : State).report (lamongDie n) 11 (n + 256))) ∧
      (s.up.getLsbD n = true → exec (.linkDown n) s = .next (setLink s n false) ∧
        (5 ≤ s.boot → setLink s n false = ({ s with up := s.up &&& ~~~(1#6 <<< n) } : State).report (lamongDie n) 11 n))) ∧
    (∀ key, d < 12 → n < 2 → wornChannel v n = some key →
      exec (.hbmChannelSpare d n) s = .next (takeSpare (s.setDie d { v with rowErr := tset 0 v.rowErr key 0 }) d (128 + n)).1) ∧
    (∀ t, v.failAt = some t → 2 ^ 24 ≤ (v.dcyc - t).toNat → exec (.rateWindow d) s = .next (s.setDie d { v with failAt := none })) ∧
    (port < 2 → fn < 8 →
      (∀ bytes relaxed, fnFrozen s port fn = false →
        (bar4Ok s port fn off bytes.length = false →
          exec (.bar4Write port fn off bytes relaxed) s = .next (
            let t := { s with hostOut := s.hostOut ++ [.unsupported port fn] }
            if off + bytes.length ≤ bar4Len s port fn then t else freezeFn t port fn 0xFFF (bar4Base s port fn + off))) ∧
        (bar4Ok s port fn off bytes.length = true →
          (∀ i, i < bytes.length → homeFree s (bar4Base s port fn + off + i) = true) →
          exec (.bar4Write port fn off bytes relaxed) s = .next (storeBytes s (bar4Base s port fn + off) bytes))) ∧
      (fnFrozen s port fn = true → exec (.bar4Read port fn off n) s = .next { s with hostOut := s.hostOut ++ [.abort port fn] }) ∧
      (fnFrozen s port fn = false → bar4Ok s port fn off n = true → s.badWord (bar4Base s port fn + off) n = none → exec (.bar4Read port fn off n) s = .next { s with hostOut :=
        s.hostOut ++ [.data port fn ((List.range n).map (fun i => memGet s.mem (bar4Base s port fn + off + i)))] }) ∧
      (∀ w, fnFrozen s port fn = false → bar4Ok s port fn off n = true → s.badWord (bar4Base s port fn + off) n = some w →
        exec (.bar4Read port fn off n) s = .next (bar4Bad s port fn w)) ∧
      exec (.configRequest port fn) s = .next { s with hostOut :=
        s.hostOut ++ [if s.boot < 5 then .retry port fn else .configured port fn (2 ^ 36)] }) ∧
    (∀ r rest, v.reports = r :: rest → s.postBox.en = true → s.postBox.full = false →
      exec (.postRecord d) s = .next { s.setDie d { v with reports := rest } with
        host := memWrite s.host (s.postBox.base.toNat + 64 * (s.postBox.seq.toNat % s.postBox.ring)) 64 (postBytes s d r)
        postBox := { s.postBox with seq := s.postBox.seq + 1, lost := 0 }
        msix := if fnFrozen s 0 0 then s.msix else s.msix ++ [(0, 0, s.postBox.vec.toNat)] }) ∧
    (∀ w : W64, fnFrozen s 0 0 = false →
      let q := s.postBox
      let size := if fld w 11 8 ≤ 10 then BitVec.ofNat 4 (fld w 11 8) else q.size
      let q' := { q with vec := BitVec.ofNat 5 (fld w 20 16), size := size, en := w.getLsbD 0 }
      (q.en = false → w.getLsbD 0 = true →
        exec (.pbctlWrite w) s = .next (reportPorts { s with postBox := { q' with seq := 0, rd := 0 } })) ∧
      (q.en = true → w.getLsbD 0 = true → exec (.pbctlWrite w) s = .next (reportPorts { s with postBox := q' })) ∧
      (w.getLsbD 0 = false → exec (.pbctlWrite w) s = .next { s with postBox := q' })) ∧
    (∀ w : BitVec 256, fnFrozen s 0 0 = false →
      exec (.registerWrite (.bar0 0x10) w) s = .next { s with postBox := { s.postBox with rd := w.setWidth 32 } } ∧
      exec (.registerWrite .cxlMode w) s = .next { s with cxlMode := true }) ∧
    (∀ q (w : BitVec 256), q < 24 → exec (.registerWrite (.keeper d q) w) s =
      .next (s.setDie d { v with keepers := tins v.keepers q (fld w 15 0) }))

/-- A trip or a supply fault holds every die in reset and records its cause; a module reset starts Dilvoac, counts the start and applies the staged images, then starts the rest in order; a die reset replaces failed cores; a core failure takes the core out of
service; a measurement decides on the cap; Dilvoac answers telemetry, attestation, staging, key, debug and control requests.
What Dilvoac's opaque functions answer is free (log 9); what memory holds after a trip or a reset is the model's choice (log 10); the other readings are log 21 (DEDUCED). -/
def Obligations.ManagementSteps : Prop :=
  ∀ (s : State) (d p power temp : Nat) (m : MctpMsg),
    let v := s.die d
    let sent := fun (t : State) (x : MctpOut) => Host.Outcome.next (ρ := Refusal) (φ := Fault) { t with dil := { t.dil with out := t.dil.out ++ [x] } }
    let dies := if 2 ≤ s.boot then (List.range 12).filter (fun j => m.dies.getLsbD j) else []
    (∀ coolant, let t := tripped s (if coolant then .coolant else .junction)
      exec (.thermalTrip coolant) s = sent t (.thermal (if coolant then .coolant else .junction)) ∧ t.boot = 0 ∧
      t.dil.trip = some (if coolant then .coolant else .junction) ∧ t.dil.boots = s.dil.boots ∧ t.host = s.host ∧ t.debug = false ∧
      (∀ j, (t.die j).streams = [] ∧ (t.die j).keys = [])) ∧
    (exec .supplyFault s = .next (tripped s .supply)) ∧
    ((s.boot = 0 ∨ 5 ≤ s.boot) →
      let t : State := { heldState s 1 with dil := { s.dil with
        boots := s.dil.boots + 1, trip := none, staged := [], images := s.dil.staged.foldl (fun t p => tins t p.1 p.2) s.dil.images } }
      exec .moduleReset s = .next t ∧ t.boot = 1 ∧ t.debug = false ∧ t.fnFrz = 0) ∧
    (s.boot = 1 → exec .moduleReset s = .next ((List.range 12).foldl bringDie { s with boot := 2 })) ∧
    ((s.boot = 2 ∨ s.boot = 3 ∨ s.boot = 4) → exec .moduleReset s = .next { s with boot := s.boot + 1 }) ∧
    (d < 12 → exec (.dieReset d) s = .next
        (bringDie { s.setDie d (coldDie d v) with mem := lostSram s.mem (fun e => decide (e = d)) } d) ∧
      (∀ c, logicalOf v p = some c → (v.core c).failed = false → exec (.coreFailure d p) s = .next
        (integrityReport (s.setCore d c { v.core c with failed := true }) d 2 3 p 0))) ∧
    (v.dcyc ≠ 0 → v.dcyc.toNat % 4096 = 0 → v.measured ≠ some v.dcyc →
      let w := { v with power := (BitVec.ofNat 32 power :: v.power).take 16, temp := BitVec.ofNat 16 temp, measured := some v.dcyc }
      let cap := fld (v.reg 0x60008) 31 0
      exec (.powerMeasure d power temp) s = .next (s.setDie d { w with capped :=
        if cap < w.meanPower ∨ 800 ≤ w.temp.toNat then true else if w.meanPower < cap then false else v.capped })) ∧
    ((m.i3c = true ∨ (3 ≤ s.boot ∧ fnFrozen s 0 0 = false)) →
      exec (.mctpTelemetry m) s = sent s (.telemetry m.i3c (dies.map (fun j => (j, (s.die j).telem)))) ∧
      (let body := [0x44, 0x56, 0x41, 0x52, 1, 0, 0, 0] ++ bytesOf 32 m.nonce.toNat ++ bytesOf 8 s.dil.boots.toNat ++
          (List.range 3).flatMap (fun j => bigBytes 48 ((tfind s.dil.images j).getD (Config.imageDigest j)).toNat)
       let h := sha384 body
       exec (.mctpAttestation m) s = sent s (.report m.i3c
        (body ++ bigBytes 96 (ecSign Config.identityKey (Config.identityNonce h.toNat) h).toNat))) ∧
      (exec (.mctpImageStage m) s = if m.image ≠ 3 ∧ ecVerify Config.imageKey (sha384 m.data) m.signature = true then
          sent { s with dil := { s.dil with staged := tins s.dil.staged m.image.toNat (sha384 m.data) } } (.done m.i3c true)
        else sent s (.done m.i3c false)) ∧
      (dies = [d] → exec (.mctpKeyLoad m) s =
        sent (s.setDie d { v with keys := tins v.keys m.keySlot.toNat (m.dom, m.key) }) (.done m.i3c true)) ∧
      (∀ k, dies = [d] → tfind v.keys m.keySlot.toNat = some k → exec (.mctpKeyClear m) s =
        sent (if k.1 = m.dom then s.setDie d { v with keys := tdel v.keys m.keySlot.toNat } else s) (.done m.i3c true)) ∧
      (let ok := ecVerify Config.debugKey (sha384 m.data) m.signature
       exec (.mctpDebugAuth m) s = sent { s with debug := s.debug || ok } (.done m.i3c ok)) ∧
      (exec (.mctpDebugRevoke m) s = sent { s with debug := false } (.done m.i3c true)) ∧
      (m.msgType = 0 → exec (.mctpControl m) s = sent s (.control m.i3c m.cmd (Config.mctpSupports m.cmd))))


/-! ## What instructions leave unchanged -/

/-- An instruction whose result goes to registers (arithmetic, comparison, conversion, moves, control flow, paddock and global loads, atomics)
changes nothing in the machine but its own context and slot, however it ends: of the paddock, the granules of its destination
registers; %fpc only where it raises flags, and then only the sticky ones; an LDG also the address under which a cached line is found, and a
context that consumes an uncorrected error is frozen and reported. -/
def Obligations.FrameRegisterOps : Prop :=
  ∀ (i : Instr) (s u : State) (e : Env) (gs : List Nat),
    s.env? = some e → granTargets (s.ctx e) i = some gs → exec i s = .next u →
    OnlyContext s u e ∧ ((∀ d t, i ≠ .ldg d t) → (u.act e.d e.c).lines = (s.act e.d e.c).lines) ∧ OnlyGranules s u e gs ∧
    (mayRaise i = false → (u.ctx e).fpc = (s.ctx e).fpc) ∧ (u.ctx e).fpc &&& 0x7E0 = (s.ctx e).fpc &&& 0x7E0

/-- ST changes no granule but those of its enabled registers' bytes, at the address its operands give, and reads of every other byte in the region give
what they gave before; without an enabled register, or when a check fails, no granule changes. SCAT likewise, byte by byte, for elements in one region. STA stores to the accumulator, where the words it writes whole are good again, and
changes no granule. -/
def Obligations.FramePaddockStores : Prop :=
  (∀ (s u : State) (e : Env) (d : BitVec 7) (t : TailM),
    let a := s.act e.d e.c
    let a' := u.act e.d e.c
    let ks := mEnabled a (s.ctx e) t
    let m := Nat.min (2 ^ t.sz.toNat) 16
    s.env? = some e →
    (exec (.st d t) s = .next u →
      OnlyContext s u e ∧ (u.ctx e).fpc = (s.ctx e).fpc ∧
      (∀ ea gen, mEa a e.ix t = .ok ea → ldstCheck a (s.ctx e) true ea m ks = .ok gen →
        (∀ g, (∀ k ∈ ks, g < (ea + 16 * k) / 16 ∨ (ea + 16 * k + m - 1) / 16 < g) → tget {} a'.pad g = tget {} a.pad g) ∧
        (∀ c, (∀ k ∈ ks, c < ea + 16 * k ∨ ea + 16 * k + m ≤ c) → padBytes a'.pad gen c 1 = padBytes a.pad gen c 1)) ∧
      ((ks = [] ∨ faulted (u.ctx e)) → OnlyGranules s u e [])) ∧
    (exec (.sta d t) s = .next u →
      OnlyContext s (u.setAct e.d e.c { a' with acc := a.acc, accBad := a.accBad }) e ∧ (u.ctx e).fpc = (s.ctx e).fpc ∧ OnlyGranules s u e [] ∧
      (∀ ea, mEa a e.ix t = .ok ea → ∀ c, (∀ k ∈ ks, c < ea + 16 * k ∨ ea + 16 * k + m ≤ c) → memGet a'.acc c = memGet a.acc c) ∧
      (∀ w, w ∈ a'.accBad → w ∈ a.accBad) ∧
      (∀ ea, mEa a e.ix t = .ok ea → ∀ w ∈ a.accBad, (∀ k ∈ ks, 16 * w < ea + 16 * k ∨ ea + 16 * k + m < 16 * w + 16) → w ∈ a'.accBad) ∧
      ((ks = [] ∨ faulted (u.ctx e)) → a'.acc = a.acc ∧ a'.accBad = a.accBad))) ∧
  (∀ (s u : State) (e : Env) (d : BitVec 7) (t : TailV) (v : W128) (ks : Nat → Nat),
    let a := s.act e.d e.c
    let a' := u.act e.d e.c
    let w := tyBits t.ty.toNat
    let on := (List.range (shElems t.sh.toNat w)).filter (fun j => (predRead a (s.ctx e) t.p.toNat).testBit (j * w / 8) != t.pn)
    let at' := fun j => fld v 63 0 + ks j * 2 ^ (t.f.toNat % 8)
    s.env? = some e → exec (.scat d t) s = .next u →
    OnlyContext s u e ∧ (u.ctx e).fpc = (s.ctx e).fpc ∧ (faulted (u.ctx e) → OnlyGranules s u e []) ∧
    (Reads s e t.b v → (∀ j ∈ on, elemRead a e.ix t.c w j = .ok (ks j)) →
      OnlyGranules s u e (on.map (fun j => at' j / 16)) ∧
      (∀ gen, (∀ j ∈ on, ∃ q, (s.ctx e).regionOf (at' j) (w / 8) = some q ∧ ((s.ctx e).region q).2.2 = gen) →
        ∀ c, (∀ j ∈ on, c < at' j ∨ at' j + w / 8 ≤ c) → padBytes a'.pad gen c 1 = padBytes a.pad gen c 1)))

/-- STG and RED change nothing but their own context and slot, the address under which a cached line is found, and the core's store buffer, to which they
add at most one entry at its end, with the address their operands give; registers, the paddock and every byte of memory stay. -/
def Obligations.FrameGlobalStores : Prop :=
  ∀ (s u : State) (e : Env) (d : BitVec 7) (t : TailM) (i : Instr),
    let k := s.core e.d e.c
    let k' := u.core e.d e.c
    (i = .stg d t ∨ i = .red d t) → s.env? = some e → exec i s = .next u →
    OnlyContext s (u.setCore e.d e.c { k' with sb := k.sb, sbSeq := k.sbSeq }) e ∧ OnlyGranules s u e [] ∧
    (u.ctx e).fpc = (s.ctx e).fpc ∧ u.mem = s.mem ∧ u.host = s.host ∧ u.pool = s.pool ∧
    (k'.sb = k.sb ∨ ∃ x ea, k'.sb = k.sb ++ [x] ∧ mEa k.act e.ix t = .ok ea ∧ x.va = ea ∧ x.ix = e.ix ∧ x.hart = false)

/-- A store that performs at its home writes its bytes and no others: every other byte of the line keeps the value the line had (a dirty copy is
written back first), every other line keeps its value, and no directory lists a copy of the line any more. -/
def Obligations.StoresPerform : Prop :=
  ∀ (s : State) (fa : Nat) (bs : List Byte), fa % 64 + bs.length ≤ 64 →
    let u := storeBytes s fa bs
    (∀ q, q / 64 ≠ fa / 64 → lineValue u q = lineValue s q ∧ memGet u.mem q = memGet s.mem q) ∧
    (∀ k, k < 64 → byteAt (lineValue u fa).toNat k =
      if fa % 64 ≤ k ∧ k < fa % 64 + bs.length then (bs.getD (k - fa % 64) 0).toNat else byteAt (lineValue s fa).toNat k) ∧
    (bs ≠ [] → (u.dirOf fa).copies = [])
end

