-- ==== Sys2Proof/Laws/Encoding.lean ====
section
/-! SUPPORT. What encoding and decoding do to the fields of heads, tails and custom-0 words. -/

namespace Sys2Proof

open Machine

theorem extract_self {a : Nat} (x : BitVec a) (s : Nat) (h : s = 0) : x.extractLsb' s a = x := by
  subst h; apply BitVec.eq_of_getLsbD_eq; intro i hi
  simp [hi]
theorem extract_append_lo {a b : Nat} (x : BitVec a) (y : BitVec b) (s n : Nat) (h : s + n ≤ b) :
    (x ++ y).extractLsb' s n = y.extractLsb' s n := by
  apply BitVec.eq_of_getLsbD_eq; intro i hi
  simp [BitVec.getLsbD_append, hi]; intro h2; omega
theorem extract_append_up {a b : Nat} (x : BitVec a) (y : BitVec b) (s n : Nat) (h : b ≤ s) :
    (x ++ y).extractLsb' s n = x.extractLsb' (s - b) n := by
  apply BitVec.eq_of_getLsbD_eq; intro i hi
  have : ¬ (s + i < b) := by omega
  simp [BitVec.getLsbD_append, hi, this]; congr 1; omega
theorem getLsbD_extract {a : Nat} (x : BitVec a) (i : Nat) : x.getLsbD i = (x.extractLsb' i 1).getLsbD 0 := by simp
theorem getLsbD_ofBool0 (b : Bool) (x : BitVec 1) (h : x = BitVec.ofBool b) : x.getLsbD 0 = b := by subst h; cases b <;> rfl
/-- A field as the number of an extracted part. -/
theorem fld_eq_extract {n : Nat} (w : BitVec n) (hi lo : Nat) : fld w hi lo = (w.extractLsb' lo (hi + 1 - lo)).toNat := by
  simp [fld, BitVec.extractLsb'_toNat]
theorem mod_eq_extract {n : Nat} (w : BitVec n) (k : Nat) : w.toNat % 2 ^ k = (w.extractLsb' 0 k).toNat := by
  simp [BitVec.extractLsb'_toNat]

theorem TailS.ex_bits (t : TailS) (s n : Nat) :
    BitVec.extractLsb' s n t.bits = @BitVec.extractLsb' (7+7+2) s n (t.b ++ t.c ++ t.w) := rfl
/-- The fields of a tail come back. -/
theorem TailS.of_bits (t : TailS) : TailS.of t.bits = t := by
  cases t
  simp only [TailS.of, TailS.mk.injEq]
  refine ⟨?_, ?_, ?_⟩ <;>
  first
  | (rw [TailS.ex_bits]
     repeat (first | exact extract_self _ _ (by decide) | rw [extract_append_up _ _ _ _ (by decide)] | rw [extract_append_lo _ _ _ _ (by decide)]))
  | (rw [getLsbD_extract, TailS.ex_bits]
     refine getLsbD_ofBool0 _ _ ?_
     repeat (first | exact extract_self _ _ (by decide) | rw [extract_append_up _ _ _ _ (by decide)] | rw [extract_append_lo _ _ _ _ (by decide)]))

theorem TailV.ex_bits (t : TailV) (s n : Nat) :
    BitVec.extractLsb' s n t.bits = @BitVec.extractLsb' (7+7+5+2+3+1+7) s n (t.b ++ t.c ++ t.ty ++ t.sh ++ t.p ++ BitVec.ofBool t.pn ++ t.f) := rfl
/-- The fields of a tail come back. -/
theorem TailV.of_bits (t : TailV) : TailV.of t.bits = t := by
  cases t
  simp only [TailV.of, TailV.mk.injEq]
  refine ⟨?_, ?_, ?_, ?_, ?_, ?_, ?_⟩ <;>
  first
  | (rw [TailV.ex_bits]
     repeat (first | exact extract_self _ _ (by decide) | rw [extract_append_up _ _ _ _ (by decide)] | rw [extract_append_lo _ _ _ _ (by decide)]))
  | (rw [getLsbD_extract, TailV.ex_bits]
     refine getLsbD_ofBool0 _ _ ?_
     repeat (first | exact extract_self _ _ (by decide) | rw [extract_append_up _ _ _ _ (by decide)] | rw [extract_append_lo _ _ _ _ (by decide)]))

theorem TailI.ex_bits (t : TailI) (s n : Nat) :
    BitVec.extractLsb' s n t.bits = @BitVec.extractLsb' (7+25) s n (t.b ++ t.imm) := rfl
/-- The fields of a tail come back. -/
theorem TailI.of_bits (t : TailI) : TailI.of t.bits = t := by
  cases t
  simp only [TailI.of, TailI.mk.injEq]
  refine ⟨?_, ?_⟩ <;>
  first
  | (rw [TailI.ex_bits]
     repeat (first | exact extract_self _ _ (by decide) | rw [extract_append_up _ _ _ _ (by decide)] | rw [extract_append_lo _ _ _ _ (by decide)]))
  | (rw [getLsbD_extract, TailI.ex_bits]
     refine getLsbD_ofBool0 _ _ ?_
     repeat (first | exact extract_self _ _ (by decide) | rw [extract_append_up _ _ _ _ (by decide)] | rw [extract_append_lo _ _ _ _ (by decide)]))

theorem TailB.ex_bits (t : TailB) (s n : Nat) :
    BitVec.extractLsb' s n t.bits = @BitVec.extractLsb' (22+5+3+1+1) s n (t.loff ++ t.slot ++ t.p ++ BitVec.ofBool t.pn ++ BitVec.ofBool t.hint) := rfl
/-- The fields of a tail come back. -/
theorem TailB.of_bits (t : TailB) : TailB.of t.bits = t := by
  cases t
  simp only [TailB.of, TailB.mk.injEq]
  refine ⟨?_, ?_, ?_, ?_, ?_⟩ <;>
  first
  | (rw [TailB.ex_bits]
     repeat (first | exact extract_self _ _ (by decide) | rw [extract_append_up _ _ _ _ (by decide)] | rw [extract_append_lo _ _ _ _ (by decide)]))
  | (rw [getLsbD_extract, TailB.ex_bits]
     refine getLsbD_ofBool0 _ _ ?_
     repeat (first | exact extract_self _ _ (by decide) | rw [extract_append_up _ _ _ _ (by decide)] | rw [extract_append_lo _ _ _ _ (by decide)]))

theorem TailM.ex_bits (t : TailM) (s n : Nat) :
    BitVec.extractLsb' s n t.bits = @BitVec.extractLsb' (7+7+3+1+2+1+3+1+3+3+3+6+24) s n (t.b ++ t.c ++ t.sz ++ BitVec.ofBool t.sx ++ t.sc ++ BitVec.ofBool t.xi ++ t.p ++ BitVec.ofBool t.pn ++ t.ord ++ t.scope ++ t.hint ++ t.aop ++ t.off) := rfl
/-- The fields of a tail come back. -/
theorem TailM.of_bits (t : TailM) : TailM.of t.bits = t := by
  cases t
  simp only [TailM.of, TailM.mk.injEq]
  refine ⟨?_, ?_, ?_, ?_, ?_, ?_, ?_, ?_, ?_, ?_, ?_, ?_, ?_⟩ <;>
  first
  | (rw [TailM.ex_bits]
     repeat (first | exact extract_self _ _ (by decide) | rw [extract_append_up _ _ _ _ (by decide)] | rw [extract_append_lo _ _ _ _ (by decide)]))
  | (rw [getLsbD_extract, TailM.ex_bits]
     refine getLsbD_ofBool0 _ _ ?_
     repeat (first | exact extract_self _ _ (by decide) | rw [extract_append_up _ _ _ _ (by decide)] | rw [extract_append_lo _ _ _ _ (by decide)]))

theorem TailE.ex_bits (t : TailE) (s n : Nat) :
    BitVec.extractLsb' s n t.bits = @BitVec.extractLsb' (8+12+8+4+7+7+6+12) s n (t.wk ++ t.wt ++ t.sk ++ t.si ++ t.b ++ t.c ++ t.l ++ t.f12) := rfl
/-- The fields of a tail come back. -/
theorem TailE.of_bits (t : TailE) : TailE.of t.bits = t := by
  cases t
  simp only [TailE.of, TailE.mk.injEq]
  refine ⟨?_, ?_, ?_, ?_, ?_, ?_, ?_, ?_⟩ <;>
  first
  | (rw [TailE.ex_bits]
     repeat (first | exact extract_self _ _ (by decide) | rw [extract_append_up _ _ _ _ (by decide)] | rw [extract_append_lo _ _ _ _ (by decide)]))
  | (rw [getLsbD_extract, TailE.ex_bits]
     refine getLsbD_ofBool0 _ _ ?_
     repeat (first | exact extract_self _ _ (by decide) | rw [extract_append_up _ _ _ _ (by decide)] | rw [extract_append_lo _ _ _ _ (by decide)]))

/-! ## The low bits of the tails that hold SUB and options -/

theorem TailV.low (t : TailV) : t.bits.extractLsb' 0 7 = t.f := by
  rw [TailV.ex_bits]
  repeat (first | exact extract_self _ _ (by decide) | rw [extract_append_lo _ _ _ _ (by decide)])
theorem TailV.sub (t : TailV) : fld t.bits 6 3 = t.f.toNat / 8 := by
  have h := congrArg BitVec.toNat (TailV.low t)
  rw [← mod_eq_extract] at h
  simp only [fld, Nat.shiftRight_eq_div_pow]
  omega
theorem TailV.op (t : TailV) : t.bits.toNat % 8 = t.f.toNat % 8 := by
  have h := congrArg BitVec.toNat (TailV.low t)
  rw [← mod_eq_extract] at h
  omega
theorem TailV.lsb (t : TailV) (k : Nat) (hk : k < 7) : t.bits.getLsbD k = t.f.getLsbD k := by
  rw [← TailV.low t]; simp [hk]
theorem TailI.low (t : TailI) : t.bits.extractLsb' 0 25 = t.imm := by
  rw [TailI.ex_bits]
  repeat (first | exact extract_self _ _ (by decide) | rw [extract_append_lo _ _ _ _ (by decide)])
theorem TailI.lsb (t : TailI) (k : Nat) (hk : k < 25) : t.bits.getLsbD k = t.imm.getLsbD k := by
  rw [← TailI.low t]; simp [hk]
theorem TailE.low (t : TailE) : t.bits.extractLsb' 0 12 = t.f12 := by
  rw [TailE.ex_bits]
  repeat (first | exact extract_self _ _ (by decide) | rw [extract_append_lo _ _ _ _ (by decide)])
theorem TailE.sub (t : TailE) : fld t.bits 11 8 = t.f12.toNat / 256 := by
  have h := congrArg BitVec.toNat (TailE.low t)
  rw [← mod_eq_extract] at h
  simp only [fld, Nat.shiftRight_eq_div_pow]
  omega
theorem TailE.lsb (t : TailE) (k : Nat) (hk : k < 12) : t.bits.getLsbD k = t.f12.getLsbD k := by
  rw [← TailE.low t]; simp [hk]

/-! ## Heads and custom-0 words -/

theorem headOf_ex (tl op : Nat) (d : BitVec 7) (s n : Nat) :
    BitVec.extractLsb' s n (headOf tl op d) = @BitVec.extractLsb' (2+7+7) s n (BitVec.ofNat 2 tl ++ BitVec.ofNat 7 op ++ d) := rfl
theorem headOf_d (tl op : Nat) (d : BitVec 7) : (headOf tl op d).extractLsb' 0 7 = d := by
  rw [headOf_ex]
  repeat (first | exact extract_self _ _ (by decide) | rw [extract_append_lo _ _ _ _ (by decide)])
theorem headMajor_headOf (tl op : Nat) (d : BitVec 7) : headMajor (headOf tl op d) = op % 128 := by
  unfold headMajor
  rw [fld_eq_extract, headOf_ex, extract_append_up _ _ _ _ (by decide), extract_append_lo _ _ _ _ (by decide),
    extract_self _ _ (by decide), BitVec.toNat_ofNat]
theorem headTl_headOf (tl op : Nat) (d : BitVec 7) : headTl (headOf tl op d) = tl % 4 := by
  unfold headTl
  rw [fld_eq_extract, headOf_ex, extract_append_up _ _ _ _ (by decide), extract_append_up _ _ _ _ (by decide),
    extract_self _ _ (by decide), BitVec.toNat_ofNat]
theorem xmBits_ex (f3 f7 : Nat) (r : RType) (s n : Nat) : BitVec.extractLsb' s n (xmBits f3 f7 r) =
    @BitVec.extractLsb' (7+5+5+3+5+7) s n (BitVec.ofNat 7 f7 ++ r.rs2 ++ r.rs1 ++ BitVec.ofNat 3 f3 ++ r.rd ++ 0x0B#7) := rfl
theorem xmBits_op (f3 f7 : Nat) (r : RType) : fld (xmBits f3 f7 r) 6 0 = 0x0B := by
  rw [fld_eq_extract, xmBits_ex, extract_append_lo _ _ _ _ (by decide), extract_self _ _ (by decide)]; rfl
theorem xmBits_f3 (f3 f7 : Nat) (r : RType) : fld (xmBits f3 f7 r) 14 12 = f3 % 8 := by
  rw [fld_eq_extract, xmBits_ex, extract_append_up _ _ _ _ (by decide), extract_append_up _ _ _ _ (by decide),
    extract_append_lo _ _ _ _ (by decide), extract_self _ _ (by decide), BitVec.toNat_ofNat]
theorem xmBits_f7 (f3 f7 : Nat) (r : RType) : fld (xmBits f3 f7 r) 31 25 = f7 % 128 := by
  rw [fld_eq_extract, xmBits_ex, extract_append_up _ _ _ _ (by decide), extract_append_up _ _ _ _ (by decide),
    extract_append_up _ _ _ _ (by decide), extract_append_up _ _ _ _ (by decide), extract_append_up _ _ _ _ (by decide),
    extract_self _ _ (by decide), BitVec.toNat_ofNat]
theorem RType.of_xmBits (f3 f7 : Nat) (r : RType) : RType.of (xmBits f3 f7 r) = r := by
  cases r
  simp only [RType.of, RType.mk.injEq]
  refine ⟨?_, ?_, ?_⟩ <;> rw [xmBits_ex] <;>
  repeat (first | exact extract_self _ _ (by decide) | rw [extract_append_up _ _ _ _ (by decide)] | rw [extract_append_lo _ _ _ _ (by decide)])

/-! ## Decoding what has been put together -/

theorem decode_zero_of {op : Nat} {d : BitVec 7} {i : Instr} (ho : op < 128) (h : decodeZ op d = some i) :
    decode (.zero (headOf 0 op d)) = .ok i := by
  simp only [decode, headTl_headOf, headMajor_headOf, headOf_d, Nat.mod_eq_of_lt ho, Nat.zero_mod, if_true, h]
theorem decode_one_of {op : Nat} {d : BitVec 7} {t : BitVec 16} {i : Instr} (ho : op < 128) (h : decodeS op d t = some i) :
    decode (.one (headOf 1 op d) t) = .ok i := by
  have h1 : 1 % 4 = 1 := rfl
  simp only [decode, headTl_headOf, headMajor_headOf, headOf_d, Nat.mod_eq_of_lt ho, h1, if_true, h]
theorem decode_two_of {op : Nat} {d : BitVec 7} {t : BitVec 32} {i : Instr} (ho : op < 128) (h : decodeTwo op d t = some i) :
    decode (.two (headOf 2 op d) t) = .ok i := by
  have h1 : 2 % 4 = 2 := rfl
  simp only [decode, headTl_headOf, headMajor_headOf, headOf_d, Nat.mod_eq_of_lt ho, h1, if_true, h]
theorem decode_four_of {op : Nat} {d : BitVec 7} {t : BitVec 64} {i : Instr} (ho : op < 128) (h : decodeFour op d t = some i) :
    decode (.four (headOf 3 op d) t) = .ok i := by
  have h1 : 3 % 4 = 3 := rfl
  simp only [decode, headTl_headOf, headMajor_headOf, headOf_d, Nat.mod_eq_of_lt ho, h1, if_true, h]
theorem decode_xm_of {f3 f7 : Nat} {r : RType} {i : Instr} (h3 : f3 < 8) (h7 : f7 < 128) (h : decodeX f3 f7 r = some i) :
    decode (.xm (xmBits f3 f7 r)) = .ok i := by
  simp only [decode, xmBits_op, xmBits_f3, xmBits_f7, RType.of_xmBits, Nat.mod_eq_of_lt h3, Nat.mod_eq_of_lt h7, h, ne_eq,
    not_true_eq_false, if_false]

end Sys2Proof
end

