-- ==== Sys2Proof/Laws/Exec.lean ====
section
/-! SUPPORT. One equation per instruction: the meaning that `exec` calls. -/

namespace Sys2Proof.Machine

@[simp] theorem exec_nop {d} {s : State} : exec (.nop d) s = execNop d s := rfl
@[simp] theorem exec_bra {d t} {s : State} : exec (.bra d t) s = execBra d t s := rfl
@[simp] theorem exec_call {d t} {s : State} : exec (.call d t) s = execCall d t s := rfl
@[simp] theorem exec_jmpx {d t} {s : State} : exec (.jmpx d t) s = execJmpx d t s := rfl
@[simp] theorem exec_loop {d t} {s : State} : exec (.loop d t) s = execLoop d t s := rfl
@[simp] theorem exec_fetch {d t} {s : State} : exec (.fetch d t) s = execFetch d t s := rfl
@[simp] theorem exec_stop {d} {s : State} : exec (.stop d) s = execStop d s := rfl
@[simp] theorem exec_halt {d} {s : State} : exec (.halt d) s = execHalt d s := rfl
@[simp] theorem exec_yield {d} {s : State} : exec (.yield d) s = execYield d s := rfl
@[simp] theorem exec_trap {d} {s : State} : exec (.trap d) s = execTrap d s := rfl
@[simp] theorem exec_plog {d t} {s : State} : exec (.plog d t) s = execPlog d t s := rfl
@[simp] theorem exec_pmov {d t} {s : State} : exec (.pmov d t) s = execPmov d t s := rfl
@[simp] theorem exec_cyc {d} {s : State} : exec (.cyc d) s = execCyc d s := rfl
@[simp] theorem exec_sysr {d t} {s : State} : exec (.sysr d t) s = execSysr d t s := rfl
@[simp] theorem exec_addS {d t} {s : State} : exec (.addS d t) s = execAddS d t s := rfl
@[simp] theorem exec_addV {d t} {s : State} : exec (.addV d t) s = execAddV d t s := rfl
@[simp] theorem exec_subS {d t} {s : State} : exec (.subS d t) s = execSubS d t s := rfl
@[simp] theorem exec_subV {d t} {s : State} : exec (.subV d t) s = execSubV d t s := rfl
@[simp] theorem exec_mulS {d t} {s : State} : exec (.mulS d t) s = execMulS d t s := rfl
@[simp] theorem exec_mulV {d t} {s : State} : exec (.mulV d t) s = execMulV d t s := rfl
@[simp] theorem exec_mulhS {d t} {s : State} : exec (.mulhS d t) s = execMulhS d t s := rfl
@[simp] theorem exec_mulhV {d t} {s : State} : exec (.mulhV d t) s = execMulhV d t s := rfl
@[simp] theorem exec_divS {d t} {s : State} : exec (.divS d t) s = execDivS d t s := rfl
@[simp] theorem exec_divV {d t} {s : State} : exec (.divV d t) s = execDivV d t s := rfl
@[simp] theorem exec_remS {d t} {s : State} : exec (.remS d t) s = execRemS d t s := rfl
@[simp] theorem exec_remV {d t} {s : State} : exec (.remV d t) s = execRemV d t s := rfl
@[simp] theorem exec_andS {d t} {s : State} : exec (.andS d t) s = execAndS d t s := rfl
@[simp] theorem exec_andV {d t} {s : State} : exec (.andV d t) s = execAndV d t s := rfl
@[simp] theorem exec_orS {d t} {s : State} : exec (.orS d t) s = execOrS d t s := rfl
@[simp] theorem exec_orV {d t} {s : State} : exec (.orV d t) s = execOrV d t s := rfl
@[simp] theorem exec_xorS {d t} {s : State} : exec (.xorS d t) s = execXorS d t s := rfl
@[simp] theorem exec_xorV {d t} {s : State} : exec (.xorV d t) s = execXorV d t s := rfl
@[simp] theorem exec_andnS {d t} {s : State} : exec (.andnS d t) s = execAndnS d t s := rfl
@[simp] theorem exec_andnV {d t} {s : State} : exec (.andnV d t) s = execAndnV d t s := rfl
@[simp] theorem exec_shlS {d t} {s : State} : exec (.shlS d t) s = execShlS d t s := rfl
@[simp] theorem exec_shlV {d t} {s : State} : exec (.shlV d t) s = execShlV d t s := rfl
@[simp] theorem exec_shrS {d t} {s : State} : exec (.shrS d t) s = execShrS d t s := rfl
@[simp] theorem exec_shrV {d t} {s : State} : exec (.shrV d t) s = execShrV d t s := rfl
@[simp] theorem exec_sraS {d t} {s : State} : exec (.sraS d t) s = execSraS d t s := rfl
@[simp] theorem exec_sraV {d t} {s : State} : exec (.sraV d t) s = execSraV d t s := rfl
@[simp] theorem exec_rotS {d t} {s : State} : exec (.rotS d t) s = execRotS d t s := rfl
@[simp] theorem exec_rotV {d t} {s : State} : exec (.rotV d t) s = execRotV d t s := rfl
@[simp] theorem exec_minS {d t} {s : State} : exec (.minS d t) s = execMinS d t s := rfl
@[simp] theorem exec_minV {d t} {s : State} : exec (.minV d t) s = execMinV d t s := rfl
@[simp] theorem exec_maxS {d t} {s : State} : exec (.maxS d t) s = execMaxS d t s := rfl
@[simp] theorem exec_maxV {d t} {s : State} : exec (.maxV d t) s = execMaxV d t s := rfl
@[simp] theorem exec_abs {d t} {s : State} : exec (.abs d t) s = execAbs d t s := rfl
@[simp] theorem exec_neg {d t} {s : State} : exec (.neg d t) s = execNeg d t s := rfl
@[simp] theorem exec_clz {d t} {s : State} : exec (.clz d t) s = execClz d t s := rfl
@[simp] theorem exec_popc {d t} {s : State} : exec (.popc d t) s = execPopc d t s := rfl
@[simp] theorem exec_cmp {d t} {s : State} : exec (.cmp d t) s = execCmp d t s := rfl
@[simp] theorem exec_sel {d t} {s : State} : exec (.sel d t) s = execSel d t s := rfl
@[simp] theorem exec_addi {d t} {s : State} : exec (.addi d t) s = execAddi d t s := rfl
@[simp] theorem exec_movi {d imm} {s : State} : exec (.movi d imm) s = execMovi d imm s := rfl
@[simp] theorem exec_movq {d imm} {s : State} : exec (.movq d imm) s = execMovq d imm s := rfl
@[simp] theorem exec_lea {d t} {s : State} : exec (.lea d t) s = execLea d t s := rfl
@[simp] theorem exec_bext {d t} {s : State} : exec (.bext d t) s = execBext d t s := rfl
@[simp] theorem exec_bins {d t} {s : State} : exec (.bins d t) s = execBins d t s := rfl
@[simp] theorem exec_madd {d t} {s : State} : exec (.madd d t) s = execMadd d t s := rfl
@[simp] theorem exec_doti {d t} {s : State} : exec (.doti d t) s = execDoti d t s := rfl
@[simp] theorem exec_satn {d t} {s : State} : exec (.satn d t) s = execSatn d t s := rfl
@[simp] theorem exec_shuf {d t} {s : State} : exec (.shuf d t) s = execShuf d t s := rfl
@[simp] theorem exec_fadd {d t} {s : State} : exec (.fadd d t) s = execFadd d t s := rfl
@[simp] theorem exec_fsub {d t} {s : State} : exec (.fsub d t) s = execFsub d t s := rfl
@[simp] theorem exec_fmul {d t} {s : State} : exec (.fmul d t) s = execFmul d t s := rfl
@[simp] theorem exec_fma {d t} {s : State} : exec (.fma d t) s = execFma d t s := rfl
@[simp] theorem exec_fmin {d t} {s : State} : exec (.fmin d t) s = execFmin d t s := rfl
@[simp] theorem exec_fmax {d t} {s : State} : exec (.fmax d t) s = execFmax d t s := rfl
@[simp] theorem exec_fsgn {d t} {s : State} : exec (.fsgn d t) s = execFsgn d t s := rfl
@[simp] theorem exec_fcmp {d t} {s : State} : exec (.fcmp d t) s = execFcmp d t s := rfl
@[simp] theorem exec_fcvt {d t} {s : State} : exec (.fcvt d t) s = execFcvt d t s := rfl
@[simp] theorem exec_frnd {d t} {s : State} : exec (.frnd d t) s = execFrnd d t s := rfl
@[simp] theorem exec_fscl {d t} {s : State} : exec (.fscl d t) s = execFscl d t s := rfl
@[simp] theorem exec_fcls {d t} {s : State} : exec (.fcls d t) s = execFcls d t s := rfl
@[simp] theorem exec_frcp {d t} {s : State} : exec (.frcp d t) s = execFrcp d t s := rfl
@[simp] theorem exec_frsq {d t} {s : State} : exec (.frsq d t) s = execFrsq d t s := rfl
@[simp] theorem exec_fsqrt {d t} {s : State} : exec (.fsqrt d t) s = execFsqrt d t s := rfl
@[simp] theorem exec_fdiv {d t} {s : State} : exec (.fdiv d t) s = execFdiv d t s := rfl
@[simp] theorem exec_fexp2 {d t} {s : State} : exec (.fexp2 d t) s = execFexp2 d t s := rfl
@[simp] theorem exec_flog2 {d t} {s : State} : exec (.flog2 d t) s = execFlog2 d t s := rfl
@[simp] theorem exec_fsin {d t} {s : State} : exec (.fsin d t) s = execFsin d t s := rfl
@[simp] theorem exec_fcos {d t} {s : State} : exec (.fcos d t) s = execFcos d t s := rfl
@[simp] theorem exec_ftanh {d t} {s : State} : exec (.ftanh d t) s = execFtanh d t s := rfl
@[simp] theorem exec_fred {d t} {s : State} : exec (.fred d t) s = execFred d t s := rfl
@[simp] theorem exec_imax {d t} {s : State} : exec (.imax d t) s = execImax d t s := rfl
@[simp] theorem exec_fdot {d t} {s : State} : exec (.fdot d t) s = execFdot d t s := rfl
@[simp] theorem exec_qnt {d t} {s : State} : exec (.qnt d t) s = execQnt d t s := rfl
@[simp] theorem exec_qntScl {d t} {s : State} : exec (.qntScl d t) s = execQntScl d t s := rfl
@[simp] theorem exec_dqnt {d t} {s : State} : exec (.dqnt d t) s = execDqnt d t s := rfl
@[simp] theorem exec_rand {d t} {s : State} : exec (.rand d t) s = execRand d t s := rfl
@[simp] theorem exec_rope {d t} {s : State} : exec (.rope d t) s = execRope d t s := rfl
@[simp] theorem exec_ropeSet {d t} {s : State} : exec (.ropeSet d t) s = execRopeSet d t s := rfl
@[simp] theorem exec_fpcset {d t} {s : State} : exec (.fpcset d t) s = execFpcset d t s := rfl
@[simp] theorem exec_ld {d t} {s : State} : exec (.ld d t) s = execLd d t s := rfl
@[simp] theorem exec_st {d t} {s : State} : exec (.st d t) s = execSt d t s := rfl
@[simp] theorem exec_lda {d t} {s : State} : exec (.lda d t) s = execLda d t s := rfl
@[simp] theorem exec_sta {d t} {s : State} : exec (.sta d t) s = execSta d t s := rfl
@[simp] theorem exec_movx {d t} {s : State} : exec (.movx d t) s = execMovx d t s := rfl
@[simp] theorem exec_movxs {d t} {s : State} : exec (.movxs d t) s = execMovxs d t s := rfl
@[simp] theorem exec_lnkr {d t} {s : State} : exec (.lnkr d t) s = execLnkr d t s := rfl
@[simp] theorem exec_lnkw {d t} {s : State} : exec (.lnkw d t) s = execLnkw d t s := rfl
@[simp] theorem exec_chbind {d t} {s : State} : exec (.chbind d t) s = execChbind d t s := rfl
@[simp] theorem exec_chbindOff {d t} {s : State} : exec (.chbindOff d t) s = execChbindOff d t s := rfl
@[simp] theorem exec_chsend {d t} {s : State} : exec (.chsend d t) s = execChsend d t s := rfl
@[simp] theorem exec_gath {d t} {s : State} : exec (.gath d t) s = execGath d t s := rfl
@[simp] theorem exec_scat {d t} {s : State} : exec (.scat d t) s = execScat d t s := rfl
@[simp] theorem exec_gennew {d t} {s : State} : exec (.gennew d t) s = execGennew d t s := rfl
@[simp] theorem exec_genq {d t} {s : State} : exec (.genq d t) s = execGenq d t s := rfl
@[simp] theorem exec_genqGran {d t} {s : State} : exec (.genqGran d t) s = execGenqGran d t s := rfl
@[simp] theorem exec_ldg {d t} {s : State} : exec (.ldg d t) s = execLdg d t s := rfl
@[simp] theorem exec_stg {d t} {s : State} : exec (.stg d t) s = execStg d t s := rfl
@[simp] theorem exec_atom {d t} {s : State} : exec (.atom d t) s = execAtom d t s := rfl
@[simp] theorem exec_cas {d t} {s : State} : exec (.cas d t) s = execCas d t s := rfl
@[simp] theorem exec_red {d t} {s : State} : exec (.red d t) s = execRed d t s := rfl
@[simp] theorem exec_fence {d t} {s : State} : exec (.fence d t) s = execFence d t s := rfl
@[simp] theorem exec_pref {d t} {s : State} : exec (.pref d t) s = execPref d t s := rfl
@[simp] theorem exec_ldnc {d t} {s : State} : exec (.ldnc d t) s = execLdnc d t s := rfl
@[simp] theorem exec_fabinv {d t} {s : State} : exec (.fabinv d t) s = execFabinv d t s := rfl
@[simp] theorem exec_flushl {d t} {s : State} : exec (.flushl d t) s = execFlushl d t s := rfl
@[simp] theorem exec_invl {d t} {s : State} : exec (.invl d t) s = execInvl d t s := rfl
@[simp] theorem exec_send {d t} {s : State} : exec (.send d t) s = execSend d t s := rfl
@[simp] theorem exec_sendLaunch {d t} {s : State} : exec (.sendLaunch d t) s = execSendLaunch d t s := rfl
@[simp] theorem exec_spawn {d t} {s : State} : exec (.spawn d t) s = execSpawn d t s := rfl
@[simp] theorem exec_cwait {d t} {s : State} : exec (.cwait d t) s = execCwait d t s := rfl
@[simp] theorem exec_cwaitr {d t} {s : State} : exec (.cwaitr d t) s = execCwaitr d t s := rfl
@[simp] theorem exec_csig {d t} {s : State} : exec (.csig d t) s = execCsig d t s := rfl
@[simp] theorem exec_csigRmt {d t} {s : State} : exec (.csigRmt d t) s = execCsigRmt d t s := rfl
@[simp] theorem exec_cset {d t} {s : State} : exec (.cset d t) s = execCset d t s := rfl
@[simp] theorem exec_cget {d t} {s : State} : exec (.cget d t) s = execCget d t s := rfl
@[simp] theorem exec_ctrig {d t} {s : State} : exec (.ctrig d t) s = execCtrig d t s := rfl
@[simp] theorem exec_ctrigOff {d t} {s : State} : exec (.ctrigOff d t) s = execCtrigOff d t s := rfl
@[simp] theorem exec_bar {d t} {s : State} : exec (.bar d t) s = execBar d t s := rfl
@[simp] theorem exec_chkw {d t} {s : State} : exec (.chkw d t) s = execChkw d t s := rfl
@[simp] theorem exec_get {d t} {s : State} : exec (.get d t) s = execGet d t s := rfl
@[simp] theorem exec_put {d t} {s : State} : exec (.put d t) s = execPut d t s := rfl
@[simp] theorem exec_tcopy {d t} {s : State} : exec (.tcopy d t) s = execTcopy d t s := rfl
@[simp] theorem exec_tgath {d t} {s : State} : exec (.tgath d t) s = execTgath d t s := rfl
@[simp] theorem exec_tscat {d t} {s : State} : exec (.tscat d t) s = execTscat d t s := rfl
@[simp] theorem exec_cfill {d t} {s : State} : exec (.cfill d t) s = execCfill d t s := rfl
@[simp] theorem exec_creplay {d t} {s : State} : exec (.creplay d t) s = execCreplay d t s := rfl
@[simp] theorem exec_layset {d t} {s : State} : exec (.layset d t) s = execLayset d t s := rfl
@[simp] theorem exec_layget {d t} {s : State} : exec (.layget d t) s = execLayget d t s := rfl
@[simp] theorem exec_laykey {d t} {s : State} : exec (.laykey d t) s = execLaykey d t s := rfl
@[simp] theorem exec_mma {d t} {s : State} : exec (.mma d t) s = execMma d t s := rfl
@[simp] theorem exec_mmz {d t} {s : State} : exec (.mmz d t) s = execMmz d t s := rfl
@[simp] theorem exec_wbld {d t} {s : State} : exec (.wbld d t) s = execWbld d t s := rfl
@[simp] theorem exec_wbsel {d t} {s : State} : exec (.wbsel d t) s = execWbsel d t s := rfl
@[simp] theorem exec_accvt {d t} {s : State} : exec (.accvt d t) s = execAccvt d t s := rfl
@[simp] theorem exec_sfork {d t} {s : State} : exec (.sfork d t) s = execSfork d t s := rfl
@[simp] theorem exec_sret {d t} {s : State} : exec (.sret d t) s = execSret d t s := rfl
@[simp] theorem exec_sprune {d t} {s : State} : exec (.sprune d t) s = execSprune d t s := rfl
@[simp] theorem exec_sadv {d t} {s : State} : exec (.sadv d t) s = execSadv d t s := rfl
@[simp] theorem exec_sactPush {d t} {s : State} : exec (.sactPush d t) s = execSactPush d t s := rfl
@[simp] theorem exec_sactPop {d t} {s : State} : exec (.sactPop d t) s = execSactPop d t s := rfl
@[simp] theorem exec_sactPeek {d t} {s : State} : exec (.sactPeek d t) s = execSactPeek d t s := rfl
@[simp] theorem exec_spgr {d t} {s : State} : exec (.spgr d t) s = execSpgr d t s := rfl
@[simp] theorem exec_spgw {d t} {s : State} : exec (.spgw d t) s = execSpgw d t s := rfl
@[simp] theorem exec_scommitBegin {d t} {s : State} : exec (.scommitBegin d t) s = execScommitBegin d t s := rfl
@[simp] theorem exec_scommitCommit {d t} {s : State} : exec (.scommitCommit d t) s = execScommitCommit d t s := rfl
@[simp] theorem exec_scommitDiscard {d t} {s : State} : exec (.scommitDiscard d t) s = execScommitDiscard d t s := rfl
@[simp] theorem exec_sstat {d t} {s : State} : exec (.sstat d t) s = execSstat d t s := rfl
@[simp] theorem exec_ssetBind {d t} {s : State} : exec (.ssetBind d t) s = execSsetBind d t s := rfl
@[simp] theorem exec_ssetPrio {d t} {s : State} : exec (.ssetPrio d t) s = execSsetPrio d t s := rfl
@[simp] theorem exec_ssetModel {d t} {s : State} : exec (.ssetModel d t) s = execSsetModel d t s := rfl
@[simp] theorem exec_ssetJoin {d t} {s : State} : exec (.ssetJoin d t) s = execSsetJoin d t s := rfl
@[simp] theorem exec_ssetRun {d t} {s : State} : exec (.ssetRun d t) s = execSsetRun d t s := rfl
@[simp] theorem exec_ssetRng {d t} {s : State} : exec (.ssetRng d t) s = execSsetRng d t s := rfl
@[simp] theorem exec_ssetQueue {d t} {s : State} : exec (.ssetQueue d t) s = execSsetQueue d t s := rfl
@[simp] theorem exec_ssetPen {d t} {s : State} : exec (.ssetPen d t) s = execSsetPen d t s := rfl
@[simp] theorem exec_shor {d t} {s : State} : exec (.shor d t) s = execShor d t s := rfl
@[simp] theorem exec_smig {d t} {s : State} : exec (.smig d t) s = execSmig d t s := rfl
@[simp] theorem exec_ttreset {d t} {s : State} : exec (.ttreset d t) s = execTtreset d t s := rfl
@[simp] theorem exec_ttadd {d t} {s : State} : exec (.ttadd d t) s = execTtadd d t s := rfl
@[simp] theorem exec_ttmask {d t} {s : State} : exec (.ttmask d t) s = execTtmask d t s := rfl
@[simp] theorem exec_ttpos {d t} {s : State} : exec (.ttpos d t) s = execTtpos d t s := rfl
@[simp] theorem exec_ttposHdr {d t} {s : State} : exec (.ttposHdr d t) s = execTtposHdr d t s := rfl
@[simp] theorem exec_ttanc {d t} {s : State} : exec (.ttanc d t) s = execTtanc d t s := rfl
@[simp] theorem exec_ttpath {d t} {s : State} : exec (.ttpath d t) s = execTtpath d t s := rfl
@[simp] theorem exec_ttprune {d t} {s : State} : exec (.ttprune d t) s = execTtprune d t s := rfl
@[simp] theorem exec_jopen {d t} {s : State} : exec (.jopen d t) s = execJopen d t s := rfl
@[simp] theorem exec_jput {d t} {s : State} : exec (.jput d t) s = execJput d t s := rfl
@[simp] theorem exec_jget {d t} {s : State} : exec (.jget d t) s = execJget d t s := rfl
@[simp] theorem exec_jgetClose {d t} {s : State} : exec (.jgetClose d t) s = execJgetClose d t s := rfl
@[simp] theorem exec_psort {d t} {s : State} : exec (.psort d t) s = execPsort d t s := rfl
@[simp] theorem exec_sdesc {d t} {s : State} : exec (.sdesc d t) s = execSdesc d t s := rfl
@[simp] theorem exec_rlq {d t} {s : State} : exec (.rlq d t) s = execRlq d t s := rfl
@[simp] theorem exec_perfr {d t} {s : State} : exec (.perfr d t) s = execPerfr d t s := rfl
@[simp] theorem exec_mkBcast {r} {s : State} : exec (.mkBcast r) s = execMkBcast r s := rfl
@[simp] theorem exec_mkLoose {r} {s : State} : exec (.mkLoose r) s = execMkLoose r s := rfl
@[simp] theorem exec_mkStopped {r} {s : State} : exec (.mkStopped r) s = execMkStopped r s := rfl
@[simp] theorem exec_mkWaitf {r} {s : State} : exec (.mkWaitf r) s = execMkWaitf r s := rfl
@[simp] theorem exec_mkHaltf {r} {s : State} : exec (.mkHaltf r) s = execMkHaltf r s := rfl
@[simp] theorem exec_mkLink {r} {s : State} : exec (.mkLink r) s = execMkLink r s := rfl
@[simp] theorem exec_mkCtxnew {r} {s : State} : exec (.mkCtxnew r) s = execMkCtxnew r s := rfl
@[simp] theorem exec_mkCtxfree {r} {s : State} : exec (.mkCtxfree r) s = execMkCtxfree r s := rfl
@[simp] theorem exec_mkBind {r} {s : State} : exec (.mkBind r) s = execMkBind r s := rfl
@[simp] theorem exec_mkUnbind {r} {s : State} : exec (.mkUnbind r) s = execMkUnbind r s := rfl
@[simp] theorem exec_mkRunq {r} {s : State} : exec (.mkRunq r) s = execMkRunq r s := rfl
@[simp] theorem exec_mkUpret {r} {s : State} : exec (.mkUpret r) s = execMkUpret r s := rfl
@[simp] theorem exec_mkUpretReturn {r} {s : State} : exec (.mkUpretReturn r) s = execMkUpretReturn r s := rfl
@[simp] theorem exec_mkMigr {r} {s : State} : exec (.mkMigr r) s = execMkMigr r s := rfl
@[simp] theorem exec_mkGennew {r} {s : State} : exec (.mkGennew r) s = execMkGennew r s := rfl
@[simp] theorem exec_mkCwait {r} {s : State} : exec (.mkCwait r) s = execMkCwait r s := rfl
@[simp] theorem exec_mkCsig {r} {s : State} : exec (.mkCsig r) s = execMkCsig r s := rfl
@[simp] theorem exec_mkCset {r} {s : State} : exec (.mkCset r) s = execMkCset r s := rfl
@[simp] theorem exec_mkCget {r} {s : State} : exec (.mkCget r) s = execMkCget r s := rfl
@[simp] theorem exec_mkEngw {r} {s : State} : exec (.mkEngw r) s = execMkEngw r s := rfl
@[simp] theorem exec_mkEngr {r} {s : State} : exec (.mkEngr r) s = execMkEngr r s := rfl
@[simp] theorem exec_mkShswap {r} {s : State} : exec (.mkShswap r) s = execMkShswap r s := rfl
@[simp] theorem exec_mkFreeze {r} {s : State} : exec (.mkFreeze r) s = execMkFreeze r s := rfl
@[simp] theorem exec_mkThaw {r} {s : State} : exec (.mkThaw r) s = execMkThaw r s := rfl
@[simp] theorem exec_mkPlbw {r} {s : State} : exec (.mkPlbw r) s = execMkPlbw r s := rfl
@[simp] theorem exec_mkPlbinv {r} {s : State} : exec (.mkPlbinv r) s = execMkPlbinv r s := rfl
@[simp] theorem exec_mkDbgrd {r} {s : State} : exec (.mkDbgrd r) s = execMkDbgrd r s := rfl
@[simp] theorem exec_mkDbgwr {r} {s : State} : exec (.mkDbgwr r) s = execMkDbgwr r s := rfl
@[simp] theorem exec_contextBind {d c} {s : State} : exec (.contextBind d c) s = execContextBind d c s := rfl
@[simp] theorem exec_agingStep {d c ix} {s : State} : exec (.agingStep d c ix) s = execAgingStep d c ix s := rfl
@[simp] theorem exec_messageArrival {pkt} {s : State} : exec (.messageArrival pkt) s = execMessageArrival pkt s := rfl
@[simp] theorem exec_messageCreate {d c} {s : State} : exec (.messageCreate d c) s = execMessageCreate d c s := rfl
@[simp] theorem exec_messageSend {d c e} {s : State} : exec (.messageSend d c e) s = execMessageSend d c e s := rfl
@[simp] theorem exec_channelPacketArrival {pkt} {s : State} : exec (.channelPacketArrival pkt) s = execChannelPacketArrival pkt s := rfl
@[simp] theorem exec_mailboxDelivery {d c} {s : State} : exec (.mailboxDelivery d c) s = execMailboxDelivery d c s := rfl
@[simp] theorem exec_localInterrupt {d c} {s : State} : exec (.localInterrupt d c) s = execLocalInterrupt d c s := rfl
@[simp] theorem exec_upcallEntry {d c} {s : State} : exec (.upcallEntry d c) s = execUpcallEntry d c s := rfl
@[simp] theorem exec_loadRefresh {d c} {s : State} : exec (.loadRefresh d c) s = execLoadRefresh d c s := rfl
@[simp] theorem exec_sliceCopy {d c} {s : State} : exec (.sliceCopy d c) s = execSliceCopy d c s := rfl
@[simp] theorem exec_balanceMove {d c} {s : State} : exec (.balanceMove d c) s = execBalanceMove d c s := rfl
@[simp] theorem exec_contextMigrateArrival {pkt} {s : State} : exec (.contextMigrateArrival pkt) s = execContextMigrateArrival pkt s := rfl
@[simp] theorem exec_shearerScan {d c bank} {s : State} : exec (.shearerScan d c bank) s = execShearerScan d c bank s := rfl
@[simp] theorem exec_shearForcedRate {d c} {s : State} : exec (.shearForcedRate d c) s = execShearForcedRate d c s := rfl
@[simp] theorem exec_regionRenew {d c shadow ix g} {s : State} : exec (.regionRenew d c shadow ix g) s = execRegionRenew d c shadow ix g s := rfl
@[simp] theorem exec_bankWake {d c} {s : State} : exec (.bankWake d c) s = execBankWake d c s := rfl
@[simp] theorem exec_commandCapture {d c port} {s : State} : exec (.commandCapture d c port) s = execCommandCapture d c port s := rfl
@[simp] theorem exec_commandDispatch {d c e} {s : State} : exec (.commandDispatch d c e) s = execCommandDispatch d c e s := rfl
@[simp] theorem exec_chunkLand {d c e j crcBad} {s : State} : exec (.chunkLand d c e j crcBad) s = execChunkLand d c e j crcBad s := rfl
@[simp] theorem exec_completionMessage {d c e} {s : State} : exec (.completionMessage d c e) s = execCompletionMessage d c e s := rfl
@[simp] theorem exec_commandFail {d c e} {s : State} : exec (.commandFail d c e) s = execCommandFail d c e s := rfl
@[simp] theorem exec_cxlNotPresent {d c e} {s : State} : exec (.cxlNotPresent d c e) s = execCxlNotPresent d c e s := rfl
@[simp] theorem exec_triggerTaskCreate {d c k} {s : State} : exec (.triggerTaskCreate d c k) s = execTriggerTaskCreate d c k s := rfl
@[simp] theorem exec_counterSignalPacket {pkt} {s : State} : exec (.counterSignalPacket pkt) s = execCounterSignalPacket pkt s := rfl
@[simp] theorem exec_counterWindowRead {a} {s : State} : exec (.counterWindowRead a) s = execCounterWindowRead a s := rfl
@[simp] theorem exec_counterWindowSet {d c} {s : State} : exec (.counterWindowSet d c) s = execCounterWindowSet d c s := rfl
@[simp] theorem exec_counterWindowSignal {d c} {s : State} : exec (.counterWindowSignal d c) s = execCounterWindowSignal d c s := rfl
@[simp] theorem exec_gangTimeout {d c sl} {s : State} : exec (.gangTimeout d c sl) s = execGangTimeout d c sl s := rfl
@[simp] theorem exec_gangStart {d gang} {s : State} : exec (.gangStart d gang) s = execGangStart d gang s := rfl
@[simp] theorem exec_mmaStart {d c} {s : State} : exec (.mmaStart d c) s = execMmaStart d c s := rfl
@[simp] theorem exec_mmaGroupLand {d c} {s : State} : exec (.mmaGroupLand d c) s = execMmaGroupLand d c s := rfl
@[simp] theorem exec_mmaComplete {d c} {s : State} : exec (.mmaComplete d c) s = execMmaComplete d c s := rfl
@[simp] theorem exec_mmzStart {d c} {s : State} : exec (.mmzStart d c) s = execMmzStart d c s := rfl
@[simp] theorem exec_mmzComplete {d c} {s : State} : exec (.mmzComplete d c) s = execMmzComplete d c s := rfl
@[simp] theorem exec_weightReplayComplete {d c h failed} {s : State} : exec (.weightReplayComplete d c h failed) s = execWeightReplayComplete d c h failed s := rfl
@[simp] theorem exec_psortComplete {d c e} {s : State} : exec (.psortComplete d c e) s = execPsortComplete d c e s := rfl
@[simp] theorem exec_storePerform {d c} {s : State} : exec (.storePerform d c) s = execStorePerform d c s := rfl
@[simp] theorem exec_homeWrite {d c} {s : State} : exec (.homeWrite d c) s = execHomeWrite d c s := rfl
@[simp] theorem exec_homeRead {a} {s : State} : exec (.homeRead a) s = execHomeRead a s := rfl
@[simp] theorem exec_invalidation {line p} {s : State} : exec (.invalidation line p) s = execInvalidation line p s := rfl
@[simp] theorem exec_keeperPost {a} {s : State} : exec (.keeperPost a) s = execKeeperPost a s := rfl
@[simp] theorem exec_keeperInvalidate {line} {s : State} : exec (.keeperInvalidate line) s = execKeeperInvalidate line s := rfl
@[simp] theorem exec_keeperComplete {line} {s : State} : exec (.keeperComplete line) s = execKeeperComplete line s := rfl
@[simp] theorem exec_proxyMiss {a victim} {s : State} : exec (.proxyMiss a victim) s = execProxyMiss a victim s := rfl
@[simp] theorem exec_cacheFill {a victim toCore} {s : State} : exec (.cacheFill a victim toCore) s = execCacheFill a victim toCore s := rfl
@[simp] theorem exec_atomicAtHome {a} {s : State} : exec (.atomicAtHome a) s = execAtomicAtHome a s := rfl
@[simp] theorem exec_loadReply {a} {s : State} : exec (.loadReply a) s = execLoadReply a s := rfl
@[simp] theorem exec_remotePaddockAccess {a} {s : State} : exec (.remotePaddockAccess a) s = execRemotePaddockAccess a s := rfl
@[simp] theorem exec_fabricCacheFill {a victim} {s : State} : exec (.fabricCacheFill a victim) s = execFabricCacheFill a victim s := rfl
@[simp] theorem exec_hostAtomicCompletion {a old ur} {s : State} : exec (.hostAtomicCompletion a old ur) s = execHostAtomicCompletion a old ur s := rfl
@[simp] theorem exec_plbRefill {a} {s : State} : exec (.plbRefill a) s = execPlbRefill a s := rfl
@[simp] theorem exec_tableWalk {a} {s : State} : exec (.tableWalk a) s = execTableWalk a s := rfl
@[simp] theorem exec_shootdown {d v} {s : State} : exec (.shootdown d v) s = execShootdown d v s := rfl
@[simp] theorem exec_shootdownComplete {d} {s : State} : exec (.shootdownComplete d) s = execShootdownComplete d s := rfl
@[simp] theorem exec_sliceExpiry {d p} {s : State} : exec (.sliceExpiry d p) s = execSliceExpiry d p s := rfl
@[simp] theorem exec_preemptOrder {d p} {s : State} : exec (.preemptOrder d p) s = execPreemptOrder d p s := rfl
@[simp] theorem exec_shswapExchange {d c} {s : State} : exec (.shswapExchange d c) s = execShswapExchange d c s := rfl
@[simp] theorem exec_preemptLate {d c} {s : State} : exec (.preemptLate d c) s = execPreemptLate d c s := rfl
@[simp] theorem exec_copyOut {d c} {s : State} : exec (.copyOut d c) s = execCopyOut d c s := rfl
@[simp] theorem exec_copyIn {d c p img} {s : State} : exec (.copyIn d c p img) s = execCopyIn d c p img s := rfl
@[simp] theorem exec_freezePacket {pkt} {s : State} : exec (.freezePacket pkt) s = execFreezePacket pkt s := rfl
@[simp] theorem exec_fthawWrite {d v} {s : State} : exec (.fthawWrite d v) s = execFthawWrite d v s := rfl
@[simp] theorem exec_launchPacket {src w relaxed} {s : State} : exec (.launchPacket src w relaxed) s = execLaunchPacket src w relaxed s := rfl
@[simp] theorem exec_gloadPacket {src w relaxed} {s : State} : exec (.gloadPacket src w relaxed) s = execGloadPacket src w relaxed s := rfl
@[simp] theorem exec_replayPacket {src w relaxed} {s : State} : exec (.replayPacket src w relaxed) s = execReplayPacket src w relaxed s := rfl
@[simp] theorem exec_patchPacket {src w relaxed} {s : State} : exec (.patchPacket src w relaxed) s = execPatchPacket src w relaxed s := rfl
@[simp] theorem exec_registerPacket {src w relaxed} {s : State} : exec (.registerPacket src w relaxed) s = execRegisterPacket src w relaxed s := rfl
@[simp] theorem exec_sharePlace {l d wps} {s : State} : exec (.sharePlace l d wps) s = execSharePlace l d wps s := rfl
@[simp] theorem exec_taskCreate {l d c} {s : State} : exec (.taskCreate l d c) s = execTaskCreate l d c s := rfl
@[simp] theorem exec_launchComplete {l} {s : State} : exec (.launchComplete l) s = execLaunchComplete l s := rfl
@[simp] theorem exec_replayStart {part g} {s : State} : exec (.replayStart part g) s = execReplayStart part g s := rfl
@[simp] theorem exec_droveDispatch {d e} {s : State} : exec (.droveDispatch d e) s = execDroveDispatch d e s := rfl
@[simp] theorem exec_residencyWrite {d e v} {s : State} : exec (.residencyWrite d e v) s = execResidencyWrite d e v s := rfl
@[simp] theorem exec_frameCascade {d} {s : State} : exec (.frameCascade d) s = execFrameCascade d s := rfl
@[simp] theorem exec_tierMove {d tier node frame toTier toFrame} {s : State} : exec (.tierMove d tier node frame toTier toFrame) s = execTierMove d tier node frame toTier toFrame s := rfl
@[simp] theorem exec_migrationPull {m} {s : State} : exec (.migrationPull m) s = execMigrationPull m s := rfl
@[simp] theorem exec_migrationSwitch {m} {s : State} : exec (.migrationSwitch m) s = execMigrationSwitch m s := rfl
@[simp] theorem exec_joinArrival {pkt} {s : State} : exec (.joinArrival pkt) s = execJoinArrival pkt s := rfl
@[simp] theorem exec_childResultArrival {pkt} {s : State} : exec (.childResultArrival pkt) s = execChildResultArrival pkt s := rfl
@[simp] theorem exec_descentStep {pkt} {s : State} : exec (.descentStep pkt) s = execDescentStep pkt s := rfl
@[simp] theorem exec_joinPrune {pkt} {s : State} : exec (.joinPrune pkt) s = execJoinPrune pkt s := rfl
@[simp] theorem exec_packetRoute {pkt evict} {s : State} : exec (.packetRoute pkt evict) s = execPacketRoute pkt evict s := rfl
@[simp] theorem exec_evictionNotice {pkt} {s : State} : exec (.evictionNotice pkt) s = execEvictionNotice pkt s := rfl
@[simp] theorem exec_endToEndAck {pkt} {s : State} : exec (.endToEndAck pkt) s = execEndToEndAck pkt s := rfl
@[simp] theorem exec_classAging {pkt} {s : State} : exec (.classAging pkt) s = execClassAging pkt s := rfl
@[simp] theorem exec_flitReplay {d port lane} {s : State} : exec (.flitReplay d port lane) s = execFlitReplay d port lane s := rfl
@[simp] theorem exec_laneRetrain {d port lane} {s : State} : exec (.laneRetrain d port lane) s = execLaneRetrain d port lane s := rfl
@[simp] theorem exec_linkUp {port} {s : State} : exec (.linkUp port) s = execLinkUp port s := rfl
@[simp] theorem exec_linkDown {port} {s : State} : exec (.linkDown port) s = execLinkDown port s := rfl
@[simp] theorem exec_bar4Write {port fn off bytes relaxed} {s : State} : exec (.bar4Write port fn off bytes relaxed) s = execBar4Write port fn off bytes relaxed s := rfl
@[simp] theorem exec_bar4Read {port fn off n} {s : State} : exec (.bar4Read port fn off n) s = execBar4Read port fn off n s := rfl
@[simp] theorem exec_configRequest {port fn} {s : State} : exec (.configRequest port fn) s = execConfigRequest port fn s := rfl
@[simp] theorem exec_postRecord {d} {s : State} : exec (.postRecord d) s = execPostRecord d s := rfl
@[simp] theorem exec_pbctlWrite {v} {s : State} : exec (.pbctlWrite v) s = execPbctlWrite v s := rfl
@[simp] theorem exec_partitionWrite {d p v} {s : State} : exec (.partitionWrite d p v) s = execPartitionWrite d p v s := rfl
@[simp] theorem exec_mkSplitWrite {v} {s : State} : exec (.mkSplitWrite v) s = execMkSplitWrite v s := rfl
@[simp] theorem exec_mkSlicePack {v} {s : State} : exec (.mkSlicePack v) s = execMkSlicePack v s := rfl
@[simp] theorem exec_registerWrite {r v} {s : State} : exec (.registerWrite r v) s = execRegisterWrite r v s := rfl
@[simp] theorem exec_hbmChannelSpare {d stack} {s : State} : exec (.hbmChannelSpare d stack) s = execHbmChannelSpare d stack s := rfl
@[simp] theorem exec_rateWindow {d} {s : State} : exec (.rateWindow d) s = execRateWindow d s := rfl
@[simp] theorem exec_powerMeasure {d power temp} {s : State} : exec (.powerMeasure d power temp) s = execPowerMeasure d power temp s := rfl
@[simp] theorem exec_thermalTrip {coolant} {s : State} : exec (.thermalTrip coolant) s = execThermalTrip coolant s := rfl
@[simp] theorem exec_supplyFault {s : State} : exec (.supplyFault) s = execSupplyFault s := rfl
@[simp] theorem exec_moduleReset {s : State} : exec (.moduleReset) s = execModuleReset s := rfl
@[simp] theorem exec_mctpTelemetry {m} {s : State} : exec (.mctpTelemetry m) s = execMctpTelemetry m s := rfl
@[simp] theorem exec_mctpAttestation {m} {s : State} : exec (.mctpAttestation m) s = execMctpAttestation m s := rfl
@[simp] theorem exec_mctpImageStage {m} {s : State} : exec (.mctpImageStage m) s = execMctpImageStage m s := rfl
@[simp] theorem exec_mctpKeyLoad {m} {s : State} : exec (.mctpKeyLoad m) s = execMctpKeyLoad m s := rfl
@[simp] theorem exec_mctpKeyClear {m} {s : State} : exec (.mctpKeyClear m) s = execMctpKeyClear m s := rfl
@[simp] theorem exec_mctpDebugAuth {m} {s : State} : exec (.mctpDebugAuth m) s = execMctpDebugAuth m s := rfl
@[simp] theorem exec_mctpDebugRevoke {m} {s : State} : exec (.mctpDebugRevoke m) s = execMctpDebugRevoke m s := rfl
@[simp] theorem exec_mctpControl {m} {s : State} : exec (.mctpControl m) s = execMctpControl m s := rfl
@[simp] theorem exec_reservedOpcode {s : State} : exec (.reservedOpcode) s = execReservedOpcode s := rfl
@[simp] theorem exec_illegalLine {s : State} : exec (.illegalLine) s = execIllegalLine s := rfl
@[simp] theorem exec_custom0Reserved {word} {s : State} : exec (.custom0Reserved word) s = execCustom0Reserved word s := rfl
@[simp] theorem exec_hartMemoryAccess {x} {s : State} : exec (.hartMemoryAccess x) s = execHartMemoryAccess x s := rfl
@[simp] theorem exec_hartFence {k} {s : State} : exec (.hartFence k) s = execHartFence k s := rfl
@[simp] theorem exec_reservedPacketType {src w relaxed} {s : State} : exec (.reservedPacketType src w relaxed) s = execReservedPacketType src w relaxed s := rfl
@[simp] theorem exec_coreFailure {d phys} {s : State} : exec (.coreFailure d phys) s = execCoreFailure d phys s := rfl
@[simp] theorem exec_dieReset {d} {s : State} : exec (.dieReset d) s = execDieReset d s := rfl

end Sys2Proof.Machine
end

