-- ==== Sys2Proof/Laws/Table.lean ====
section
/-! SUPPORT. What reading a sparse table or a byte memory gives after a write, and that every write keeps the canonical form. -/

namespace Sys2Proof.Machine

variable {α : Type}

@[simp] theorem tfind_nil (i : Nat) : tfind ([] : Sparse α) i = none := rfl
@[simp] theorem tget_nil (d : α) (i : Nat) : tget d ([] : Sparse α) i = d := rfl

/-- Reading after an insertion. -/
theorem tfind_tins (t : Sparse α) (k i : Nat) (v : α) : tfind (tins t k v) i = if i = k then some v else tfind t i := by
  induction t with
  | nil => simp [tins, tfind]
  | cons p t ih =>
    obtain ⟨j, w⟩ := p
    simp only [tins]
    split
    · simp [tfind]
    · split
      · subst k; simp only [tfind]; split <;> rfl
      · simp only [tfind, ih]
        by_cases h : i = j
        · subst h; simp; intro e; omega
        · simp [h]

/-- Reading after a removal. -/
theorem tfind_tdel (t : Sparse α) (k i : Nat) : tfind (tdel t k) i = if i = k then none else tfind t i := by
  induction t with
  | nil => simp [tdel, tfind]
  | cons p t ih =>
    obtain ⟨j, w⟩ := p
    simp only [tdel]
    split
    · subst k; simp only [ih, tfind]; split <;> rfl
    · simp only [tfind, ih]
      by_cases h : i = j
      · subst h; simp; intro e; omega
      · simp [h]

@[simp] theorem tfind_tins_self (t : Sparse α) (k : Nat) (v : α) : tfind (tins t k v) k = some v := by simp [tfind_tins]
@[simp] theorem tfind_tdel_self (t : Sparse α) (k : Nat) : tfind (tdel t k) k = none := by simp [tfind_tdel]

theorem tget_tins (d : α) (t : Sparse α) (k i : Nat) (v : α) : tget d (tins t k v) i = if i = k then v else tget d t i := by
  simp only [tget, tfind_tins]; split <;> simp

@[simp] theorem tget_tins_self (d : α) (t : Sparse α) (k : Nat) (v : α) : tget d (tins t k v) k = v := by simp [tget_tins]

theorem tget_tins_ne (d : α) (t : Sparse α) {k i : Nat} (v : α) (h : i ≠ k) : tget d (tins t k v) i = tget d t i := by
  simp [tget_tins, h]

/-- Reading after a write. -/
theorem tget_tset [DecidableEq α] (d : α) (t : Sparse α) (k i : Nat) (v : α) :
    tget d (tset d t k v) i = if i = k then v else tget d t i := by
  unfold tset
  split
  · simp only [tget, tfind_tdel]; split <;> simp_all
  · exact tget_tins d t k i v

@[simp] theorem tget_tset_self [DecidableEq α] (d : α) (t : Sparse α) (k : Nat) (v : α) : tget d (tset d t k v) k = v := by
  simp [tget_tset]

theorem tget_tset_ne [DecidableEq α] (d : α) (t : Sparse α) {k i : Nat} (v : α) (h : i ≠ k) :
    tget d (tset d t k v) i = tget d t i := by
  simp [tget_tset, h]

/-! ## The canonical form -/

section
variable [DecidableEq α] (d : α)

/-- A lower bound of a canonical table may be lowered. -/
theorem twfFrom_weaken {t : Sparse α} {lo hi : Option Nat} (h : twfFrom d hi t = true)
    (hl : ∀ l, lo = some l → ∃ m, hi = some m ∧ l ≤ m) : twfFrom d lo t = true := by
  cases t with
  | nil => rfl
  | cons p t =>
    obtain ⟨k, v⟩ := p
    simp only [twfFrom, Bool.and_eq_true, decide_eq_true_eq] at h ⊢
    refine ⟨⟨?_, h.1.2⟩, h.2⟩
    cases lo with
    | none => rfl
    | some l =>
      obtain ⟨m, rfl, hm⟩ := hl l rfl
      have := h.1.1
      simp only [decide_eq_true_eq] at this ⊢
      omega

theorem twfFrom_tins {t : Sparse α} {lo : Option Nat} {k : Nat} {v : α} (h : twfFrom d lo t = true) (hv : v ≠ d)
    (hk : ∀ l, lo = some l → l < k) : twfFrom d lo (tins t k v) = true := by
  induction t generalizing lo with
  | nil =>
    simp only [tins, twfFrom, Bool.and_true, Bool.and_eq_true, decide_eq_true_eq]
    refine ⟨?_, hv⟩
    cases lo with
    | none => rfl
    | some l => simpa using hk l rfl
  | cons p t ih =>
    obtain ⟨j, w⟩ := p
    have h' := h
    simp only [twfFrom, Bool.and_eq_true, decide_eq_true_eq] at h'
    have hlo : twfFrom d lo [(k, v)] = true := by
      simp only [twfFrom, Bool.and_true, Bool.and_eq_true, decide_eq_true_eq]
      refine ⟨?_, hv⟩
      cases lo with
      | none => rfl
      | some l => simpa using hk l rfl
    simp only [twfFrom, Bool.and_true, Bool.and_eq_true, decide_eq_true_eq] at hlo
    simp only [tins]
    split
    · rename_i hkj
      simp only [twfFrom, Bool.and_eq_true, decide_eq_true_eq]
      exact ⟨hlo, ⟨hkj, h'.1.2⟩, h'.2⟩
    · split
      · subst k
        simp only [twfFrom, Bool.and_eq_true, decide_eq_true_eq]
        exact ⟨hlo, h'.2⟩
      · simp only [twfFrom, Bool.and_eq_true, decide_eq_true_eq]
        refine ⟨h'.1, ih h'.2 ?_⟩
        intro l hl
        cases hl
        omega

theorem twfFrom_tdel {t : Sparse α} {lo : Option Nat} {k : Nat} (h : twfFrom d lo t = true) : twfFrom d lo (tdel t k) = true := by
  induction t generalizing lo with
  | nil => rfl
  | cons p t ih =>
    obtain ⟨j, w⟩ := p
    have h' := h
    simp only [twfFrom, Bool.and_eq_true, decide_eq_true_eq] at h'
    simp only [tdel]
    split
    · refine ih (twfFrom_weaken d h'.2 ?_)
      intro l hl
      subst hl
      refine ⟨j, rfl, ?_⟩
      have := h'.1.1
      simp only [decide_eq_true_eq] at this
      omega
    · simp only [twfFrom, Bool.and_eq_true, decide_eq_true_eq]
      exact ⟨h'.1, ih h'.2⟩

/-- A write keeps the canonical form. -/
theorem twf_tset {t : Sparse α} (k : Nat) (v : α) (h : twf d t = true) : twf d (tset d t k v) = true := by
  unfold tset
  split
  · exact twfFrom_tdel d h
  · rename_i hv
    exact twfFrom_tins d h hv (by simp)

end

/-! ## Byte memory -/

theorem memGet_memSet (m : Mem) (a b : Nat) (v : Byte) : memGet (memSet m a v) b = if b = a then v else memGet m b := tget_tset 0 m a b v

theorem memWf_memSet {m : Mem} (a : Nat) (v : Byte) (h : memWf m = true) : memWf (memSet m a v) = true := twf_tset 0 a v h

theorem memWf_memWrite {m : Mem} (n a v : Nat) (h : memWf m = true) : memWf (memWrite m a n v) = true := by
  induction n generalizing m a v with
  | zero => exact h
  | succ n ih => exact ih _ _ (memWf_memSet _ _ h)

theorem memWf_memPut {m : Mem} (bs : List Byte) (a : Nat) (h : memWf m = true) : memWf (memPut m a bs) = true := by
  induction bs generalizing m a with
  | nil => exact h
  | cons b bs ih => exact ih _ (memWf_memSet _ _ h)

/-- `memWrite` changes the `n` bytes from `a` and no other. -/
theorem memGet_memWrite_outside {m : Mem} (n a v b : Nat) (h : b < a ∨ a + n ≤ b) : memGet (memWrite m a n v) b = memGet m b := by
  induction n generalizing m a v with
  | zero => rfl
  | succ n ih =>
    simp only [memWrite]
    rw [ih _ _ (by omega), memGet_memSet, if_neg (by omega)]

/-- `memPut` changes the bytes it is given and no other. -/
theorem memGet_memPut_outside {m : Mem} (bs : List Byte) (a b : Nat) (h : b < a ∨ a + bs.length ≤ b) :
    memGet (memPut m a bs) b = memGet m b := by
  induction bs generalizing m a with
  | nil => rfl
  | cons x bs ih =>
    simp only [List.length_cons] at h
    simp only [memPut]
    rw [ih _ (by omega), memGet_memSet, if_neg (by omega)]

/-- The bytes written read back. -/
theorem memGet_memWrite_inside {m : Mem} (n a v i : Nat) (h : i < n) :
    memGet (memWrite m a n v) (a + i) = BitVec.ofNat 8 (v / 256 ^ i) := by
  induction n generalizing m a v i with
  | zero => omega
  | succ n ih =>
    cases i with
    | zero =>
      simp only [memWrite, Nat.add_zero, Nat.pow_zero, Nat.div_one]
      rw [memGet_memWrite_outside _ _ _ _ (by omega), memGet_memSet, if_pos rfl]
    | succ i =>
      simp only [memWrite]
      rw [show a + (i + 1) = (a + 1) + i by omega, ih _ _ _ (by omega), Nat.div_div_eq_div_mul, Nat.pow_succ, Nat.mul_comm]

end Sys2Proof.Machine
end

