-- ==== Sys2Proof/Laws/State.lean ====
section
/-! SUPPORT. One lemma per field and update of the state: what each update leaves as it was, and what reading after it gives. -/

namespace Sys2Proof.Machine

/-! ## State.setDie -/

@[simp] theorem State_setDie_cur (s : State) (d : Nat) (v : Die) : (s.setDie d v).cur = s.cur := rfl
@[simp] theorem State_setDie_sched (s : State) (d : Nat) (v : Die) : (s.setDie d v).sched = s.sched := rfl
@[simp] theorem State_setDie_tick (s : State) (d : Nat) (v : Die) : (s.setDie d v).tick = s.tick := rfl
@[simp] theorem State_setDie_pkg (s : State) (d : Nat) (v : Die) : (s.setDie d v).pkg = s.pkg := rfl
@[simp] theorem State_setDie_mem (s : State) (d : Nat) (v : Die) : (s.setDie d v).mem = s.mem := rfl
@[simp] theorem State_setDie_host (s : State) (d : Nat) (v : Die) : (s.setDie d v).host = s.host := rfl
@[simp] theorem State_setDie_pool (s : State) (d : Nat) (v : Die) : (s.setDie d v).pool = s.pool := rfl
@[simp] theorem State_setDie_cxlMode (s : State) (d : Nat) (v : Die) : (s.setDie d v).cxlMode = s.cxlMode := rfl
@[simp] theorem State_setDie_net (s : State) (d : Nat) (v : Die) : (s.setDie d v).net = s.net := rfl
@[simp] theorem State_setDie_sx (s : State) (d : Nat) (v : Die) : (s.setDie d v).sx = s.sx := rfl
@[simp] theorem State_setDie_sy (s : State) (d : Nat) (v : Die) : (s.setDie d v).sy = s.sy := rfl
@[simp] theorem State_setDie_sz (s : State) (d : Nat) (v : Die) : (s.setDie d v).sz = s.sz := rfl
@[simp] theorem State_setDie_up (s : State) (d : Nat) (v : Die) : (s.setDie d v).up = s.up := rfl
@[simp] theorem State_setDie_nextPkt (s : State) (d : Nat) (v : Die) : (s.setDie d v).nextPkt = s.nextPkt := rfl
@[simp] theorem State_setDie_launches (s : State) (d : Nat) (v : Die) : (s.setDie d v).launches = s.launches := rfl
@[simp] theorem State_setDie_images (s : State) (d : Nat) (v : Die) : (s.setDie d v).images = s.images := rfl
@[simp] theorem State_setDie_graphs (s : State) (d : Nat) (v : Die) : (s.setDie d v).graphs = s.graphs := rfl
@[simp] theorem State_setDie_nextLaunch (s : State) (d : Nat) (v : Die) : (s.setDie d v).nextLaunch = s.nextLaunch := rfl
@[simp] theorem State_setDie_nextReplay (s : State) (d : Nat) (v : Die) : (s.setDie d v).nextReplay = s.nextReplay := rfl
@[simp] theorem State_setDie_aper (s : State) (d : Nat) (v : Die) : (s.setDie d v).aper = s.aper := rfl
@[simp] theorem State_setDie_fnFrz (s : State) (d : Nat) (v : Die) : (s.setDie d v).fnFrz = s.fnFrz := rfl
@[simp] theorem State_setDie_migs (s : State) (d : Nat) (v : Die) : (s.setDie d v).migs = s.migs := rfl
@[simp] theorem State_setDie_postBox (s : State) (d : Nat) (v : Die) : (s.setDie d v).postBox = s.postBox := rfl
@[simp] theorem State_setDie_msix (s : State) (d : Nat) (v : Die) : (s.setDie d v).msix = s.msix := rfl
@[simp] theorem State_setDie_nextMig (s : State) (d : Nat) (v : Die) : (s.setDie d v).nextMig = s.nextMig := rfl
@[simp] theorem State_setDie_notices (s : State) (d : Nat) (v : Die) : (s.setDie d v).notices = s.notices := rfl
@[simp] theorem State_setDie_debug (s : State) (d : Nat) (v : Die) : (s.setDie d v).debug = s.debug := rfl
@[simp] theorem State_setDie_dil (s : State) (d : Nat) (v : Die) : (s.setDie d v).dil = s.dil := rfl
@[simp] theorem State_setDie_boot (s : State) (d : Nat) (v : Die) : (s.setDie d v).boot = s.boot := rfl
@[simp] theorem State_setDie_unreported (s : State) (d : Nat) (v : Die) : (s.setDie d v).unreported = s.unreported := rfl
@[simp] theorem State_setDie_kept (s : State) (d : Nat) (v : Die) : (s.setDie d v).kept = s.kept := rfl
@[simp] theorem State_setDie_hostOut (s : State) (d : Nat) (v : Die) : (s.setDie d v).hostOut = s.hostOut := rfl
@[simp] theorem State_setDie_memBad (s : State) (d : Nat) (v : Die) : (s.setDie d v).memBad = s.memBad := rfl
@[simp] theorem State_setDie_apAt (s : State) (d : Nat) (v : Die) : (s.setDie d v).apAt = s.apAt := rfl
@[simp] theorem State_setDie_slots (s : State) (d : Nat) (v : Die) : (s.setDie d v).slots = s.slots := rfl

/-! ## State.setCore -/

@[simp] theorem State_setCore_cur (s : State) (d c : Nat) (k : Core) : (s.setCore d c k).cur = s.cur := rfl
@[simp] theorem State_setCore_sched (s : State) (d c : Nat) (k : Core) : (s.setCore d c k).sched = s.sched := rfl
@[simp] theorem State_setCore_tick (s : State) (d c : Nat) (k : Core) : (s.setCore d c k).tick = s.tick := rfl
@[simp] theorem State_setCore_pkg (s : State) (d c : Nat) (k : Core) : (s.setCore d c k).pkg = s.pkg := rfl
@[simp] theorem State_setCore_mem (s : State) (d c : Nat) (k : Core) : (s.setCore d c k).mem = s.mem := rfl
@[simp] theorem State_setCore_host (s : State) (d c : Nat) (k : Core) : (s.setCore d c k).host = s.host := rfl
@[simp] theorem State_setCore_pool (s : State) (d c : Nat) (k : Core) : (s.setCore d c k).pool = s.pool := rfl
@[simp] theorem State_setCore_cxlMode (s : State) (d c : Nat) (k : Core) : (s.setCore d c k).cxlMode = s.cxlMode := rfl
@[simp] theorem State_setCore_net (s : State) (d c : Nat) (k : Core) : (s.setCore d c k).net = s.net := rfl
@[simp] theorem State_setCore_sx (s : State) (d c : Nat) (k : Core) : (s.setCore d c k).sx = s.sx := rfl
@[simp] theorem State_setCore_sy (s : State) (d c : Nat) (k : Core) : (s.setCore d c k).sy = s.sy := rfl
@[simp] theorem State_setCore_sz (s : State) (d c : Nat) (k : Core) : (s.setCore d c k).sz = s.sz := rfl
@[simp] theorem State_setCore_up (s : State) (d c : Nat) (k : Core) : (s.setCore d c k).up = s.up := rfl
@[simp] theorem State_setCore_nextPkt (s : State) (d c : Nat) (k : Core) : (s.setCore d c k).nextPkt = s.nextPkt := rfl
@[simp] theorem State_setCore_launches (s : State) (d c : Nat) (k : Core) : (s.setCore d c k).launches = s.launches := rfl
@[simp] theorem State_setCore_images (s : State) (d c : Nat) (k : Core) : (s.setCore d c k).images = s.images := rfl
@[simp] theorem State_setCore_graphs (s : State) (d c : Nat) (k : Core) : (s.setCore d c k).graphs = s.graphs := rfl
@[simp] theorem State_setCore_nextLaunch (s : State) (d c : Nat) (k : Core) : (s.setCore d c k).nextLaunch = s.nextLaunch := rfl
@[simp] theorem State_setCore_nextReplay (s : State) (d c : Nat) (k : Core) : (s.setCore d c k).nextReplay = s.nextReplay := rfl
@[simp] theorem State_setCore_aper (s : State) (d c : Nat) (k : Core) : (s.setCore d c k).aper = s.aper := rfl
@[simp] theorem State_setCore_fnFrz (s : State) (d c : Nat) (k : Core) : (s.setCore d c k).fnFrz = s.fnFrz := rfl
@[simp] theorem State_setCore_migs (s : State) (d c : Nat) (k : Core) : (s.setCore d c k).migs = s.migs := rfl
@[simp] theorem State_setCore_postBox (s : State) (d c : Nat) (k : Core) : (s.setCore d c k).postBox = s.postBox := rfl
@[simp] theorem State_setCore_msix (s : State) (d c : Nat) (k : Core) : (s.setCore d c k).msix = s.msix := rfl
@[simp] theorem State_setCore_nextMig (s : State) (d c : Nat) (k : Core) : (s.setCore d c k).nextMig = s.nextMig := rfl
@[simp] theorem State_setCore_notices (s : State) (d c : Nat) (k : Core) : (s.setCore d c k).notices = s.notices := rfl
@[simp] theorem State_setCore_debug (s : State) (d c : Nat) (k : Core) : (s.setCore d c k).debug = s.debug := rfl
@[simp] theorem State_setCore_dil (s : State) (d c : Nat) (k : Core) : (s.setCore d c k).dil = s.dil := rfl
@[simp] theorem State_setCore_boot (s : State) (d c : Nat) (k : Core) : (s.setCore d c k).boot = s.boot := rfl
@[simp] theorem State_setCore_unreported (s : State) (d c : Nat) (k : Core) : (s.setCore d c k).unreported = s.unreported := rfl
@[simp] theorem State_setCore_kept (s : State) (d c : Nat) (k : Core) : (s.setCore d c k).kept = s.kept := rfl
@[simp] theorem State_setCore_hostOut (s : State) (d c : Nat) (k : Core) : (s.setCore d c k).hostOut = s.hostOut := rfl
@[simp] theorem State_setCore_memBad (s : State) (d c : Nat) (k : Core) : (s.setCore d c k).memBad = s.memBad := rfl
@[simp] theorem State_setCore_apAt (s : State) (d c : Nat) (k : Core) : (s.setCore d c k).apAt = s.apAt := rfl
@[simp] theorem State_setCore_slots (s : State) (d c : Nat) (k : Core) : (s.setCore d c k).slots = s.slots := rfl

/-! ## State.setAct -/

@[simp] theorem State_setAct_cur (s : State) (d c : Nat) (a : SetState) : (s.setAct d c a).cur = s.cur := rfl
@[simp] theorem State_setAct_sched (s : State) (d c : Nat) (a : SetState) : (s.setAct d c a).sched = s.sched := rfl
@[simp] theorem State_setAct_tick (s : State) (d c : Nat) (a : SetState) : (s.setAct d c a).tick = s.tick := rfl
@[simp] theorem State_setAct_pkg (s : State) (d c : Nat) (a : SetState) : (s.setAct d c a).pkg = s.pkg := rfl
@[simp] theorem State_setAct_mem (s : State) (d c : Nat) (a : SetState) : (s.setAct d c a).mem = s.mem := rfl
@[simp] theorem State_setAct_host (s : State) (d c : Nat) (a : SetState) : (s.setAct d c a).host = s.host := rfl
@[simp] theorem State_setAct_pool (s : State) (d c : Nat) (a : SetState) : (s.setAct d c a).pool = s.pool := rfl
@[simp] theorem State_setAct_cxlMode (s : State) (d c : Nat) (a : SetState) : (s.setAct d c a).cxlMode = s.cxlMode := rfl
@[simp] theorem State_setAct_net (s : State) (d c : Nat) (a : SetState) : (s.setAct d c a).net = s.net := rfl
@[simp] theorem State_setAct_sx (s : State) (d c : Nat) (a : SetState) : (s.setAct d c a).sx = s.sx := rfl
@[simp] theorem State_setAct_sy (s : State) (d c : Nat) (a : SetState) : (s.setAct d c a).sy = s.sy := rfl
@[simp] theorem State_setAct_sz (s : State) (d c : Nat) (a : SetState) : (s.setAct d c a).sz = s.sz := rfl
@[simp] theorem State_setAct_up (s : State) (d c : Nat) (a : SetState) : (s.setAct d c a).up = s.up := rfl
@[simp] theorem State_setAct_nextPkt (s : State) (d c : Nat) (a : SetState) : (s.setAct d c a).nextPkt = s.nextPkt := rfl
@[simp] theorem State_setAct_launches (s : State) (d c : Nat) (a : SetState) : (s.setAct d c a).launches = s.launches := rfl
@[simp] theorem State_setAct_images (s : State) (d c : Nat) (a : SetState) : (s.setAct d c a).images = s.images := rfl
@[simp] theorem State_setAct_graphs (s : State) (d c : Nat) (a : SetState) : (s.setAct d c a).graphs = s.graphs := rfl
@[simp] theorem State_setAct_nextLaunch (s : State) (d c : Nat) (a : SetState) : (s.setAct d c a).nextLaunch = s.nextLaunch := rfl
@[simp] theorem State_setAct_nextReplay (s : State) (d c : Nat) (a : SetState) : (s.setAct d c a).nextReplay = s.nextReplay := rfl
@[simp] theorem State_setAct_aper (s : State) (d c : Nat) (a : SetState) : (s.setAct d c a).aper = s.aper := rfl
@[simp] theorem State_setAct_fnFrz (s : State) (d c : Nat) (a : SetState) : (s.setAct d c a).fnFrz = s.fnFrz := rfl
@[simp] theorem State_setAct_migs (s : State) (d c : Nat) (a : SetState) : (s.setAct d c a).migs = s.migs := rfl
@[simp] theorem State_setAct_postBox (s : State) (d c : Nat) (a : SetState) : (s.setAct d c a).postBox = s.postBox := rfl
@[simp] theorem State_setAct_msix (s : State) (d c : Nat) (a : SetState) : (s.setAct d c a).msix = s.msix := rfl
@[simp] theorem State_setAct_nextMig (s : State) (d c : Nat) (a : SetState) : (s.setAct d c a).nextMig = s.nextMig := rfl
@[simp] theorem State_setAct_notices (s : State) (d c : Nat) (a : SetState) : (s.setAct d c a).notices = s.notices := rfl
@[simp] theorem State_setAct_debug (s : State) (d c : Nat) (a : SetState) : (s.setAct d c a).debug = s.debug := rfl
@[simp] theorem State_setAct_dil (s : State) (d c : Nat) (a : SetState) : (s.setAct d c a).dil = s.dil := rfl
@[simp] theorem State_setAct_boot (s : State) (d c : Nat) (a : SetState) : (s.setAct d c a).boot = s.boot := rfl
@[simp] theorem State_setAct_unreported (s : State) (d c : Nat) (a : SetState) : (s.setAct d c a).unreported = s.unreported := rfl
@[simp] theorem State_setAct_kept (s : State) (d c : Nat) (a : SetState) : (s.setAct d c a).kept = s.kept := rfl
@[simp] theorem State_setAct_hostOut (s : State) (d c : Nat) (a : SetState) : (s.setAct d c a).hostOut = s.hostOut := rfl
@[simp] theorem State_setAct_memBad (s : State) (d c : Nat) (a : SetState) : (s.setAct d c a).memBad = s.memBad := rfl
@[simp] theorem State_setAct_apAt (s : State) (d c : Nat) (a : SetState) : (s.setAct d c a).apAt = s.apAt := rfl
@[simp] theorem State_setAct_slots (s : State) (d c : Nat) (a : SetState) : (s.setAct d c a).slots = s.slots := rfl

/-! ## State.setCtx -/

@[simp] theorem State_setCtx_cur (s : State) (e : Env) (x : Ctx) : (s.setCtx e x).cur = s.cur := rfl
@[simp] theorem State_setCtx_sched (s : State) (e : Env) (x : Ctx) : (s.setCtx e x).sched = s.sched := rfl
@[simp] theorem State_setCtx_tick (s : State) (e : Env) (x : Ctx) : (s.setCtx e x).tick = s.tick := rfl
@[simp] theorem State_setCtx_pkg (s : State) (e : Env) (x : Ctx) : (s.setCtx e x).pkg = s.pkg := rfl
@[simp] theorem State_setCtx_mem (s : State) (e : Env) (x : Ctx) : (s.setCtx e x).mem = s.mem := rfl
@[simp] theorem State_setCtx_host (s : State) (e : Env) (x : Ctx) : (s.setCtx e x).host = s.host := rfl
@[simp] theorem State_setCtx_pool (s : State) (e : Env) (x : Ctx) : (s.setCtx e x).pool = s.pool := rfl
@[simp] theorem State_setCtx_cxlMode (s : State) (e : Env) (x : Ctx) : (s.setCtx e x).cxlMode = s.cxlMode := rfl
@[simp] theorem State_setCtx_net (s : State) (e : Env) (x : Ctx) : (s.setCtx e x).net = s.net := rfl
@[simp] theorem State_setCtx_sx (s : State) (e : Env) (x : Ctx) : (s.setCtx e x).sx = s.sx := rfl
@[simp] theorem State_setCtx_sy (s : State) (e : Env) (x : Ctx) : (s.setCtx e x).sy = s.sy := rfl
@[simp] theorem State_setCtx_sz (s : State) (e : Env) (x : Ctx) : (s.setCtx e x).sz = s.sz := rfl
@[simp] theorem State_setCtx_up (s : State) (e : Env) (x : Ctx) : (s.setCtx e x).up = s.up := rfl
@[simp] theorem State_setCtx_nextPkt (s : State) (e : Env) (x : Ctx) : (s.setCtx e x).nextPkt = s.nextPkt := rfl
@[simp] theorem State_setCtx_launches (s : State) (e : Env) (x : Ctx) : (s.setCtx e x).launches = s.launches := rfl
@[simp] theorem State_setCtx_images (s : State) (e : Env) (x : Ctx) : (s.setCtx e x).images = s.images := rfl
@[simp] theorem State_setCtx_graphs (s : State) (e : Env) (x : Ctx) : (s.setCtx e x).graphs = s.graphs := rfl
@[simp] theorem State_setCtx_nextLaunch (s : State) (e : Env) (x : Ctx) : (s.setCtx e x).nextLaunch = s.nextLaunch := rfl
@[simp] theorem State_setCtx_nextReplay (s : State) (e : Env) (x : Ctx) : (s.setCtx e x).nextReplay = s.nextReplay := rfl
@[simp] theorem State_setCtx_aper (s : State) (e : Env) (x : Ctx) : (s.setCtx e x).aper = s.aper := rfl
@[simp] theorem State_setCtx_fnFrz (s : State) (e : Env) (x : Ctx) : (s.setCtx e x).fnFrz = s.fnFrz := rfl
@[simp] theorem State_setCtx_migs (s : State) (e : Env) (x : Ctx) : (s.setCtx e x).migs = s.migs := rfl
@[simp] theorem State_setCtx_postBox (s : State) (e : Env) (x : Ctx) : (s.setCtx e x).postBox = s.postBox := rfl
@[simp] theorem State_setCtx_msix (s : State) (e : Env) (x : Ctx) : (s.setCtx e x).msix = s.msix := rfl
@[simp] theorem State_setCtx_nextMig (s : State) (e : Env) (x : Ctx) : (s.setCtx e x).nextMig = s.nextMig := rfl
@[simp] theorem State_setCtx_notices (s : State) (e : Env) (x : Ctx) : (s.setCtx e x).notices = s.notices := rfl
@[simp] theorem State_setCtx_debug (s : State) (e : Env) (x : Ctx) : (s.setCtx e x).debug = s.debug := rfl
@[simp] theorem State_setCtx_dil (s : State) (e : Env) (x : Ctx) : (s.setCtx e x).dil = s.dil := rfl
@[simp] theorem State_setCtx_boot (s : State) (e : Env) (x : Ctx) : (s.setCtx e x).boot = s.boot := rfl
@[simp] theorem State_setCtx_unreported (s : State) (e : Env) (x : Ctx) : (s.setCtx e x).unreported = s.unreported := rfl
@[simp] theorem State_setCtx_kept (s : State) (e : Env) (x : Ctx) : (s.setCtx e x).kept = s.kept := rfl
@[simp] theorem State_setCtx_hostOut (s : State) (e : Env) (x : Ctx) : (s.setCtx e x).hostOut = s.hostOut := rfl
@[simp] theorem State_setCtx_memBad (s : State) (e : Env) (x : Ctx) : (s.setCtx e x).memBad = s.memBad := rfl
@[simp] theorem State_setCtx_apAt (s : State) (e : Env) (x : Ctx) : (s.setCtx e x).apAt = s.apAt := rfl
@[simp] theorem State_setCtx_slots (s : State) (e : Env) (x : Ctx) : (s.setCtx e x).slots = s.slots := rfl

/-! ## State.setSlotOf -/

@[simp] theorem State_setSlotOf_cur (s : State) (e : Env) (x : Slot) : (s.setSlotOf e x).cur = s.cur := rfl
@[simp] theorem State_setSlotOf_sched (s : State) (e : Env) (x : Slot) : (s.setSlotOf e x).sched = s.sched := rfl
@[simp] theorem State_setSlotOf_tick (s : State) (e : Env) (x : Slot) : (s.setSlotOf e x).tick = s.tick := rfl
@[simp] theorem State_setSlotOf_pkg (s : State) (e : Env) (x : Slot) : (s.setSlotOf e x).pkg = s.pkg := rfl
@[simp] theorem State_setSlotOf_mem (s : State) (e : Env) (x : Slot) : (s.setSlotOf e x).mem = s.mem := rfl
@[simp] theorem State_setSlotOf_host (s : State) (e : Env) (x : Slot) : (s.setSlotOf e x).host = s.host := rfl
@[simp] theorem State_setSlotOf_pool (s : State) (e : Env) (x : Slot) : (s.setSlotOf e x).pool = s.pool := rfl
@[simp] theorem State_setSlotOf_cxlMode (s : State) (e : Env) (x : Slot) : (s.setSlotOf e x).cxlMode = s.cxlMode := rfl
@[simp] theorem State_setSlotOf_net (s : State) (e : Env) (x : Slot) : (s.setSlotOf e x).net = s.net := rfl
@[simp] theorem State_setSlotOf_sx (s : State) (e : Env) (x : Slot) : (s.setSlotOf e x).sx = s.sx := rfl
@[simp] theorem State_setSlotOf_sy (s : State) (e : Env) (x : Slot) : (s.setSlotOf e x).sy = s.sy := rfl
@[simp] theorem State_setSlotOf_sz (s : State) (e : Env) (x : Slot) : (s.setSlotOf e x).sz = s.sz := rfl
@[simp] theorem State_setSlotOf_up (s : State) (e : Env) (x : Slot) : (s.setSlotOf e x).up = s.up := rfl
@[simp] theorem State_setSlotOf_nextPkt (s : State) (e : Env) (x : Slot) : (s.setSlotOf e x).nextPkt = s.nextPkt := rfl
@[simp] theorem State_setSlotOf_launches (s : State) (e : Env) (x : Slot) : (s.setSlotOf e x).launches = s.launches := rfl
@[simp] theorem State_setSlotOf_images (s : State) (e : Env) (x : Slot) : (s.setSlotOf e x).images = s.images := rfl
@[simp] theorem State_setSlotOf_graphs (s : State) (e : Env) (x : Slot) : (s.setSlotOf e x).graphs = s.graphs := rfl
@[simp] theorem State_setSlotOf_nextLaunch (s : State) (e : Env) (x : Slot) : (s.setSlotOf e x).nextLaunch = s.nextLaunch := rfl
@[simp] theorem State_setSlotOf_nextReplay (s : State) (e : Env) (x : Slot) : (s.setSlotOf e x).nextReplay = s.nextReplay := rfl
@[simp] theorem State_setSlotOf_aper (s : State) (e : Env) (x : Slot) : (s.setSlotOf e x).aper = s.aper := rfl
@[simp] theorem State_setSlotOf_fnFrz (s : State) (e : Env) (x : Slot) : (s.setSlotOf e x).fnFrz = s.fnFrz := rfl
@[simp] theorem State_setSlotOf_migs (s : State) (e : Env) (x : Slot) : (s.setSlotOf e x).migs = s.migs := rfl
@[simp] theorem State_setSlotOf_postBox (s : State) (e : Env) (x : Slot) : (s.setSlotOf e x).postBox = s.postBox := rfl
@[simp] theorem State_setSlotOf_msix (s : State) (e : Env) (x : Slot) : (s.setSlotOf e x).msix = s.msix := rfl
@[simp] theorem State_setSlotOf_nextMig (s : State) (e : Env) (x : Slot) : (s.setSlotOf e x).nextMig = s.nextMig := rfl
@[simp] theorem State_setSlotOf_notices (s : State) (e : Env) (x : Slot) : (s.setSlotOf e x).notices = s.notices := rfl
@[simp] theorem State_setSlotOf_debug (s : State) (e : Env) (x : Slot) : (s.setSlotOf e x).debug = s.debug := rfl
@[simp] theorem State_setSlotOf_dil (s : State) (e : Env) (x : Slot) : (s.setSlotOf e x).dil = s.dil := rfl
@[simp] theorem State_setSlotOf_boot (s : State) (e : Env) (x : Slot) : (s.setSlotOf e x).boot = s.boot := rfl
@[simp] theorem State_setSlotOf_unreported (s : State) (e : Env) (x : Slot) : (s.setSlotOf e x).unreported = s.unreported := rfl
@[simp] theorem State_setSlotOf_kept (s : State) (e : Env) (x : Slot) : (s.setSlotOf e x).kept = s.kept := rfl
@[simp] theorem State_setSlotOf_hostOut (s : State) (e : Env) (x : Slot) : (s.setSlotOf e x).hostOut = s.hostOut := rfl
@[simp] theorem State_setSlotOf_memBad (s : State) (e : Env) (x : Slot) : (s.setSlotOf e x).memBad = s.memBad := rfl
@[simp] theorem State_setSlotOf_apAt (s : State) (e : Env) (x : Slot) : (s.setSlotOf e x).apAt = s.apAt := rfl
@[simp] theorem State_setSlotOf_slots (s : State) (e : Env) (x : Slot) : (s.setSlotOf e x).slots = s.slots := rfl

/-! ## Die.setCore -/

@[simp] theorem Die_setCore_streams (v : Die) (c : Nat) (k : Core) : (v.setCore c k).streams = v.streams := rfl
@[simp] theorem Die_setCore_fresh (v : Die) (c : Nat) (k : Core) : (v.setCore c k).fresh = v.fresh := rfl
@[simp] theorem Die_setCore_freed (v : Die) (c : Nat) (k : Core) : (v.setCore c k).freed = v.freed := rfl
@[simp] theorem Die_setCore_spw (v : Die) (c : Nat) (k : Core) : (v.setCore c k).spw = v.spw := rfl
@[simp] theorem Die_setCore_resid (v : Die) (c : Nat) (k : Core) : (v.setCore c k).resid = v.resid := rfl
@[simp] theorem Die_setCore_frames (v : Die) (c : Nat) (k : Core) : (v.setCore c k).frames = v.frames := rfl
@[simp] theorem Die_setCore_cascade (v : Die) (c : Nat) (k : Core) : (v.setCore c k).cascade = v.cascade := rfl
@[simp] theorem Die_setCore_dq (v : Die) (c : Nat) (k : Core) : (v.setCore c k).dq = v.dq := rfl
@[simp] theorem Die_setCore_rr (v : Die) (c : Nat) (k : Core) : (v.setCore c k).rr = v.rr := rfl
@[simp] theorem Die_setCore_groups (v : Die) (c : Nat) (k : Core) : (v.setCore c k).groups = v.groups := rfl
@[simp] theorem Die_setCore_perf (v : Die) (c : Nat) (k : Core) : (v.setCore c k).perf = v.perf := rfl
@[simp] theorem Die_setCore_phys (v : Die) (c : Nat) (k : Core) : (v.setCore c k).phys = v.phys := rfl
@[simp] theorem Die_setCore_dead (v : Die) (c : Nat) (k : Core) : (v.setCore c k).dead = v.dead := rfl
@[simp] theorem Die_setCore_fab (v : Die) (c : Nat) (k : Core) : (v.setCore c k).fab = v.fab := rfl
@[simp] theorem Die_setCore_dir (v : Die) (c : Nat) (k : Core) : (v.setCore c k).dir = v.dir := rfl
@[simp] theorem Die_setCore_proxy (v : Die) (c : Nat) (k : Core) : (v.setCore c k).proxy = v.proxy := rfl
@[simp] theorem Die_setCore_tlb (v : Die) (c : Nat) (k : Core) : (v.setCore c k).tlb = v.tlb := rfl
@[simp] theorem Die_setCore_root (v : Die) (c : Nat) (k : Core) : (v.setCore c k).root = v.root := rfl
@[simp] theorem Die_setCore_ddir (v : Die) (c : Nat) (k : Core) : (v.setCore c k).ddir = v.ddir := rfl
@[simp] theorem Die_setCore_malf (v : Die) (c : Nat) (k : Core) : (v.setCore c k).malf = v.malf := rfl
@[simp] theorem Die_setCore_gangs (v : Die) (c : Nat) (k : Core) : (v.setCore c k).gangs = v.gangs := rfl
@[simp] theorem Die_setCore_gangSeq (v : Die) (c : Nat) (k : Core) : (v.setCore c k).gangSeq = v.gangSeq := rfl
@[simp] theorem Die_setCore_parts (v : Die) (c : Nat) (k : Core) : (v.setCore c k).parts = v.parts := rfl
@[simp] theorem Die_setCore_reports (v : Die) (c : Nat) (k : Core) : (v.setCore c k).reports = v.reports := rfl
@[simp] theorem Die_setCore_ctl (v : Die) (c : Nat) (k : Core) : (v.setCore c k).ctl = v.ctl := rfl
@[simp] theorem Die_setCore_keepers (v : Die) (c : Nat) (k : Core) : (v.setCore c k).keepers = v.keepers := rfl
@[simp] theorem Die_setCore_shoot (v : Die) (c : Nat) (k : Core) : (v.setCore c k).shoot = v.shoot := rfl
@[simp] theorem Die_setCore_keys (v : Die) (c : Nat) (k : Core) : (v.setCore c k).keys = v.keys := rfl
@[simp] theorem Die_setCore_engFrz (v : Die) (c : Nat) (k : Core) : (v.setCore c k).engFrz = v.engFrz := rfl
@[simp] theorem Die_setCore_saved (v : Die) (c : Nat) (k : Core) : (v.setCore c k).saved = v.saved := rfl
@[simp] theorem Die_setCore_slices (v : Die) (c : Nat) (k : Core) : (v.setCore c k).slices = v.slices := rfl
@[simp] theorem Die_setCore_dcyc (v : Die) (c : Nat) (k : Core) : (v.setCore c k).dcyc = v.dcyc := rfl
@[simp] theorem Die_setCore_lrecs (v : Die) (c : Nat) (k : Core) : (v.setCore c k).lrecs = v.lrecs := rfl
@[simp] theorem Die_setCore_lq (v : Die) (c : Nat) (k : Core) : (v.setCore c k).lq = v.lq := rfl
@[simp] theorem Die_setCore_pcopy (v : Die) (c : Nat) (k : Core) : (v.setCore c k).pcopy = v.pcopy := rfl
@[simp] theorem Die_setCore_cxlSeq (v : Die) (c : Nat) (k : Core) : (v.setCore c k).cxlSeq = v.cxlSeq := rfl
@[simp] theorem Die_setCore_errs (v : Die) (c : Nat) (k : Core) : (v.setCore c k).errs = v.errs := rfl
@[simp] theorem Die_setCore_power (v : Die) (c : Nat) (k : Core) : (v.setCore c k).power = v.power := rfl
@[simp] theorem Die_setCore_temp (v : Die) (c : Nat) (k : Core) : (v.setCore c k).temp = v.temp := rfl
@[simp] theorem Die_setCore_capped (v : Die) (c : Nat) (k : Core) : (v.setCore c k).capped = v.capped := rfl
@[simp] theorem Die_setCore_measured (v : Die) (c : Nat) (k : Core) : (v.setCore c k).measured = v.measured := rfl
@[simp] theorem Die_setCore_errAt (v : Die) (c : Nat) (k : Core) : (v.setCore c k).errAt = v.errAt := rfl
@[simp] theorem Die_setCore_failAt (v : Die) (c : Nat) (k : Core) : (v.setCore c k).failAt = v.failAt := rfl
@[simp] theorem Die_setCore_replays (v : Die) (c : Nat) (k : Core) : (v.setCore c k).replays = v.replays := rfl
@[simp] theorem Die_setCore_laneErr (v : Die) (c : Nat) (k : Core) : (v.setCore c k).laneErr = v.laneErr := rfl
@[simp] theorem Die_setCore_downPorts (v : Die) (c : Nat) (k : Core) : (v.setCore c k).downPorts = v.downPorts := rfl
@[simp] theorem Die_setCore_engSeq (v : Die) (c : Nat) (k : Core) : (v.setCore c k).engSeq = v.engSeq := rfl
@[simp] theorem Die_setCore_rowErr (v : Die) (c : Nat) (k : Core) : (v.setCore c k).rowErr = v.rowErr := rfl

/-! ## Core.setPend -/

@[simp] theorem Core_setPend_act (k : Core) (i : Nat) (p : Pend) : (k.setPend i p).act = k.act := rfl
@[simp] theorem Core_setPend_shd (k : Core) (i : Nat) (p : Pend) : (k.setPend i p).shd = k.shd := rfl
@[simp] theorem Core_setPend_setB (k : Core) (i : Nat) (p : Pend) : (k.setPend i p).setB = k.setB := rfl
@[simp] theorem Core_setPend_next (k : Core) (i : Nat) (p : Pend) : (k.setPend i p).next = k.next := rfl
@[simp] theorem Core_setPend_shear (k : Core) (i : Nat) (p : Pend) : (k.setPend i p).shear = k.shear := rfl
@[simp] theorem Core_setPend_wake (k : Core) (i : Nat) (p : Pend) : (k.setPend i p).wake = k.wake := rfl
@[simp] theorem Core_setPend_hart (k : Core) (i : Nat) (p : Pend) : (k.setPend i p).hart = k.hart := rfl
@[simp] theorem Core_setPend_plb (k : Core) (i : Nat) (p : Pend) : (k.setPend i p).plb = k.plb := rfl
@[simp] theorem Core_setPend_wbuf (k : Core) (i : Nat) (p : Pend) : (k.setPend i p).wbuf = k.wbuf := rfl
@[simp] theorem Core_setPend_sb (k : Core) (i : Nat) (p : Pend) : (k.setPend i p).sb = k.sb := rfl
@[simp] theorem Core_setPend_sbSeq (k : Core) (i : Nat) (p : Pend) : (k.setPend i p).sbSeq = k.sbSeq := rfl
@[simp] theorem Core_setPend_updates (k : Core) (i : Nat) (p : Pend) : (k.setPend i p).updates = k.updates := rfl
@[simp] theorem Core_setPend_arr (k : Core) (i : Nat) (p : Pend) : (k.setPend i p).arr = k.arr := rfl
@[simp] theorem Core_setPend_cyc (k : Core) (i : Nat) (p : Pend) : (k.setPend i p).cyc = k.cyc := rfl
@[simp] theorem Core_setPend_load (k : Core) (i : Nat) (p : Pend) : (k.setPend i p).load = k.load := rfl
@[simp] theorem Core_setPend_gangto (k : Core) (i : Nat) (p : Pend) : (k.setPend i p).gangto = k.gangto := rfl
@[simp] theorem Core_setPend_pack (k : Core) (i : Nat) (p : Pend) : (k.setPend i p).pack = k.pack := rfl
@[simp] theorem Core_setPend_preq (k : Core) (i : Nat) (p : Pend) : (k.setPend i p).preq = k.preq := rfl
@[simp] theorem Core_setPend_remain (k : Core) (i : Nat) (p : Pend) : (k.setPend i p).remain = k.remain := rfl
@[simp] theorem Core_setPend_running (k : Core) (i : Nat) (p : Pend) : (k.setPend i p).running = k.running := rfl
@[simp] theorem Core_setPend_capA (k : Core) (i : Nat) (p : Pend) : (k.setPend i p).capA = k.capA := rfl
@[simp] theorem Core_setPend_capB (k : Core) (i : Nat) (p : Pend) : (k.setPend i p).capB = k.capB := rfl
@[simp] theorem Core_setPend_hwm (k : Core) (i : Nat) (p : Pend) : (k.setPend i p).hwm = k.hwm := rfl
@[simp] theorem Core_setPend_member (k : Core) (i : Nat) (p : Pend) : (k.setPend i p).member = k.member := rfl
@[simp] theorem Core_setPend_frz (k : Core) (i : Nat) (p : Pend) : (k.setPend i p).frz = k.frz := rfl
@[simp] theorem Core_setPend_dom (k : Core) (i : Nat) (p : Pend) : (k.setPend i p).dom = k.dom := rfl
@[simp] theorem Core_setPend_stopped (k : Core) (i : Nat) (p : Pend) : (k.setPend i p).stopped = k.stopped := rfl
@[simp] theorem Core_setPend_swap (k : Core) (i : Nat) (p : Pend) : (k.setPend i p).swap = k.swap := rfl
@[simp] theorem Core_setPend_perf (k : Core) (i : Nat) (p : Pend) : (k.setPend i p).perf = k.perf := rfl
@[simp] theorem Core_setPend_failed (k : Core) (i : Nat) (p : Pend) : (k.setPend i p).failed = k.failed := rfl
@[simp] theorem Core_setPend_lost (k : Core) (i : Nat) (p : Pend) : (k.setPend i p).lost = k.lost := rfl
@[simp] theorem Core_setPend_ordered (k : Core) (i : Nat) (p : Pend) : (k.setPend i p).ordered = k.ordered := rfl
@[simp] theorem Core_setPend_moved (k : Core) (i : Nat) (p : Pend) : (k.setPend i p).moved = k.moved := rfl
@[simp] theorem Core_setPend_halting (k : Core) (i : Nat) (p : Pend) : (k.setPend i p).halting = k.halting := rfl
@[simp] theorem Core_setPend_plbUse (k : Core) (i : Nat) (p : Pend) : (k.setPend i p).plbUse = k.plbUse := rfl
@[simp] theorem Core_setPend_wbufBad (k : Core) (i : Nat) (p : Pend) : (k.setPend i p).wbufBad = k.wbufBad := rfl
@[simp] theorem Core_setPend_lostDue (k : Core) (i : Nat) (p : Pend) : (k.setPend i p).lostDue = k.lostDue := rfl

/-! ## Core.count -/

@[simp] theorem Core_count_act (k : Core) (i n : Nat) : (k.count i n).act = k.act := rfl
@[simp] theorem Core_count_shd (k : Core) (i n : Nat) : (k.count i n).shd = k.shd := rfl
@[simp] theorem Core_count_setB (k : Core) (i n : Nat) : (k.count i n).setB = k.setB := rfl
@[simp] theorem Core_count_next (k : Core) (i n : Nat) : (k.count i n).next = k.next := rfl
@[simp] theorem Core_count_shear (k : Core) (i n : Nat) : (k.count i n).shear = k.shear := rfl
@[simp] theorem Core_count_wake (k : Core) (i n : Nat) : (k.count i n).wake = k.wake := rfl
@[simp] theorem Core_count_hart (k : Core) (i n : Nat) : (k.count i n).hart = k.hart := rfl
@[simp] theorem Core_count_plb (k : Core) (i n : Nat) : (k.count i n).plb = k.plb := rfl
@[simp] theorem Core_count_wbuf (k : Core) (i n : Nat) : (k.count i n).wbuf = k.wbuf := rfl
@[simp] theorem Core_count_sb (k : Core) (i n : Nat) : (k.count i n).sb = k.sb := rfl
@[simp] theorem Core_count_sbSeq (k : Core) (i n : Nat) : (k.count i n).sbSeq = k.sbSeq := rfl
@[simp] theorem Core_count_updates (k : Core) (i n : Nat) : (k.count i n).updates = k.updates := rfl
@[simp] theorem Core_count_arr (k : Core) (i n : Nat) : (k.count i n).arr = k.arr := rfl
@[simp] theorem Core_count_pend (k : Core) (i n : Nat) : (k.count i n).pend = k.pend := rfl
@[simp] theorem Core_count_cyc (k : Core) (i n : Nat) : (k.count i n).cyc = k.cyc := rfl
@[simp] theorem Core_count_load (k : Core) (i n : Nat) : (k.count i n).load = k.load := rfl
@[simp] theorem Core_count_gangto (k : Core) (i n : Nat) : (k.count i n).gangto = k.gangto := rfl
@[simp] theorem Core_count_pack (k : Core) (i n : Nat) : (k.count i n).pack = k.pack := rfl
@[simp] theorem Core_count_preq (k : Core) (i n : Nat) : (k.count i n).preq = k.preq := rfl
@[simp] theorem Core_count_remain (k : Core) (i n : Nat) : (k.count i n).remain = k.remain := rfl
@[simp] theorem Core_count_running (k : Core) (i n : Nat) : (k.count i n).running = k.running := rfl
@[simp] theorem Core_count_capA (k : Core) (i n : Nat) : (k.count i n).capA = k.capA := rfl
@[simp] theorem Core_count_capB (k : Core) (i n : Nat) : (k.count i n).capB = k.capB := rfl
@[simp] theorem Core_count_hwm (k : Core) (i n : Nat) : (k.count i n).hwm = k.hwm := rfl
@[simp] theorem Core_count_member (k : Core) (i n : Nat) : (k.count i n).member = k.member := rfl
@[simp] theorem Core_count_frz (k : Core) (i n : Nat) : (k.count i n).frz = k.frz := rfl
@[simp] theorem Core_count_dom (k : Core) (i n : Nat) : (k.count i n).dom = k.dom := rfl
@[simp] theorem Core_count_stopped (k : Core) (i n : Nat) : (k.count i n).stopped = k.stopped := rfl
@[simp] theorem Core_count_swap (k : Core) (i n : Nat) : (k.count i n).swap = k.swap := rfl
@[simp] theorem Core_count_failed (k : Core) (i n : Nat) : (k.count i n).failed = k.failed := rfl
@[simp] theorem Core_count_lost (k : Core) (i n : Nat) : (k.count i n).lost = k.lost := rfl
@[simp] theorem Core_count_ordered (k : Core) (i n : Nat) : (k.count i n).ordered = k.ordered := rfl
@[simp] theorem Core_count_moved (k : Core) (i n : Nat) : (k.count i n).moved = k.moved := rfl
@[simp] theorem Core_count_halting (k : Core) (i n : Nat) : (k.count i n).halting = k.halting := rfl
@[simp] theorem Core_count_plbUse (k : Core) (i n : Nat) : (k.count i n).plbUse = k.plbUse := rfl
@[simp] theorem Core_count_wbufBad (k : Core) (i n : Nat) : (k.count i n).wbufBad = k.wbufBad := rfl
@[simp] theorem Core_count_lostDue (k : Core) (i n : Nat) : (k.count i n).lostDue = k.lostDue := rfl

/-! ## Die.count -/

@[simp] theorem Die_count_streams (v : Die) (i : Nat) : (v.count i).streams = v.streams := rfl
@[simp] theorem Die_count_fresh (v : Die) (i : Nat) : (v.count i).fresh = v.fresh := rfl
@[simp] theorem Die_count_freed (v : Die) (i : Nat) : (v.count i).freed = v.freed := rfl
@[simp] theorem Die_count_spw (v : Die) (i : Nat) : (v.count i).spw = v.spw := rfl
@[simp] theorem Die_count_resid (v : Die) (i : Nat) : (v.count i).resid = v.resid := rfl
@[simp] theorem Die_count_frames (v : Die) (i : Nat) : (v.count i).frames = v.frames := rfl
@[simp] theorem Die_count_cascade (v : Die) (i : Nat) : (v.count i).cascade = v.cascade := rfl
@[simp] theorem Die_count_dq (v : Die) (i : Nat) : (v.count i).dq = v.dq := rfl
@[simp] theorem Die_count_rr (v : Die) (i : Nat) : (v.count i).rr = v.rr := rfl
@[simp] theorem Die_count_groups (v : Die) (i : Nat) : (v.count i).groups = v.groups := rfl
@[simp] theorem Die_count_cores (v : Die) (i : Nat) : (v.count i).cores = v.cores := rfl
@[simp] theorem Die_count_phys (v : Die) (i : Nat) : (v.count i).phys = v.phys := rfl
@[simp] theorem Die_count_dead (v : Die) (i : Nat) : (v.count i).dead = v.dead := rfl
@[simp] theorem Die_count_fab (v : Die) (i : Nat) : (v.count i).fab = v.fab := rfl
@[simp] theorem Die_count_dir (v : Die) (i : Nat) : (v.count i).dir = v.dir := rfl
@[simp] theorem Die_count_proxy (v : Die) (i : Nat) : (v.count i).proxy = v.proxy := rfl
@[simp] theorem Die_count_tlb (v : Die) (i : Nat) : (v.count i).tlb = v.tlb := rfl
@[simp] theorem Die_count_root (v : Die) (i : Nat) : (v.count i).root = v.root := rfl
@[simp] theorem Die_count_ddir (v : Die) (i : Nat) : (v.count i).ddir = v.ddir := rfl
@[simp] theorem Die_count_malf (v : Die) (i : Nat) : (v.count i).malf = v.malf := rfl
@[simp] theorem Die_count_gangs (v : Die) (i : Nat) : (v.count i).gangs = v.gangs := rfl
@[simp] theorem Die_count_gangSeq (v : Die) (i : Nat) : (v.count i).gangSeq = v.gangSeq := rfl
@[simp] theorem Die_count_parts (v : Die) (i : Nat) : (v.count i).parts = v.parts := rfl
@[simp] theorem Die_count_reports (v : Die) (i : Nat) : (v.count i).reports = v.reports := rfl
@[simp] theorem Die_count_ctl (v : Die) (i : Nat) : (v.count i).ctl = v.ctl := rfl
@[simp] theorem Die_count_keepers (v : Die) (i : Nat) : (v.count i).keepers = v.keepers := rfl
@[simp] theorem Die_count_shoot (v : Die) (i : Nat) : (v.count i).shoot = v.shoot := rfl
@[simp] theorem Die_count_keys (v : Die) (i : Nat) : (v.count i).keys = v.keys := rfl
@[simp] theorem Die_count_engFrz (v : Die) (i : Nat) : (v.count i).engFrz = v.engFrz := rfl
@[simp] theorem Die_count_saved (v : Die) (i : Nat) : (v.count i).saved = v.saved := rfl
@[simp] theorem Die_count_slices (v : Die) (i : Nat) : (v.count i).slices = v.slices := rfl
@[simp] theorem Die_count_dcyc (v : Die) (i : Nat) : (v.count i).dcyc = v.dcyc := rfl
@[simp] theorem Die_count_lrecs (v : Die) (i : Nat) : (v.count i).lrecs = v.lrecs := rfl
@[simp] theorem Die_count_lq (v : Die) (i : Nat) : (v.count i).lq = v.lq := rfl
@[simp] theorem Die_count_pcopy (v : Die) (i : Nat) : (v.count i).pcopy = v.pcopy := rfl
@[simp] theorem Die_count_cxlSeq (v : Die) (i : Nat) : (v.count i).cxlSeq = v.cxlSeq := rfl
@[simp] theorem Die_count_errs (v : Die) (i : Nat) : (v.count i).errs = v.errs := rfl
@[simp] theorem Die_count_power (v : Die) (i : Nat) : (v.count i).power = v.power := rfl
@[simp] theorem Die_count_temp (v : Die) (i : Nat) : (v.count i).temp = v.temp := rfl
@[simp] theorem Die_count_capped (v : Die) (i : Nat) : (v.count i).capped = v.capped := rfl
@[simp] theorem Die_count_measured (v : Die) (i : Nat) : (v.count i).measured = v.measured := rfl
@[simp] theorem Die_count_errAt (v : Die) (i : Nat) : (v.count i).errAt = v.errAt := rfl
@[simp] theorem Die_count_failAt (v : Die) (i : Nat) : (v.count i).failAt = v.failAt := rfl
@[simp] theorem Die_count_replays (v : Die) (i : Nat) : (v.count i).replays = v.replays := rfl
@[simp] theorem Die_count_laneErr (v : Die) (i : Nat) : (v.count i).laneErr = v.laneErr := rfl
@[simp] theorem Die_count_downPorts (v : Die) (i : Nat) : (v.count i).downPorts = v.downPorts := rfl
@[simp] theorem Die_count_engSeq (v : Die) (i : Nat) : (v.count i).engSeq = v.engSeq := rfl
@[simp] theorem Die_count_rowErr (v : Die) (i : Nat) : (v.count i).rowErr = v.rowErr := rfl

/-! ## SetState.setCtx -/

@[simp] theorem SetState_setCtx_pad (a : SetState) (i : Nat) (x : Ctx) : (a.setCtx i x).pad = a.pad := rfl
@[simp] theorem SetState_setCtx_cache (a : SetState) (i : Nat) (x : Ctx) : (a.setCtx i x).cache = a.cache := rfl
@[simp] theorem SetState_setCtx_lines (a : SetState) (i : Nat) (x : Ctx) : (a.setCtx i x).lines = a.lines := rfl
@[simp] theorem SetState_setCtx_acc (a : SetState) (i : Nat) (x : Ctx) : (a.setCtx i x).acc = a.acc := rfl
@[simp] theorem SetState_setCtx_runq (a : SetState) (i : Nat) (x : Ctx) : (a.setCtx i x).runq = a.runq := rfl
@[simp] theorem SetState_setCtx_slots (a : SetState) (i : Nat) (x : Ctx) : (a.setCtx i x).slots = a.slots := rfl
@[simp] theorem SetState_setCtx_frames (a : SetState) (i : Nat) (x : Ctx) : (a.setCtx i x).frames = a.frames := rfl
@[simp] theorem SetState_setCtx_resv (a : SetState) (i : Nat) (x : Ctx) : (a.setCtx i x).resv = a.resv := rfl
@[simp] theorem SetState_setCtx_saveGen (a : SetState) (i : Nat) (x : Ctx) : (a.setCtx i x).saveGen = a.saveGen := rfl
@[simp] theorem SetState_setCtx_gated (a : SetState) (i : Nat) (x : Ctx) : (a.setCtx i x).gated = a.gated := rfl
@[simp] theorem SetState_setCtx_counters (a : SetState) (i : Nat) (x : Ctx) : (a.setCtx i x).counters = a.counters := rfl
@[simp] theorem SetState_setCtx_chunk (a : SetState) (i : Nat) (x : Ctx) : (a.setCtx i x).chunk = a.chunk := rfl
@[simp] theorem SetState_setCtx_layouts (a : SetState) (i : Nat) (x : Ctx) : (a.setCtx i x).layouts = a.layouts := rfl
@[simp] theorem SetState_setCtx_locks (a : SetState) (i : Nat) (x : Ctx) : (a.setCtx i x).locks = a.locks := rfl
@[simp] theorem SetState_setCtx_post (a : SetState) (i : Nat) (x : Ctx) : (a.setCtx i x).post = a.post := rfl
@[simp] theorem SetState_setCtx_postFrozen (a : SetState) (i : Nat) (x : Ctx) : (a.setCtx i x).postFrozen = a.postFrozen := rfl
@[simp] theorem SetState_setCtx_ports (a : SetState) (i : Nat) (x : Ctx) : (a.setCtx i x).ports = a.ports := rfl
@[simp] theorem SetState_setCtx_mcmds (a : SetState) (i : Nat) (x : Ctx) : (a.setCtx i x).mcmds = a.mcmds := rfl
@[simp] theorem SetState_setCtx_halves (a : SetState) (i : Nat) (x : Ctx) : (a.setCtx i x).halves = a.halves := rfl
@[simp] theorem SetState_setCtx_sel (a : SetState) (i : Nat) (x : Ctx) : (a.setCtx i x).sel = a.sel := rfl
@[simp] theorem SetState_setCtx_trees (a : SetState) (i : Nat) (x : Ctx) : (a.setCtx i x).trees = a.trees := rfl
@[simp] theorem SetState_setCtx_chq (a : SetState) (i : Nat) (x : Ctx) : (a.setCtx i x).chq = a.chq := rfl
@[simp] theorem SetState_setCtx_mbox (a : SetState) (i : Nat) (x : Ctx) : (a.setCtx i x).mbox = a.mbox := rfl
@[simp] theorem SetState_setCtx_hwait (a : SetState) (i : Nat) (x : Ctx) : (a.setCtx i x).hwait = a.hwait := rfl
@[simp] theorem SetState_setCtx_hsat (a : SetState) (i : Nat) (x : Ctx) : (a.setCtx i x).hsat = a.hsat := rfl
@[simp] theorem SetState_setCtx_upq (a : SetState) (i : Nat) (x : Ctx) : (a.setCtx i x).upq = a.upq := rfl
@[simp] theorem SetState_setCtx_upVec (a : SetState) (i : Nat) (x : Ctx) : (a.setCtx i x).upVec = a.upVec := rfl
@[simp] theorem SetState_setCtx_upBusy (a : SetState) (i : Nat) (x : Ctx) : (a.setCtx i x).upBusy = a.upBusy := rfl
@[simp] theorem SetState_setCtx_upEn (a : SetState) (i : Nat) (x : Ctx) : (a.setCtx i x).upEn = a.upEn := rfl
@[simp] theorem SetState_setCtx_fmask (a : SetState) (i : Nat) (x : Ctx) : (a.setCtx i x).fmask = a.fmask := rfl
@[simp] theorem SetState_setCtx_first (a : SetState) (i : Nat) (x : Ctx) : (a.setCtx i x).first = a.first := rfl
@[simp] theorem SetState_setCtx_ffcode (a : SetState) (i : Nat) (x : Ctx) : (a.setCtx i x).ffcode = a.ffcode := rfl
@[simp] theorem SetState_setCtx_rotary (a : SetState) (i : Nat) (x : Ctx) : (a.setCtx i x).rotary = a.rotary := rfl
@[simp] theorem SetState_setCtx_seq (a : SetState) (i : Nat) (x : Ctx) : (a.setCtx i x).seq = a.seq := rfl
@[simp] theorem SetState_setCtx_part (a : SetState) (i : Nat) (x : Ctx) : (a.setCtx i x).part = a.part := rfl
@[simp] theorem SetState_setCtx_accBad (a : SetState) (i : Nat) (x : Ctx) : (a.setCtx i x).accBad = a.accBad := rfl
@[simp] theorem SetState_setCtx_owed (a : SetState) (i : Nat) (x : Ctx) : (a.setCtx i x).owed = a.owed := rfl
@[simp] theorem SetState_setCtx_behind (a : SetState) (i : Nat) (x : Ctx) : (a.setCtx i x).behind = a.behind := rfl
@[simp] theorem SetState_setCtx_wide (a : SetState) (i : Nat) (x : Ctx) : (a.setCtx i x).wide = a.wide := rfl
@[simp] theorem SetState_setCtx_hgang (a : SetState) (i : Nat) (x : Ctx) : (a.setCtx i x).hgang = a.hgang := rfl

/-! ## SetState.setSlot -/

@[simp] theorem SetState_setSlot_pad (a : SetState) (i : Nat) (x : Slot) : (a.setSlot i x).pad = a.pad := rfl
@[simp] theorem SetState_setSlot_cache (a : SetState) (i : Nat) (x : Slot) : (a.setSlot i x).cache = a.cache := rfl
@[simp] theorem SetState_setSlot_lines (a : SetState) (i : Nat) (x : Slot) : (a.setSlot i x).lines = a.lines := rfl
@[simp] theorem SetState_setSlot_acc (a : SetState) (i : Nat) (x : Slot) : (a.setSlot i x).acc = a.acc := rfl
@[simp] theorem SetState_setSlot_ctxs (a : SetState) (i : Nat) (x : Slot) : (a.setSlot i x).ctxs = a.ctxs := rfl
@[simp] theorem SetState_setSlot_runq (a : SetState) (i : Nat) (x : Slot) : (a.setSlot i x).runq = a.runq := rfl
@[simp] theorem SetState_setSlot_frames (a : SetState) (i : Nat) (x : Slot) : (a.setSlot i x).frames = a.frames := rfl
@[simp] theorem SetState_setSlot_resv (a : SetState) (i : Nat) (x : Slot) : (a.setSlot i x).resv = a.resv := rfl
@[simp] theorem SetState_setSlot_saveGen (a : SetState) (i : Nat) (x : Slot) : (a.setSlot i x).saveGen = a.saveGen := rfl
@[simp] theorem SetState_setSlot_gated (a : SetState) (i : Nat) (x : Slot) : (a.setSlot i x).gated = a.gated := rfl
@[simp] theorem SetState_setSlot_counters (a : SetState) (i : Nat) (x : Slot) : (a.setSlot i x).counters = a.counters := rfl
@[simp] theorem SetState_setSlot_chunk (a : SetState) (i : Nat) (x : Slot) : (a.setSlot i x).chunk = a.chunk := rfl
@[simp] theorem SetState_setSlot_layouts (a : SetState) (i : Nat) (x : Slot) : (a.setSlot i x).layouts = a.layouts := rfl
@[simp] theorem SetState_setSlot_locks (a : SetState) (i : Nat) (x : Slot) : (a.setSlot i x).locks = a.locks := rfl
@[simp] theorem SetState_setSlot_post (a : SetState) (i : Nat) (x : Slot) : (a.setSlot i x).post = a.post := rfl
@[simp] theorem SetState_setSlot_postFrozen (a : SetState) (i : Nat) (x : Slot) : (a.setSlot i x).postFrozen = a.postFrozen := rfl
@[simp] theorem SetState_setSlot_ports (a : SetState) (i : Nat) (x : Slot) : (a.setSlot i x).ports = a.ports := rfl
@[simp] theorem SetState_setSlot_mcmds (a : SetState) (i : Nat) (x : Slot) : (a.setSlot i x).mcmds = a.mcmds := rfl
@[simp] theorem SetState_setSlot_halves (a : SetState) (i : Nat) (x : Slot) : (a.setSlot i x).halves = a.halves := rfl
@[simp] theorem SetState_setSlot_sel (a : SetState) (i : Nat) (x : Slot) : (a.setSlot i x).sel = a.sel := rfl
@[simp] theorem SetState_setSlot_trees (a : SetState) (i : Nat) (x : Slot) : (a.setSlot i x).trees = a.trees := rfl
@[simp] theorem SetState_setSlot_chq (a : SetState) (i : Nat) (x : Slot) : (a.setSlot i x).chq = a.chq := rfl
@[simp] theorem SetState_setSlot_mbox (a : SetState) (i : Nat) (x : Slot) : (a.setSlot i x).mbox = a.mbox := rfl
@[simp] theorem SetState_setSlot_hwait (a : SetState) (i : Nat) (x : Slot) : (a.setSlot i x).hwait = a.hwait := rfl
@[simp] theorem SetState_setSlot_hsat (a : SetState) (i : Nat) (x : Slot) : (a.setSlot i x).hsat = a.hsat := rfl
@[simp] theorem SetState_setSlot_upq (a : SetState) (i : Nat) (x : Slot) : (a.setSlot i x).upq = a.upq := rfl
@[simp] theorem SetState_setSlot_upVec (a : SetState) (i : Nat) (x : Slot) : (a.setSlot i x).upVec = a.upVec := rfl
@[simp] theorem SetState_setSlot_upBusy (a : SetState) (i : Nat) (x : Slot) : (a.setSlot i x).upBusy = a.upBusy := rfl
@[simp] theorem SetState_setSlot_upEn (a : SetState) (i : Nat) (x : Slot) : (a.setSlot i x).upEn = a.upEn := rfl
@[simp] theorem SetState_setSlot_fmask (a : SetState) (i : Nat) (x : Slot) : (a.setSlot i x).fmask = a.fmask := rfl
@[simp] theorem SetState_setSlot_first (a : SetState) (i : Nat) (x : Slot) : (a.setSlot i x).first = a.first := rfl
@[simp] theorem SetState_setSlot_ffcode (a : SetState) (i : Nat) (x : Slot) : (a.setSlot i x).ffcode = a.ffcode := rfl
@[simp] theorem SetState_setSlot_rotary (a : SetState) (i : Nat) (x : Slot) : (a.setSlot i x).rotary = a.rotary := rfl
@[simp] theorem SetState_setSlot_seq (a : SetState) (i : Nat) (x : Slot) : (a.setSlot i x).seq = a.seq := rfl
@[simp] theorem SetState_setSlot_part (a : SetState) (i : Nat) (x : Slot) : (a.setSlot i x).part = a.part := rfl
@[simp] theorem SetState_setSlot_accBad (a : SetState) (i : Nat) (x : Slot) : (a.setSlot i x).accBad = a.accBad := rfl
@[simp] theorem SetState_setSlot_owed (a : SetState) (i : Nat) (x : Slot) : (a.setSlot i x).owed = a.owed := rfl
@[simp] theorem SetState_setSlot_behind (a : SetState) (i : Nat) (x : Slot) : (a.setSlot i x).behind = a.behind := rfl
@[simp] theorem SetState_setSlot_wide (a : SetState) (i : Nat) (x : Slot) : (a.setSlot i x).wide = a.wide := rfl
@[simp] theorem SetState_setSlot_hgang (a : SetState) (i : Nat) (x : Slot) : (a.setSlot i x).hgang = a.hgang := rfl

/-! ## SetState.setCounter -/

@[simp] theorem SetState_setCounter_pad (a : SetState) (i : Nat) (x : Counter) : (a.setCounter i x).pad = a.pad := rfl
@[simp] theorem SetState_setCounter_cache (a : SetState) (i : Nat) (x : Counter) : (a.setCounter i x).cache = a.cache := rfl
@[simp] theorem SetState_setCounter_lines (a : SetState) (i : Nat) (x : Counter) : (a.setCounter i x).lines = a.lines := rfl
@[simp] theorem SetState_setCounter_acc (a : SetState) (i : Nat) (x : Counter) : (a.setCounter i x).acc = a.acc := rfl
@[simp] theorem SetState_setCounter_ctxs (a : SetState) (i : Nat) (x : Counter) : (a.setCounter i x).ctxs = a.ctxs := rfl
@[simp] theorem SetState_setCounter_runq (a : SetState) (i : Nat) (x : Counter) : (a.setCounter i x).runq = a.runq := rfl
@[simp] theorem SetState_setCounter_slots (a : SetState) (i : Nat) (x : Counter) : (a.setCounter i x).slots = a.slots := rfl
@[simp] theorem SetState_setCounter_frames (a : SetState) (i : Nat) (x : Counter) : (a.setCounter i x).frames = a.frames := rfl
@[simp] theorem SetState_setCounter_resv (a : SetState) (i : Nat) (x : Counter) : (a.setCounter i x).resv = a.resv := rfl
@[simp] theorem SetState_setCounter_saveGen (a : SetState) (i : Nat) (x : Counter) : (a.setCounter i x).saveGen = a.saveGen := rfl
@[simp] theorem SetState_setCounter_gated (a : SetState) (i : Nat) (x : Counter) : (a.setCounter i x).gated = a.gated := rfl
@[simp] theorem SetState_setCounter_chunk (a : SetState) (i : Nat) (x : Counter) : (a.setCounter i x).chunk = a.chunk := rfl
@[simp] theorem SetState_setCounter_layouts (a : SetState) (i : Nat) (x : Counter) : (a.setCounter i x).layouts = a.layouts := rfl
@[simp] theorem SetState_setCounter_locks (a : SetState) (i : Nat) (x : Counter) : (a.setCounter i x).locks = a.locks := rfl
@[simp] theorem SetState_setCounter_post (a : SetState) (i : Nat) (x : Counter) : (a.setCounter i x).post = a.post := rfl
@[simp] theorem SetState_setCounter_postFrozen (a : SetState) (i : Nat) (x : Counter) : (a.setCounter i x).postFrozen = a.postFrozen := rfl
@[simp] theorem SetState_setCounter_ports (a : SetState) (i : Nat) (x : Counter) : (a.setCounter i x).ports = a.ports := rfl
@[simp] theorem SetState_setCounter_mcmds (a : SetState) (i : Nat) (x : Counter) : (a.setCounter i x).mcmds = a.mcmds := rfl
@[simp] theorem SetState_setCounter_halves (a : SetState) (i : Nat) (x : Counter) : (a.setCounter i x).halves = a.halves := rfl
@[simp] theorem SetState_setCounter_sel (a : SetState) (i : Nat) (x : Counter) : (a.setCounter i x).sel = a.sel := rfl
@[simp] theorem SetState_setCounter_trees (a : SetState) (i : Nat) (x : Counter) : (a.setCounter i x).trees = a.trees := rfl
@[simp] theorem SetState_setCounter_chq (a : SetState) (i : Nat) (x : Counter) : (a.setCounter i x).chq = a.chq := rfl
@[simp] theorem SetState_setCounter_mbox (a : SetState) (i : Nat) (x : Counter) : (a.setCounter i x).mbox = a.mbox := rfl
@[simp] theorem SetState_setCounter_hwait (a : SetState) (i : Nat) (x : Counter) : (a.setCounter i x).hwait = a.hwait := rfl
@[simp] theorem SetState_setCounter_hsat (a : SetState) (i : Nat) (x : Counter) : (a.setCounter i x).hsat = a.hsat := rfl
@[simp] theorem SetState_setCounter_upq (a : SetState) (i : Nat) (x : Counter) : (a.setCounter i x).upq = a.upq := rfl
@[simp] theorem SetState_setCounter_upVec (a : SetState) (i : Nat) (x : Counter) : (a.setCounter i x).upVec = a.upVec := rfl
@[simp] theorem SetState_setCounter_upBusy (a : SetState) (i : Nat) (x : Counter) : (a.setCounter i x).upBusy = a.upBusy := rfl
@[simp] theorem SetState_setCounter_upEn (a : SetState) (i : Nat) (x : Counter) : (a.setCounter i x).upEn = a.upEn := rfl
@[simp] theorem SetState_setCounter_fmask (a : SetState) (i : Nat) (x : Counter) : (a.setCounter i x).fmask = a.fmask := rfl
@[simp] theorem SetState_setCounter_first (a : SetState) (i : Nat) (x : Counter) : (a.setCounter i x).first = a.first := rfl
@[simp] theorem SetState_setCounter_ffcode (a : SetState) (i : Nat) (x : Counter) : (a.setCounter i x).ffcode = a.ffcode := rfl
@[simp] theorem SetState_setCounter_rotary (a : SetState) (i : Nat) (x : Counter) : (a.setCounter i x).rotary = a.rotary := rfl
@[simp] theorem SetState_setCounter_seq (a : SetState) (i : Nat) (x : Counter) : (a.setCounter i x).seq = a.seq := rfl
@[simp] theorem SetState_setCounter_part (a : SetState) (i : Nat) (x : Counter) : (a.setCounter i x).part = a.part := rfl
@[simp] theorem SetState_setCounter_accBad (a : SetState) (i : Nat) (x : Counter) : (a.setCounter i x).accBad = a.accBad := rfl
@[simp] theorem SetState_setCounter_owed (a : SetState) (i : Nat) (x : Counter) : (a.setCounter i x).owed = a.owed := rfl
@[simp] theorem SetState_setCounter_behind (a : SetState) (i : Nat) (x : Counter) : (a.setCounter i x).behind = a.behind := rfl
@[simp] theorem SetState_setCounter_wide (a : SetState) (i : Nat) (x : Counter) : (a.setCounter i x).wide = a.wide := rfl
@[simp] theorem SetState_setCounter_hgang (a : SetState) (i : Nat) (x : Counter) : (a.setCounter i x).hgang = a.hgang := rfl

/-! ## regWrite -/

@[simp] theorem regWrite_cache (a : SetState) (ix i v m : Nat) : (regWrite a ix i v m).cache = a.cache := rfl
@[simp] theorem regWrite_lines (a : SetState) (ix i v m : Nat) : (regWrite a ix i v m).lines = a.lines := rfl
@[simp] theorem regWrite_acc (a : SetState) (ix i v m : Nat) : (regWrite a ix i v m).acc = a.acc := rfl
@[simp] theorem regWrite_ctxs (a : SetState) (ix i v m : Nat) : (regWrite a ix i v m).ctxs = a.ctxs := rfl
@[simp] theorem regWrite_runq (a : SetState) (ix i v m : Nat) : (regWrite a ix i v m).runq = a.runq := rfl
@[simp] theorem regWrite_slots (a : SetState) (ix i v m : Nat) : (regWrite a ix i v m).slots = a.slots := rfl
@[simp] theorem regWrite_frames (a : SetState) (ix i v m : Nat) : (regWrite a ix i v m).frames = a.frames := rfl
@[simp] theorem regWrite_resv (a : SetState) (ix i v m : Nat) : (regWrite a ix i v m).resv = a.resv := rfl
@[simp] theorem regWrite_saveGen (a : SetState) (ix i v m : Nat) : (regWrite a ix i v m).saveGen = a.saveGen := rfl
@[simp] theorem regWrite_gated (a : SetState) (ix i v m : Nat) : (regWrite a ix i v m).gated = a.gated := rfl
@[simp] theorem regWrite_counters (a : SetState) (ix i v m : Nat) : (regWrite a ix i v m).counters = a.counters := rfl
@[simp] theorem regWrite_chunk (a : SetState) (ix i v m : Nat) : (regWrite a ix i v m).chunk = a.chunk := rfl
@[simp] theorem regWrite_layouts (a : SetState) (ix i v m : Nat) : (regWrite a ix i v m).layouts = a.layouts := rfl
@[simp] theorem regWrite_locks (a : SetState) (ix i v m : Nat) : (regWrite a ix i v m).locks = a.locks := rfl
@[simp] theorem regWrite_post (a : SetState) (ix i v m : Nat) : (regWrite a ix i v m).post = a.post := rfl
@[simp] theorem regWrite_postFrozen (a : SetState) (ix i v m : Nat) : (regWrite a ix i v m).postFrozen = a.postFrozen := rfl
@[simp] theorem regWrite_ports (a : SetState) (ix i v m : Nat) : (regWrite a ix i v m).ports = a.ports := rfl
@[simp] theorem regWrite_mcmds (a : SetState) (ix i v m : Nat) : (regWrite a ix i v m).mcmds = a.mcmds := rfl
@[simp] theorem regWrite_halves (a : SetState) (ix i v m : Nat) : (regWrite a ix i v m).halves = a.halves := rfl
@[simp] theorem regWrite_sel (a : SetState) (ix i v m : Nat) : (regWrite a ix i v m).sel = a.sel := rfl
@[simp] theorem regWrite_trees (a : SetState) (ix i v m : Nat) : (regWrite a ix i v m).trees = a.trees := rfl
@[simp] theorem regWrite_chq (a : SetState) (ix i v m : Nat) : (regWrite a ix i v m).chq = a.chq := rfl
@[simp] theorem regWrite_mbox (a : SetState) (ix i v m : Nat) : (regWrite a ix i v m).mbox = a.mbox := rfl
@[simp] theorem regWrite_hwait (a : SetState) (ix i v m : Nat) : (regWrite a ix i v m).hwait = a.hwait := rfl
@[simp] theorem regWrite_hsat (a : SetState) (ix i v m : Nat) : (regWrite a ix i v m).hsat = a.hsat := rfl
@[simp] theorem regWrite_upq (a : SetState) (ix i v m : Nat) : (regWrite a ix i v m).upq = a.upq := rfl
@[simp] theorem regWrite_upVec (a : SetState) (ix i v m : Nat) : (regWrite a ix i v m).upVec = a.upVec := rfl
@[simp] theorem regWrite_upBusy (a : SetState) (ix i v m : Nat) : (regWrite a ix i v m).upBusy = a.upBusy := rfl
@[simp] theorem regWrite_upEn (a : SetState) (ix i v m : Nat) : (regWrite a ix i v m).upEn = a.upEn := rfl
@[simp] theorem regWrite_fmask (a : SetState) (ix i v m : Nat) : (regWrite a ix i v m).fmask = a.fmask := rfl
@[simp] theorem regWrite_first (a : SetState) (ix i v m : Nat) : (regWrite a ix i v m).first = a.first := rfl
@[simp] theorem regWrite_ffcode (a : SetState) (ix i v m : Nat) : (regWrite a ix i v m).ffcode = a.ffcode := rfl
@[simp] theorem regWrite_rotary (a : SetState) (ix i v m : Nat) : (regWrite a ix i v m).rotary = a.rotary := rfl
@[simp] theorem regWrite_seq (a : SetState) (ix i v m : Nat) : (regWrite a ix i v m).seq = a.seq := rfl
@[simp] theorem regWrite_part (a : SetState) (ix i v m : Nat) : (regWrite a ix i v m).part = a.part := rfl
@[simp] theorem regWrite_accBad (a : SetState) (ix i v m : Nat) : (regWrite a ix i v m).accBad = a.accBad := rfl
@[simp] theorem regWrite_owed (a : SetState) (ix i v m : Nat) : (regWrite a ix i v m).owed = a.owed := rfl
@[simp] theorem regWrite_behind (a : SetState) (ix i v m : Nat) : (regWrite a ix i v m).behind = a.behind := rfl
@[simp] theorem regWrite_wide (a : SetState) (ix i v m : Nat) : (regWrite a ix i v m).wide = a.wide := rfl
@[simp] theorem regWrite_hgang (a : SetState) (ix i v m : Nat) : (regWrite a ix i v m).hgang = a.hgang := rfl

/-! ## Reading after an update -/

theorem die_setDie (s : State) (d j : Nat) (v : Die) : (s.setDie d v).die j = if j = d then v else s.die j := tget_tins _ _ _ _ _
@[simp] theorem die_setDie_self (s : State) (d : Nat) (v : Die) : (s.setDie d v).die d = v := by simp [die_setDie]
theorem die_core_setCore (v : Die) (c j : Nat) (k : Core) : (v.setCore c k).core j = if j = c then k else v.core j :=
  tget_tins _ _ _ _ _
@[simp] theorem die_core_setCore_self (v : Die) (c : Nat) (k : Core) : (v.setCore c k).core c = k := by simp [die_core_setCore]
theorem core_setCore (s : State) (d c i j : Nat) (k : Core) :
    (s.setCore d c k).core i j = if i = d ∧ j = c then k else s.core i j := by
  simp only [State.setCore, State.core, die_setDie]
  by_cases h : i = d
  · subst h; simp [die_core_setCore]
  · simp [h]
@[simp] theorem core_setCore_self (s : State) (d c : Nat) (k : Core) : (s.setCore d c k).core d c = k := by simp [core_setCore]
theorem core_setAct (s : State) (d c i j : Nat) (a : SetState) :
    (s.setAct d c a).core i j = if i = d ∧ j = c then { s.core d c with act := a } else s.core i j := core_setCore _ _ _ _ _ _
@[simp] theorem core_setAct_self (s : State) (d c : Nat) (a : SetState) :
    (s.setAct d c a).core d c = { s.core d c with act := a } := by simp [core_setAct]
theorem act_setAct (s : State) (d c i j : Nat) (a : SetState) :
    (s.setAct d c a).act i j = if i = d ∧ j = c then a else s.act i j := by
  unfold State.act; rw [core_setAct]; split <;> rfl
@[simp] theorem act_setAct_self (s : State) (d c : Nat) (a : SetState) : (s.setAct d c a).act d c = a := by simp [act_setAct]
/-- A second update of an active set replaces the first. -/
theorem setAct_act_agree (s : State) (d c : Nat) (a b : SetState) (i j : Nat) :
    ((s.setAct d c a).setAct d c b).act i j = (s.setAct d c b).act i j := by
  simp only [act_setAct]; split <;> rfl
theorem ctx_setCtx (a : SetState) (i j : Nat) (x : Ctx) : (a.setCtx i x).ctx j = if j = i then x else a.ctx j := tget_tins _ _ _ _ _
@[simp] theorem ctx_setCtx_self (a : SetState) (i : Nat) (x : Ctx) : (a.setCtx i x).ctx i = x := by simp [ctx_setCtx]
theorem slot_setSlot (a : SetState) (i j : Nat) (x : Slot) : (a.setSlot i x).slot j = if j = i then x else a.slot j :=
  tget_tins _ _ _ _ _
@[simp] theorem slot_setSlot_self (a : SetState) (i : Nat) (x : Slot) : (a.setSlot i x).slot i = x := by simp [slot_setSlot]
theorem counter_setCounter (a : SetState) (i j : Nat) (x : Counter) :
    (a.setCounter i x).counter j = if j = i then x else a.counter j := tget_tset _ _ _ _ _
@[simp] theorem counter_setCounter_self (a : SetState) (i : Nat) (x : Counter) : (a.setCounter i x).counter i = x := by
  simp [counter_setCounter]
@[simp] theorem ctx_setSlot (a : SetState) (i j : Nat) (x : Slot) : (a.setSlot i x).ctx j = a.ctx j := rfl
@[simp] theorem slot_setCtx (a : SetState) (i j : Nat) (x : Ctx) : (a.setCtx i x).slot j = a.slot j := rfl
@[simp] theorem ctx_regWrite (a : SetState) (ix i v m j : Nat) : (regWrite a ix i v m).ctx j = a.ctx j := rfl
@[simp] theorem slot_regWrite (a : SetState) (ix i v m j : Nat) : (regWrite a ix i v m).slot j = a.slot j := rfl
@[simp] theorem counter_regWrite (a : SetState) (ix i v m j : Nat) : (regWrite a ix i v m).counter j = a.counter j := rfl
theorem pendOf_setPend (k : Core) (i j : Nat) (p : Pend) : (k.setPend i p).pendOf j = if j = i then p else k.pendOf j :=
  tget_tset _ _ _ _ _
@[simp] theorem pendOf_setPend_self (k : Core) (i : Nat) (p : Pend) : (k.setPend i p).pendOf i = p := by simp [pendOf_setPend]

end Sys2Proof.Machine
end

