-- ==== Sys2Proof/Laws/Ops.lean ====
section
/-! SUPPORT. What the shared operations can do, said once: whose turn it is, the wrapper that runs a Makel instruction, writes of
registers and predicates. -/

namespace Sys2Proof.Machine

/-! ## The executing context -/

/-- What `env?` answers: the current slot, the context bound on it, its mode and IP. -/
theorem env?_eq_some {s : State} {e : Env} (h : s.env? = some e) :
    s.cur = .slot e.d e.c e.sl ∧ e.ix = ((s.act e.d e.c).slot e.sl).ix ∧ e.mode = ((s.act e.d e.c).slot e.sl).mode ∧
    (e.mode = .stray ∨ e.mode = .block) ∧ (s.ctx e).state = .bound ∧ e.ip = (s.ctx e).ip := by
  unfold State.env? at h
  generalize hc : s.cur = a at h
  cases a with
  | hart d c => simp at h
  | slot d c j =>
    simp only at h
    split at h
    · rename_i hm
      cases h
      exact ⟨rfl, rfl, rfl, hm.1, hm.2, rfl⟩
    · cases h

/-! ## Running a Makel instruction -/

section
variable {u : Use} {s : State} {e : Env} {b : List Nat}

theorem ctxRunRaw_error {body : Env → State → Res State} {x : Exit} (he : s.env? = some e) (hc : ctxChecks s e u = .error x) :
    ctxRunRaw u body s = finish s e (.error x) := by
  simp [ctxRunRaw, he, hc, bind, Except.bind]

theorem ctxRun_error {body : Env → State → Res State} {x : Exit} (he : s.env? = some e) (hc : ctxChecks s e u = .error x) :
    ctxRun u body s = finish s e (.error x) := ctxRunRaw_error he hc

theorem setRun_error {body : Env → SetState → Res SetState} {x : Exit} (he : s.env? = some e)
    (hc : ctxChecks s e u = .error x) : setRun u body s = finish s e (.error x) := ctxRun_error he hc

/-- What an instruction whose checks have passed answers: its effect, finished, or what the effect fails with. -/
theorem ctxRunRaw_eq {body : Env → State → Res State} (he : s.env? = some e) (hc : ctxChecks s e u = .ok b) :
    ctxRunRaw u body s = finish s e ((body e s).map (finished e b)) := by
  cases h : body e s <;> simp only [ctxRunRaw, he, hc, h, bind, Except.bind, Except.map] <;> rfl

theorem ctxRun_eq {body : Env → State → Res State} (he : s.env? = some e) (hc : ctxChecks s e u = .ok b) :
    ctxRun u body s = finish s e ((body e s).map (goesOn e b)) := by
  rw [ctxRun, ctxRunRaw_eq he hc]
  cases body e s <;> rfl

theorem setRun_eq {body : Env → SetState → Res SetState} (he : s.env? = some e) (hc : ctxChecks s e u = .ok b) :
    setRun u body s = finish s e ((body e (s.act e.d e.c)).map (writes s e b)) := by
  rw [setRun, ctxRun_eq he hc]
  simp only [bind, Except.bind]
  cases body e (s.act e.d e.c) <;> rfl

/-- An instruction whose own effect fails ends as that says. -/
theorem ctxRunRaw_body_error {body : Env → State → Res State} {x : Exit} (he : s.env? = some e) (hc : ctxChecks s e u = .ok b)
    (hb : body e s = .error x) : ctxRunRaw u body s = finish s e (.error x) := by
  simp [ctxRunRaw, he, hc, hb, bind, Except.bind]

theorem ctxRun_body_error {body : Env → State → Res State} {x : Exit} (he : s.env? = some e) (hc : ctxChecks s e u = .ok b)
    (hb : body e s = .error x) : ctxRun u body s = finish s e (.error x) :=
  ctxRunRaw_body_error he hc (by simp [hb, bind, Except.bind])

/-- An instruction that moves IP itself completes in the state its effect gives, finished. -/
theorem ctxRunRaw_ok {body : Env → State → Res State} {t : State} (he : s.env? = some e) (hc : ctxChecks s e u = .ok b)
    (hb : body e s = .ok t) : ctxRunRaw u body s = .next (finished e b t) := by
  simp only [ctxRunRaw, he, hc, hb, bind, Except.bind, finish, finished, pure, Except.pure]

/-- An instruction that goes on completes in the state its effect gives, advanced and finished. -/
theorem ctxRun_ok {body : Env → State → Res State} {t : State} (he : s.env? = some e) (hc : ctxChecks s e u = .ok b)
    (hb : body e s = .ok t) : ctxRun u body s = .next (goesOn e b t) :=
  ctxRunRaw_ok he hc (by simp [hb, bind, Except.bind, pure, Except.pure])

/-- An instruction on the active set completes with the set its effect gives. -/
theorem setRun_ok {body : Env → SetState → Res SetState} {a : SetState} (he : s.env? = some e) (hc : ctxChecks s e u = .ok b)
    (hb : body e (s.act e.d e.c) = .ok a) : setRun u body s = .next (writes s e b a) :=
  ctxRun_ok he hc (by simp [hb, bind, Except.bind, pure, Except.pure])

end

/-! ## Granules, registers, predicates -/

theorem tget_granWrite (p : Sparse Gran) (g h : Nat) (gen : BitVec 10) (v m : Nat) :
    tget {} (granWrite p g gen v m) h =
      if h = g then { tag := gen, data := BitVec.ofNat 128 (mergeBytes 16 m (granRead p g gen).toNat v),
                      bad := (tget {} p g).bad && merges p g gen m } else tget {} p h :=
  tget_tset _ _ _ _ _

/-- A granule that is not written reads as before. -/
theorem granRead_granWrite_ne (p : Sparse Gran) {g h : Nat} (gen gen' : BitVec 10) (v m : Nat) (hn : h ≠ g) :
    granRead (granWrite p g gen v m) h gen' = granRead p h gen' := by
  unfold granRead; rw [tget_granWrite, if_neg hn]

theorem mergeBytes_lt (n m old v : Nat) : mergeBytes n m old v < 256 ^ n := by
  induction n generalizing m old v with
  | zero => simp [mergeBytes]
  | succ n ih =>
    have h := ih (m / 2) (old / 256) (v / 256)
    have hb : (if m % 2 = 1 then v % 256 else old % 256) < 256 := by split <;> omega
    rw [mergeBytes, Nat.pow_succ]
    omega

/-- With every byte enabled the old value plays no part. -/
theorem mergeBytes_all (n old v : Nat) : mergeBytes n (2 ^ n - 1) old v = v % 256 ^ n := by
  induction n generalizing old v with
  | zero => simp [mergeBytes, Nat.mod_one]
  | succ n ih =>
    have h1 : (2 ^ (n + 1) - 1) % 2 = 1 := by have := Nat.two_pow_pos n; omega
    have h2 : (2 ^ (n + 1) - 1) / 2 = 2 ^ n - 1 := by have := Nat.two_pow_pos n; omega
    rw [mergeBytes, if_pos h1, h2, ih, Nat.pow_succ, Nat.mul_comm (256 ^ n), Nat.mod_mul]

/-- A granule written whole reads as the value, for a generation other than 0. -/
theorem granRead_granWrite_self (p : Sparse Gran) (g : Nat) (gen : BitVec 10) (v : Nat) (hg : gen ≠ 0) :
    granRead (granWrite p g gen v allBytes) g gen = BitVec.ofNat 128 v := by
  have h : mergeBytes 16 allBytes (granRead p g gen).toNat v = v % 256 ^ 16 := mergeBytes_all 16 _ v
  have e : BitVec.ofNat 128 (v % 256 ^ 16) = BitVec.ofNat 128 v := by
    apply BitVec.eq_of_toNat_eq
    simp only [BitVec.toNat_ofNat]
    rw [show (256 : Nat) ^ 16 = 2 ^ 128 by decide, Nat.mod_mod]
  have r : tget {} (granWrite p g gen v allBytes) g = { tag := gen, data := BitVec.ofNat 128 v } := by
    rw [tget_granWrite, if_pos rfl, h, e]
    simp [merges, allBytes]
  generalize granWrite p g gen v allBytes = q at r
  unfold granRead
  rw [r]
  exact if_pos ⟨rfl, hg⟩

/-- The register written reads back, under a generation other than 0. -/
theorem regRaw_regWrite_self (a : SetState) (ix i v : Nat) (hg : (a.ctx ix).wgen ≠ 0) :
    regRaw (regWrite a ix i v allBytes) (a.ctx ix) i = BitVec.ofNat 128 v := granRead_granWrite_self _ _ _ _ hg

/-- Another register of any context on another granule is not changed. -/
theorem regRaw_regWrite_ne (a : SetState) (ix i v m : Nat) (x : Ctx) (j : Nat) (h : x.gran j ≠ (a.ctx ix).gran i) :
    regRaw (regWrite a ix i v m) x j = regRaw a x j := granRead_granWrite_ne _ _ _ _ _ h

@[simp] theorem predRead_zero (a : SetState) (x : Ctx) : predRead a x 0 = 2 ^ 64 - 1 := rfl
@[simp] theorem predWrite_zero (a : SetState) (ix v : Nat) : predWrite a ix 0 v = a := rfl
@[simp] theorem ctx_predWrite (a : SetState) (ix n v j : Nat) : (predWrite a ix n v).ctx j = a.ctx j := by
  unfold predWrite; split <;> rfl

end Sys2Proof.Machine

namespace Sys2Proof

open Machine

/-- `Ready` with the use of the instruction at hand. -/
theorem Ready.checks {i : Instr} {s : State} {e : Env} {b : List Nat} {u : Use} (h : Ready i s e b) (hu : i.use? = some u) :
    s.env? = some e ∧ ctxChecks s e u = .ok b := by
  obtain ⟨he, v, hv, hc⟩ := h
  rw [hu] at hv
  cases hv
  exact ⟨he, hc⟩

end Sys2Proof
end

