-- ==== Sys2Proof/Laws/PerInstr.lean ====
section
/-! SUPPORT. The family RoundTrip: for every instruction, decoding the words of a well-formed one gives it back. -/

namespace Sys2Proof.Laws.RoundTrip

open Machine

set_option Elab.async false
set_option linter.unusedSimpArgs false

/-- No bit of the instruction's encoding is dropped. -/
def Statement (i : Instr) : Prop := i.wf = true → ∀ c, encode i = some c → decode c = .ok i

/-- A statement about the words of an instruction whose words are known. -/
theorem of_words {i : Instr} {c : Code} (he : encode i = some c) (h : i.wf = true → decode c = .ok i) : Statement i := by
  intro hw c' hc
  rw [he] at hc
  cases hc
  exact h hw

theorem bit3_of : ∀ f : BitVec 7, f.toNat &&& 120 = 0 → f.getLsbD 3 = false := by decide
theorem bit2_of : ∀ f : BitVec 7, f.toNat &&& 124 = 0 → f.getLsbD 2 = false := by decide
theorem bit0_of : ∀ f : BitVec 7, f.toNat &&& 127 = 0 → f.getLsbD 0 = false := by decide
theorem bit5_of : ∀ f : BitVec 7, f.toNat &&& 96 = 0 → f.getLsbD 5 = false := by decide
theorem bit6_of : ∀ f : BitVec 7, f.toNat &&& 64 = 0 → f.getLsbD 6 = false := by decide
theorem bit2_of6 : ∀ f : BitVec 7, f.toNat / 4 = 6 → f.getLsbD 2 = false := by decide
theorem bit2_of7 : ∀ f : BitVec 7, f.toNat / 4 = 7 → f.getLsbD 2 = true := by decide
theorem sub0_of : ∀ f : BitVec 7, f.toNat &&& 124 = 0 → f.toNat / 8 = 0 := by decide
/-- SUB of a form E instruction whose other bits of F12 lie under a mask. -/
theorem f12Sub_of {f : BitVec 12} {m v : Nat} (h : f.toNat &&& (4095 - m) = v) (hm : m < 256) : f.toNat / 256 = v / 256 := by
  have hf : f.toNat / 256 < 2 ^ 4 := by have := f.isLt; omega
  have h1 : (f.toNat &&& (4095 - m)) / 256 = f.toNat / 256 &&& (4095 - m) / 256 := by
    have := Nat.shiftRight_and_distrib (a := f.toNat) (b := 4095 - m) (i := 8)
    simpa [Nat.shiftRight_eq_div_pow] using this
  have h2 : (4095 - m) / 256 = 2 ^ 4 - 1 := by omega
  rw [← h, h1, h2, Nat.and_two_pow_sub_one_eq_mod, Nat.mod_eq_of_lt hf]

theorem nop (d : BitVec 7) : Statement (.nop d) := of_words rfl (fun _ => decode_zero_of (op := 0x00) (by decide) rfl)
theorem bra (d : BitVec 7) (t : TailB) : Statement (.bra d t) := of_words rfl (fun _ => decode_two_of (op := 0x01) (by decide) (by
  show some (Instr.bra d (TailB.of t.bits)) = _
  rw [TailB.of_bits]))
theorem call (d : BitVec 7) (t : TailB) : Statement (.call d t) := of_words rfl (fun _ => decode_two_of (op := 0x02) (by decide) (by
  show some (Instr.call d (TailB.of t.bits)) = _
  rw [TailB.of_bits]))
theorem jmpx (d : BitVec 7) (t : TailV) : Statement (.jmpx d t) := of_words rfl (fun _ => decode_two_of (op := 0x03) (by decide) (by
  show some (Instr.jmpx d (TailV.of t.bits)) = _
  rw [TailV.of_bits]))
theorem loop (d : BitVec 7) (t : TailB) : Statement (.loop d t) := of_words rfl (fun _ => decode_two_of (op := 0x04) (by decide) (by
  show some (Instr.loop d (TailB.of t.bits)) = _
  rw [TailB.of_bits]))
theorem fetch (d : BitVec 7) (t : TailV) : Statement (.fetch d t) := of_words rfl (fun _ => decode_two_of (op := 0x05) (by decide) (by
  show some (Instr.fetch d (TailV.of t.bits)) = _
  rw [TailV.of_bits]))
theorem stop (d : BitVec 7) : Statement (.stop d) := of_words rfl (fun _ => decode_zero_of (op := 0x06) (by decide) rfl)
theorem halt (d : BitVec 7) : Statement (.halt d) := of_words rfl (fun _ => decode_zero_of (op := 0x07) (by decide) rfl)
theorem yield (d : BitVec 7) : Statement (.yield d) := of_words rfl (fun _ => decode_zero_of (op := 0x08) (by decide) rfl)
theorem trap (d : BitVec 7) : Statement (.trap d) := of_words rfl (fun _ => decode_zero_of (op := 0x09) (by decide) rfl)
theorem plog (d : BitVec 7) (t : TailV) : Statement (.plog d t) := of_words rfl (fun _ => decode_two_of (op := 0x0A) (by decide) (by
  show some (Instr.plog d (TailV.of t.bits)) = _
  rw [TailV.of_bits]))
theorem pmov (d : BitVec 7) (t : TailV) : Statement (.pmov d t) := of_words rfl (fun _ => decode_two_of (op := 0x0B) (by decide) (by
  show some (Instr.pmov d (TailV.of t.bits)) = _
  rw [TailV.of_bits]))
theorem cyc (d : BitVec 7) : Statement (.cyc d) := of_words rfl (fun _ => decode_zero_of (op := 0x0C) (by decide) rfl)
theorem sysr (d : BitVec 7) (t : TailV) : Statement (.sysr d t) := of_words rfl (fun _ => decode_two_of (op := 0x0D) (by decide) (by
  show some (Instr.sysr d (TailV.of t.bits)) = _
  rw [TailV.of_bits]))
theorem addS (d : BitVec 7) (t : TailS) : Statement (.addS d t) := of_words rfl (fun _ => decode_one_of (op := 0x10) (by decide) (by
  show some (Instr.addS d (TailS.of t.bits)) = _
  rw [TailS.of_bits]))
theorem addV (d : BitVec 7) (t : TailV) : Statement (.addV d t) := of_words rfl (fun _ => decode_two_of (op := 0x10) (by decide) (by
  show some (Instr.addV d (TailV.of t.bits)) = _
  rw [TailV.of_bits]))
theorem subS (d : BitVec 7) (t : TailS) : Statement (.subS d t) := of_words rfl (fun _ => decode_one_of (op := 0x11) (by decide) (by
  show some (Instr.subS d (TailS.of t.bits)) = _
  rw [TailS.of_bits]))
theorem subV (d : BitVec 7) (t : TailV) : Statement (.subV d t) := of_words rfl (fun _ => decode_two_of (op := 0x11) (by decide) (by
  show some (Instr.subV d (TailV.of t.bits)) = _
  rw [TailV.of_bits]))
theorem mulS (d : BitVec 7) (t : TailS) : Statement (.mulS d t) := of_words rfl (fun _ => decode_one_of (op := 0x12) (by decide) (by
  show some (Instr.mulS d (TailS.of t.bits)) = _
  rw [TailS.of_bits]))
theorem mulV (d : BitVec 7) (t : TailV) : Statement (.mulV d t) := of_words rfl (fun _ => decode_two_of (op := 0x12) (by decide) (by
  show some (Instr.mulV d (TailV.of t.bits)) = _
  rw [TailV.of_bits]))
theorem mulhS (d : BitVec 7) (t : TailS) : Statement (.mulhS d t) := of_words rfl (fun _ => decode_one_of (op := 0x13) (by decide) (by
  show some (Instr.mulhS d (TailS.of t.bits)) = _
  rw [TailS.of_bits]))
theorem mulhV (d : BitVec 7) (t : TailV) : Statement (.mulhV d t) := of_words rfl (fun _ => decode_two_of (op := 0x13) (by decide) (by
  show some (Instr.mulhV d (TailV.of t.bits)) = _
  rw [TailV.of_bits]))
theorem divS (d : BitVec 7) (t : TailS) : Statement (.divS d t) := of_words rfl (fun _ => decode_one_of (op := 0x14) (by decide) (by
  show some (Instr.divS d (TailS.of t.bits)) = _
  rw [TailS.of_bits]))
theorem divV (d : BitVec 7) (t : TailV) : Statement (.divV d t) := of_words rfl (fun _ => decode_two_of (op := 0x14) (by decide) (by
  show some (Instr.divV d (TailV.of t.bits)) = _
  rw [TailV.of_bits]))
theorem remS (d : BitVec 7) (t : TailS) : Statement (.remS d t) := of_words rfl (fun _ => decode_one_of (op := 0x15) (by decide) (by
  show some (Instr.remS d (TailS.of t.bits)) = _
  rw [TailS.of_bits]))
theorem remV (d : BitVec 7) (t : TailV) : Statement (.remV d t) := of_words rfl (fun _ => decode_two_of (op := 0x15) (by decide) (by
  show some (Instr.remV d (TailV.of t.bits)) = _
  rw [TailV.of_bits]))
theorem andS (d : BitVec 7) (t : TailS) : Statement (.andS d t) := of_words rfl (fun _ => decode_one_of (op := 0x16) (by decide) (by
  show some (Instr.andS d (TailS.of t.bits)) = _
  rw [TailS.of_bits]))
theorem andV (d : BitVec 7) (t : TailV) : Statement (.andV d t) := of_words rfl (fun _ => decode_two_of (op := 0x16) (by decide) (by
  show some (Instr.andV d (TailV.of t.bits)) = _
  rw [TailV.of_bits]))
theorem orS (d : BitVec 7) (t : TailS) : Statement (.orS d t) := of_words rfl (fun _ => decode_one_of (op := 0x17) (by decide) (by
  show some (Instr.orS d (TailS.of t.bits)) = _
  rw [TailS.of_bits]))
theorem orV (d : BitVec 7) (t : TailV) : Statement (.orV d t) := of_words rfl (fun _ => decode_two_of (op := 0x17) (by decide) (by
  show some (Instr.orV d (TailV.of t.bits)) = _
  rw [TailV.of_bits]))
theorem xorS (d : BitVec 7) (t : TailS) : Statement (.xorS d t) := of_words rfl (fun _ => decode_one_of (op := 0x18) (by decide) (by
  show some (Instr.xorS d (TailS.of t.bits)) = _
  rw [TailS.of_bits]))
theorem xorV (d : BitVec 7) (t : TailV) : Statement (.xorV d t) := of_words rfl (fun _ => decode_two_of (op := 0x18) (by decide) (by
  show some (Instr.xorV d (TailV.of t.bits)) = _
  rw [TailV.of_bits]))
theorem andnS (d : BitVec 7) (t : TailS) : Statement (.andnS d t) := of_words rfl (fun _ => decode_one_of (op := 0x19) (by decide) (by
  show some (Instr.andnS d (TailS.of t.bits)) = _
  rw [TailS.of_bits]))
theorem andnV (d : BitVec 7) (t : TailV) : Statement (.andnV d t) := of_words rfl (fun _ => decode_two_of (op := 0x19) (by decide) (by
  show some (Instr.andnV d (TailV.of t.bits)) = _
  rw [TailV.of_bits]))
theorem shlS (d : BitVec 7) (t : TailS) : Statement (.shlS d t) := of_words rfl (fun _ => decode_one_of (op := 0x1A) (by decide) (by
  show some (Instr.shlS d (TailS.of t.bits)) = _
  rw [TailS.of_bits]))
theorem shlV (d : BitVec 7) (t : TailV) : Statement (.shlV d t) := of_words rfl (fun _ => decode_two_of (op := 0x1A) (by decide) (by
  show some (Instr.shlV d (TailV.of t.bits)) = _
  rw [TailV.of_bits]))
theorem shrS (d : BitVec 7) (t : TailS) : Statement (.shrS d t) := of_words rfl (fun _ => decode_one_of (op := 0x1B) (by decide) (by
  show some (Instr.shrS d (TailS.of t.bits)) = _
  rw [TailS.of_bits]))
theorem shrV (d : BitVec 7) (t : TailV) : Statement (.shrV d t) := of_words rfl (fun _ => decode_two_of (op := 0x1B) (by decide) (by
  show some (Instr.shrV d (TailV.of t.bits)) = _
  rw [TailV.of_bits]))
theorem sraS (d : BitVec 7) (t : TailS) : Statement (.sraS d t) := of_words rfl (fun _ => decode_one_of (op := 0x1C) (by decide) (by
  show some (Instr.sraS d (TailS.of t.bits)) = _
  rw [TailS.of_bits]))
theorem sraV (d : BitVec 7) (t : TailV) : Statement (.sraV d t) := of_words rfl (fun _ => decode_two_of (op := 0x1C) (by decide) (by
  show some (Instr.sraV d (TailV.of t.bits)) = _
  rw [TailV.of_bits]))
theorem rotS (d : BitVec 7) (t : TailS) : Statement (.rotS d t) := of_words rfl (fun _ => decode_one_of (op := 0x1D) (by decide) (by
  show some (Instr.rotS d (TailS.of t.bits)) = _
  rw [TailS.of_bits]))
theorem rotV (d : BitVec 7) (t : TailV) : Statement (.rotV d t) := of_words rfl (fun _ => decode_two_of (op := 0x1D) (by decide) (by
  show some (Instr.rotV d (TailV.of t.bits)) = _
  rw [TailV.of_bits]))
theorem minS (d : BitVec 7) (t : TailS) : Statement (.minS d t) := of_words rfl (fun _ => decode_one_of (op := 0x1E) (by decide) (by
  show some (Instr.minS d (TailS.of t.bits)) = _
  rw [TailS.of_bits]))
theorem minV (d : BitVec 7) (t : TailV) : Statement (.minV d t) := of_words rfl (fun _ => decode_two_of (op := 0x1E) (by decide) (by
  show some (Instr.minV d (TailV.of t.bits)) = _
  rw [TailV.of_bits]))
theorem maxS (d : BitVec 7) (t : TailS) : Statement (.maxS d t) := of_words rfl (fun _ => decode_one_of (op := 0x1F) (by decide) (by
  show some (Instr.maxS d (TailS.of t.bits)) = _
  rw [TailS.of_bits]))
theorem maxV (d : BitVec 7) (t : TailV) : Statement (.maxV d t) := of_words rfl (fun _ => decode_two_of (op := 0x1F) (by decide) (by
  show some (Instr.maxV d (TailV.of t.bits)) = _
  rw [TailV.of_bits]))
theorem abs (d : BitVec 7) (t : TailV) : Statement (.abs d t) := of_words rfl (fun _ => decode_two_of (op := 0x20) (by decide) (by
  show some (Instr.abs d (TailV.of t.bits)) = _
  rw [TailV.of_bits]))
theorem neg (d : BitVec 7) (t : TailV) : Statement (.neg d t) := of_words rfl (fun _ => decode_two_of (op := 0x21) (by decide) (by
  show some (Instr.neg d (TailV.of t.bits)) = _
  rw [TailV.of_bits]))
theorem clz (d : BitVec 7) (t : TailV) : Statement (.clz d t) := of_words rfl (fun _ => decode_two_of (op := 0x22) (by decide) (by
  show some (Instr.clz d (TailV.of t.bits)) = _
  rw [TailV.of_bits]))
theorem popc (d : BitVec 7) (t : TailV) : Statement (.popc d t) := of_words rfl (fun _ => decode_two_of (op := 0x23) (by decide) (by
  show some (Instr.popc d (TailV.of t.bits)) = _
  rw [TailV.of_bits]))
theorem cmp (d : BitVec 7) (t : TailV) : Statement (.cmp d t) := of_words rfl (fun _ => decode_two_of (op := 0x24) (by decide) (by
  show some (Instr.cmp d (TailV.of t.bits)) = _
  rw [TailV.of_bits]))
theorem sel (d : BitVec 7) (t : TailV) : Statement (.sel d t) := of_words rfl (fun _ => decode_two_of (op := 0x25) (by decide) (by
  show some (Instr.sel d (TailV.of t.bits)) = _
  rw [TailV.of_bits]))
theorem addi (d : BitVec 7) (t : TailI) : Statement (.addi d t) := of_words rfl (fun _ => decode_two_of (op := 0x26) (by decide) (by
  show some (Instr.addi d (TailI.of t.bits)) = _
  rw [TailI.of_bits]))
theorem movi (d : BitVec 7) (imm : BitVec 32) : Statement (.movi d imm) := of_words rfl (fun _ => decode_two_of (op := 0x27) (by decide) rfl)
theorem movq (d : BitVec 7) (imm : BitVec 64) : Statement (.movq d imm) := of_words rfl (fun _ => decode_four_of (op := 0x28) (by decide) rfl)
theorem lea (d : BitVec 7) (t : TailV) : Statement (.lea d t) := of_words rfl (fun _ => decode_two_of (op := 0x29) (by decide) (by
  show some (Instr.lea d (TailV.of t.bits)) = _
  rw [TailV.of_bits]))
theorem bext (d : BitVec 7) (t : TailV) : Statement (.bext d t) := of_words rfl (fun _ => decode_two_of (op := 0x2A) (by decide) (by
  show some (Instr.bext d (TailV.of t.bits)) = _
  rw [TailV.of_bits]))
theorem bins (d : BitVec 7) (t : TailV) : Statement (.bins d t) := of_words rfl (fun _ => decode_two_of (op := 0x2B) (by decide) (by
  show some (Instr.bins d (TailV.of t.bits)) = _
  rw [TailV.of_bits]))
theorem madd (d : BitVec 7) (t : TailV) : Statement (.madd d t) := of_words rfl (fun _ => decode_two_of (op := 0x2C) (by decide) (by
  show some (Instr.madd d (TailV.of t.bits)) = _
  rw [TailV.of_bits]))
theorem doti (d : BitVec 7) (t : TailV) : Statement (.doti d t) := of_words rfl (fun _ => decode_two_of (op := 0x2D) (by decide) (by
  show some (Instr.doti d (TailV.of t.bits)) = _
  rw [TailV.of_bits]))
theorem satn (d : BitVec 7) (t : TailV) : Statement (.satn d t) := of_words rfl (fun _ => decode_two_of (op := 0x2E) (by decide) (by
  show some (Instr.satn d (TailV.of t.bits)) = _
  rw [TailV.of_bits]))
theorem shuf (d : BitVec 7) (t : TailV) : Statement (.shuf d t) := of_words rfl (fun _ => decode_two_of (op := 0x2F) (by decide) (by
  show some (Instr.shuf d (TailV.of t.bits)) = _
  rw [TailV.of_bits]))
theorem fadd (d : BitVec 7) (t : TailV) : Statement (.fadd d t) := of_words rfl (fun _ => decode_two_of (op := 0x30) (by decide) (by
  show some (Instr.fadd d (TailV.of t.bits)) = _
  rw [TailV.of_bits]))
theorem fsub (d : BitVec 7) (t : TailV) : Statement (.fsub d t) := of_words rfl (fun _ => decode_two_of (op := 0x31) (by decide) (by
  show some (Instr.fsub d (TailV.of t.bits)) = _
  rw [TailV.of_bits]))
theorem fmul (d : BitVec 7) (t : TailV) : Statement (.fmul d t) := of_words rfl (fun _ => decode_two_of (op := 0x32) (by decide) (by
  show some (Instr.fmul d (TailV.of t.bits)) = _
  rw [TailV.of_bits]))
theorem fma (d : BitVec 7) (t : TailV) : Statement (.fma d t) := of_words rfl (fun _ => decode_two_of (op := 0x33) (by decide) (by
  show some (Instr.fma d (TailV.of t.bits)) = _
  rw [TailV.of_bits]))
theorem fmin (d : BitVec 7) (t : TailV) : Statement (.fmin d t) := of_words rfl (fun _ => decode_two_of (op := 0x34) (by decide) (by
  show some (Instr.fmin d (TailV.of t.bits)) = _
  rw [TailV.of_bits]))
theorem fmax (d : BitVec 7) (t : TailV) : Statement (.fmax d t) := of_words rfl (fun _ => decode_two_of (op := 0x35) (by decide) (by
  show some (Instr.fmax d (TailV.of t.bits)) = _
  rw [TailV.of_bits]))
theorem fsgn (d : BitVec 7) (t : TailV) : Statement (.fsgn d t) := of_words rfl (fun _ => decode_two_of (op := 0x36) (by decide) (by
  show some (Instr.fsgn d (TailV.of t.bits)) = _
  rw [TailV.of_bits]))
theorem fcmp (d : BitVec 7) (t : TailV) : Statement (.fcmp d t) := of_words rfl (fun _ => decode_two_of (op := 0x37) (by decide) (by
  show some (Instr.fcmp d (TailV.of t.bits)) = _
  rw [TailV.of_bits]))
theorem fcvt (d : BitVec 7) (t : TailV) : Statement (.fcvt d t) := of_words rfl (fun _ => decode_two_of (op := 0x38) (by decide) (by
  show some (Instr.fcvt d (TailV.of t.bits)) = _
  rw [TailV.of_bits]))
theorem frnd (d : BitVec 7) (t : TailV) : Statement (.frnd d t) := of_words rfl (fun _ => decode_two_of (op := 0x39) (by decide) (by
  show some (Instr.frnd d (TailV.of t.bits)) = _
  rw [TailV.of_bits]))
theorem fscl (d : BitVec 7) (t : TailV) : Statement (.fscl d t) := of_words rfl (fun _ => decode_two_of (op := 0x3A) (by decide) (by
  show some (Instr.fscl d (TailV.of t.bits)) = _
  rw [TailV.of_bits]))
theorem fcls (d : BitVec 7) (t : TailV) : Statement (.fcls d t) := of_words rfl (fun _ => decode_two_of (op := 0x3B) (by decide) (by
  show some (Instr.fcls d (TailV.of t.bits)) = _
  rw [TailV.of_bits]))
theorem frcp (d : BitVec 7) (t : TailV) : Statement (.frcp d t) := of_words rfl (fun _ => decode_two_of (op := 0x3C) (by decide) (by
  show some (Instr.frcp d (TailV.of t.bits)) = _
  rw [TailV.of_bits]))
theorem frsq (d : BitVec 7) (t : TailV) : Statement (.frsq d t) := of_words rfl (fun _ => decode_two_of (op := 0x3D) (by decide) (by
  show some (Instr.frsq d (TailV.of t.bits)) = _
  rw [TailV.of_bits]))
theorem fsqrt (d : BitVec 7) (t : TailV) : Statement (.fsqrt d t) := of_words rfl (fun _ => decode_two_of (op := 0x3E) (by decide) (by
  show some (Instr.fsqrt d (TailV.of t.bits)) = _
  rw [TailV.of_bits]))
theorem fdiv (d : BitVec 7) (t : TailV) : Statement (.fdiv d t) := of_words rfl (fun _ => decode_two_of (op := 0x3F) (by decide) (by
  show some (Instr.fdiv d (TailV.of t.bits)) = _
  rw [TailV.of_bits]))
theorem fexp2 (d : BitVec 7) (t : TailV) : Statement (.fexp2 d t) := of_words rfl (fun _ => decode_two_of (op := 0x40) (by decide) (by
  show some (Instr.fexp2 d (TailV.of t.bits)) = _
  rw [TailV.of_bits]))
theorem flog2 (d : BitVec 7) (t : TailV) : Statement (.flog2 d t) := of_words rfl (fun _ => decode_two_of (op := 0x41) (by decide) (by
  show some (Instr.flog2 d (TailV.of t.bits)) = _
  rw [TailV.of_bits]))
theorem fsin (d : BitVec 7) (t : TailV) : Statement (.fsin d t) := of_words rfl (fun _ => decode_two_of (op := 0x42) (by decide) (by
  show some (Instr.fsin d (TailV.of t.bits)) = _
  rw [TailV.of_bits]))
theorem fcos (d : BitVec 7) (t : TailV) : Statement (.fcos d t) := of_words rfl (fun _ => decode_two_of (op := 0x43) (by decide) (by
  show some (Instr.fcos d (TailV.of t.bits)) = _
  rw [TailV.of_bits]))
theorem ftanh (d : BitVec 7) (t : TailV) : Statement (.ftanh d t) := of_words rfl (fun _ => decode_two_of (op := 0x44) (by decide) (by
  show some (Instr.ftanh d (TailV.of t.bits)) = _
  rw [TailV.of_bits]))
theorem fred (d : BitVec 7) (t : TailV) : Statement (.fred d t) := of_words rfl (fun _ => decode_two_of (op := 0x45) (by decide) (by
  show some (Instr.fred d (TailV.of t.bits)) = _
  rw [TailV.of_bits]))
theorem imax (d : BitVec 7) (t : TailV) : Statement (.imax d t) := of_words rfl (fun _ => decode_two_of (op := 0x46) (by decide) (by
  show some (Instr.imax d (TailV.of t.bits)) = _
  rw [TailV.of_bits]))
theorem fdot (d : BitVec 7) (t : TailV) : Statement (.fdot d t) := of_words rfl (fun _ => decode_two_of (op := 0x47) (by decide) (by
  show some (Instr.fdot d (TailV.of t.bits)) = _
  rw [TailV.of_bits]))
theorem qnt (d : BitVec 7) (t : TailV) : Statement (.qnt d t) := of_words rfl (fun hw => decode_two_of (op := 0x48) (by decide) (by
  have hb : t.f.getLsbD 5 = false := by 
    have h := hw
    simp only [Bool.and_eq_true, decide_eq_true_eq, Bool.or_eq_true, Bool.not_eq_true', Instr.wf, useQnt, vBC, vOnly, useSact, useScommit, useSset, ttUse, jgetUse, issueUse, statusUse, f12Is, layPlain, sidesUse, packedUse, packedLegal] at h
    exact bit5_of _ h.1.1.1.1.2
  show some (if t.bits.getLsbD 5 then Instr.qntScl d (TailV.of t.bits) else Instr.qnt d (TailV.of t.bits)) = _
  rw [TailV.lsb t 5 (by decide), hb, TailV.of_bits]; rfl))
theorem qntScl (d : BitVec 7) (t : TailV) : Statement (.qntScl d t) := of_words rfl (fun hw => decode_two_of (op := 0x48) (by decide) (by
  have hb : t.f.getLsbD 5 = true := by 
    have h := hw
    simp only [Bool.and_eq_true, decide_eq_true_eq, Bool.or_eq_true, Bool.not_eq_true', Instr.wf, useQntScl, vBC, vOnly, useSact, useScommit, useSset, ttUse, jgetUse, issueUse, statusUse, f12Is, layPlain, sidesUse, packedUse, packedLegal] at h
    revert h; generalize t.f = g; simp <;> first | (intros; assumption) | (intros; subst_vars; rfl) | (intros; simp_all) | (revert g; decide)
  show some (if t.bits.getLsbD 5 then Instr.qntScl d (TailV.of t.bits) else Instr.qnt d (TailV.of t.bits)) = _
  rw [TailV.lsb t 5 (by decide), hb, TailV.of_bits]; rfl))
theorem dqnt (d : BitVec 7) (t : TailV) : Statement (.dqnt d t) := of_words rfl (fun _ => decode_two_of (op := 0x49) (by decide) (by
  show some (Instr.dqnt d (TailV.of t.bits)) = _
  rw [TailV.of_bits]))
theorem rand (d : BitVec 7) (t : TailV) : Statement (.rand d t) := of_words rfl (fun _ => decode_two_of (op := 0x4A) (by decide) (by
  show some (Instr.rand d (TailV.of t.bits)) = _
  rw [TailV.of_bits]))
theorem rope (d : BitVec 7) (t : TailV) : Statement (.rope d t) := of_words rfl (fun hw => decode_two_of (op := 0x4B) (by decide) (by
  have hb : t.f.getLsbD 6 = false := by 
    have h := hw
    simp only [Bool.and_eq_true, decide_eq_true_eq, Bool.or_eq_true, Bool.not_eq_true', Instr.wf, useRope, vBC, vOnly, useSact, useScommit, useSset, ttUse, jgetUse, issueUse, statusUse, f12Is, layPlain, sidesUse, packedUse, packedLegal] at h
    exact bit6_of _ h.1.1.1.1.2
  show some (if t.bits.getLsbD 6 then Instr.ropeSet d (TailV.of t.bits) else Instr.rope d (TailV.of t.bits)) = _
  rw [TailV.lsb t 6 (by decide), hb, TailV.of_bits]; rfl))
theorem ropeSet (d : BitVec 7) (t : TailV) : Statement (.ropeSet d t) := of_words rfl (fun hw => decode_two_of (op := 0x4B) (by decide) (by
  have hb : t.f.getLsbD 6 = true := by 
    have h := hw
    simp only [Bool.and_eq_true, decide_eq_true_eq, Bool.or_eq_true, Bool.not_eq_true', Instr.wf, useRopeSet, vBC, vOnly, useSact, useScommit, useSset, ttUse, jgetUse, issueUse, statusUse, f12Is, layPlain, sidesUse, packedUse, packedLegal] at h
    revert h; generalize t.f = g; simp <;> first | (intros; assumption) | (intros; subst_vars; rfl) | (intros; simp_all) | (revert g; decide)
  show some (if t.bits.getLsbD 6 then Instr.ropeSet d (TailV.of t.bits) else Instr.rope d (TailV.of t.bits)) = _
  rw [TailV.lsb t 6 (by decide), hb, TailV.of_bits]; rfl))
theorem fpcset (d : BitVec 7) (t : TailV) : Statement (.fpcset d t) := of_words rfl (fun _ => decode_two_of (op := 0x4C) (by decide) (by
  show some (Instr.fpcset d (TailV.of t.bits)) = _
  rw [TailV.of_bits]))
theorem ld (d : BitVec 7) (t : TailM) : Statement (.ld d t) := of_words rfl (fun _ => decode_four_of (op := 0x50) (by decide) (by
  show some (Instr.ld d (TailM.of t.bits)) = _
  rw [TailM.of_bits]))
theorem st (d : BitVec 7) (t : TailM) : Statement (.st d t) := of_words rfl (fun _ => decode_four_of (op := 0x51) (by decide) (by
  show some (Instr.st d (TailM.of t.bits)) = _
  rw [TailM.of_bits]))
theorem lda (d : BitVec 7) (t : TailM) : Statement (.lda d t) := of_words rfl (fun _ => decode_four_of (op := 0x52) (by decide) (by
  show some (Instr.lda d (TailM.of t.bits)) = _
  rw [TailM.of_bits]))
theorem sta (d : BitVec 7) (t : TailM) : Statement (.sta d t) := of_words rfl (fun _ => decode_four_of (op := 0x53) (by decide) (by
  show some (Instr.sta d (TailM.of t.bits)) = _
  rw [TailM.of_bits]))
theorem movx (d : BitVec 7) (t : TailV) : Statement (.movx d t) := of_words rfl (fun _ => decode_two_of (op := 0x54) (by decide) (by
  show some (Instr.movx d (TailV.of t.bits)) = _
  rw [TailV.of_bits]))
theorem movxs (d : BitVec 7) (t : TailV) : Statement (.movxs d t) := of_words rfl (fun _ => decode_two_of (op := 0x55) (by decide) (by
  show some (Instr.movxs d (TailV.of t.bits)) = _
  rw [TailV.of_bits]))
theorem lnkr (d : BitVec 7) (t : TailV) : Statement (.lnkr d t) := of_words rfl (fun _ => decode_two_of (op := 0x56) (by decide) (by
  show some (Instr.lnkr d (TailV.of t.bits)) = _
  rw [TailV.of_bits]))
theorem lnkw (d : BitVec 7) (t : TailV) : Statement (.lnkw d t) := of_words rfl (fun _ => decode_two_of (op := 0x57) (by decide) (by
  show some (Instr.lnkw d (TailV.of t.bits)) = _
  rw [TailV.of_bits]))
theorem chbind (d : BitVec 7) (t : TailV) : Statement (.chbind d t) := of_words rfl (fun hw => decode_two_of (op := 0x58) (by decide) (by
  have hb : t.f.getLsbD 3 = false := by 
    have h := hw
    simp only [Bool.and_eq_true, decide_eq_true_eq, Bool.or_eq_true, Bool.not_eq_true', Instr.wf, useChbind, vBC, vOnly, useSact, useScommit, useSset, ttUse, jgetUse, issueUse, statusUse, f12Is, layPlain, sidesUse, packedUse, packedLegal] at h
    exact bit3_of _ h.2
  show some (if t.bits.getLsbD 3 then Instr.chbindOff d (TailV.of t.bits) else Instr.chbind d (TailV.of t.bits)) = _
  rw [TailV.lsb t 3 (by decide), hb, TailV.of_bits]; rfl))
theorem chbindOff (d : BitVec 7) (t : TailV) : Statement (.chbindOff d t) := of_words rfl (fun hw => decode_two_of (op := 0x58) (by decide) (by
  have hb : t.f.getLsbD 3 = true := by 
    have h := hw
    simp only [Bool.and_eq_true, decide_eq_true_eq, Bool.or_eq_true, Bool.not_eq_true', Instr.wf, useChbindOff, vBC, vOnly, useSact, useScommit, useSset, ttUse, jgetUse, issueUse, statusUse, f12Is, layPlain, sidesUse, packedUse, packedLegal] at h
    revert h; generalize t.f = g; simp <;> first | (intros; assumption) | (intros; subst_vars; rfl) | (intros; simp_all) | (revert g; decide)
  show some (if t.bits.getLsbD 3 then Instr.chbindOff d (TailV.of t.bits) else Instr.chbind d (TailV.of t.bits)) = _
  rw [TailV.lsb t 3 (by decide), hb, TailV.of_bits]; rfl))
theorem chsend (d : BitVec 7) (t : TailV) : Statement (.chsend d t) := of_words rfl (fun _ => decode_two_of (op := 0x59) (by decide) (by
  show some (Instr.chsend d (TailV.of t.bits)) = _
  rw [TailV.of_bits]))
theorem gath (d : BitVec 7) (t : TailV) : Statement (.gath d t) := of_words rfl (fun _ => decode_two_of (op := 0x5A) (by decide) (by
  show some (Instr.gath d (TailV.of t.bits)) = _
  rw [TailV.of_bits]))
theorem scat (d : BitVec 7) (t : TailV) : Statement (.scat d t) := of_words rfl (fun _ => decode_two_of (op := 0x5B) (by decide) (by
  show some (Instr.scat d (TailV.of t.bits)) = _
  rw [TailV.of_bits]))
theorem gennew (d : BitVec 7) (t : TailV) : Statement (.gennew d t) := of_words rfl (fun _ => decode_two_of (op := 0x5C) (by decide) (by
  show some (Instr.gennew d (TailV.of t.bits)) = _
  rw [TailV.of_bits]))
theorem genq (d : BitVec 7) (t : TailV) : Statement (.genq d t) := of_words rfl (fun hw => decode_two_of (op := 0x5D) (by decide) (by
  have hb : t.f.getLsbD 2 = false := by 
    have h := hw
    simp only [Bool.and_eq_true, decide_eq_true_eq, Bool.or_eq_true, Bool.not_eq_true', Instr.wf, useGenq, vBC, vOnly, useSact, useScommit, useSset, ttUse, jgetUse, issueUse, statusUse, f12Is, layPlain, sidesUse, packedUse, packedLegal] at h
    exact bit2_of _ h.2
  show some (if t.bits.getLsbD 2 then Instr.genqGran d (TailV.of t.bits) else Instr.genq d (TailV.of t.bits)) = _
  rw [TailV.lsb t 2 (by decide), hb, TailV.of_bits]; rfl))
theorem genqGran (d : BitVec 7) (t : TailV) : Statement (.genqGran d t) := of_words rfl (fun hw => decode_two_of (op := 0x5D) (by decide) (by
  have hb : t.f.getLsbD 2 = true := by 
    have h := hw
    simp only [Bool.and_eq_true, decide_eq_true_eq, Bool.or_eq_true, Bool.not_eq_true', Instr.wf, useGenqGran, vBC, vOnly, useSact, useScommit, useSset, ttUse, jgetUse, issueUse, statusUse, f12Is, layPlain, sidesUse, packedUse, packedLegal] at h
    revert h; generalize t.f = g; simp <;> first | (intros; assumption) | (intros; subst_vars; rfl) | (intros; simp_all) | (revert g; decide)
  show some (if t.bits.getLsbD 2 then Instr.genqGran d (TailV.of t.bits) else Instr.genq d (TailV.of t.bits)) = _
  rw [TailV.lsb t 2 (by decide), hb, TailV.of_bits]; rfl))
theorem ldg (d : BitVec 7) (t : TailM) : Statement (.ldg d t) := of_words rfl (fun _ => decode_four_of (op := 0x60) (by decide) (by
  show some (Instr.ldg d (TailM.of t.bits)) = _
  rw [TailM.of_bits]))
theorem stg (d : BitVec 7) (t : TailM) : Statement (.stg d t) := of_words rfl (fun _ => decode_four_of (op := 0x61) (by decide) (by
  show some (Instr.stg d (TailM.of t.bits)) = _
  rw [TailM.of_bits]))
theorem atom (d : BitVec 7) (t : TailM) : Statement (.atom d t) := of_words rfl (fun _ => decode_four_of (op := 0x62) (by decide) (by
  show some (Instr.atom d (TailM.of t.bits)) = _
  rw [TailM.of_bits]))
theorem cas (d : BitVec 7) (t : TailM) : Statement (.cas d t) := of_words rfl (fun _ => decode_four_of (op := 0x63) (by decide) (by
  show some (Instr.cas d (TailM.of t.bits)) = _
  rw [TailM.of_bits]))
theorem red (d : BitVec 7) (t : TailM) : Statement (.red d t) := of_words rfl (fun _ => decode_four_of (op := 0x64) (by decide) (by
  show some (Instr.red d (TailM.of t.bits)) = _
  rw [TailM.of_bits]))
theorem fence (d : BitVec 7) (t : TailV) : Statement (.fence d t) := of_words rfl (fun _ => decode_two_of (op := 0x65) (by decide) (by
  show some (Instr.fence d (TailV.of t.bits)) = _
  rw [TailV.of_bits]))
theorem pref (d : BitVec 7) (t : TailM) : Statement (.pref d t) := of_words rfl (fun _ => decode_four_of (op := 0x66) (by decide) (by
  show some (Instr.pref d (TailM.of t.bits)) = _
  rw [TailM.of_bits]))
theorem ldnc (d : BitVec 7) (t : TailM) : Statement (.ldnc d t) := of_words rfl (fun _ => decode_four_of (op := 0x67) (by decide) (by
  show some (Instr.ldnc d (TailM.of t.bits)) = _
  rw [TailM.of_bits]))
theorem fabinv (d : BitVec 7) (t : TailV) : Statement (.fabinv d t) := of_words rfl (fun _ => decode_two_of (op := 0x68) (by decide) (by
  show some (Instr.fabinv d (TailV.of t.bits)) = _
  rw [TailV.of_bits]))
theorem flushl (d : BitVec 7) (t : TailM) : Statement (.flushl d t) := of_words rfl (fun _ => decode_four_of (op := 0x69) (by decide) (by
  show some (Instr.flushl d (TailM.of t.bits)) = _
  rw [TailM.of_bits]))
theorem invl (d : BitVec 7) (t : TailM) : Statement (.invl d t) := of_words rfl (fun _ => decode_four_of (op := 0x6A) (by decide) (by
  show some (Instr.invl d (TailM.of t.bits)) = _
  rw [TailM.of_bits]))
theorem send (d : BitVec 7) (t : TailE) : Statement (.send d t) := of_words rfl (fun hw => decode_four_of (op := 0x6B) (by decide) (by
  have hb : t.f12.getLsbD 0 = false := by 
    have h := hw
    simp only [Bool.and_eq_true, decide_eq_true_eq, Bool.or_eq_true, Bool.not_eq_true', Instr.wf, useSend, vBC, vOnly, useSact, useScommit, useSset, ttUse, jgetUse, issueUse, statusUse, f12Is, layPlain, sidesUse, packedUse, packedLegal] at h
    revert h; generalize t.f12 = g; simp <;> first | (intros; assumption) | (intros; subst_vars; rfl) | (intros; simp_all) | (revert g; decide)
  show some (if t.bits.getLsbD 0 then Instr.sendLaunch d (TailE.of t.bits) else Instr.send d (TailE.of t.bits)) = _
  rw [TailE.lsb t 0 (by decide), hb, TailE.of_bits]; rfl))
theorem sendLaunch (d : BitVec 7) (t : TailE) : Statement (.sendLaunch d t) := of_words rfl (fun hw => decode_four_of (op := 0x6B) (by decide) (by
  have hb : t.f12.getLsbD 0 = true := by 
    have h := hw
    simp only [Bool.and_eq_true, decide_eq_true_eq, Bool.or_eq_true, Bool.not_eq_true', Instr.wf, useSendLaunch, vBC, vOnly, useSact, useScommit, useSset, ttUse, jgetUse, issueUse, statusUse, f12Is, layPlain, sidesUse, packedUse, packedLegal] at h
    revert h; generalize t.f12 = g; simp <;> first | (intros; assumption) | (intros; subst_vars; rfl) | (intros; simp_all) | (revert g; decide)
  show some (if t.bits.getLsbD 0 then Instr.sendLaunch d (TailE.of t.bits) else Instr.send d (TailE.of t.bits)) = _
  rw [TailE.lsb t 0 (by decide), hb, TailE.of_bits]; rfl))
theorem spawn (d : BitVec 7) (t : TailE) : Statement (.spawn d t) := of_words rfl (fun _ => decode_four_of (op := 0x6C) (by decide) (by
  show some (Instr.spawn d (TailE.of t.bits)) = _
  rw [TailE.of_bits]))
theorem cwait (d : BitVec 7) (t : TailI) : Statement (.cwait d t) := of_words rfl (fun _ => decode_two_of (op := 0x70) (by decide) (by
  show some (Instr.cwait d (TailI.of t.bits)) = _
  rw [TailI.of_bits]))
theorem cwaitr (d : BitVec 7) (t : TailV) : Statement (.cwaitr d t) := of_words rfl (fun _ => decode_two_of (op := 0x71) (by decide) (by
  show some (Instr.cwaitr d (TailV.of t.bits)) = _
  rw [TailV.of_bits]))
theorem csig (d : BitVec 7) (t : TailI) : Statement (.csig d t) := of_words rfl (fun hw => decode_two_of (op := 0x72) (by decide) (by
  have hb : t.imm.getLsbD 16 = false := by 
    have h := hw
    simp only [Bool.and_eq_true, decide_eq_true_eq, Bool.or_eq_true, Bool.not_eq_true', Instr.wf, useCsig, vBC, vOnly, useSact, useScommit, useSset, ttUse, jgetUse, issueUse, statusUse, f12Is, layPlain, sidesUse, packedUse, packedLegal] at h
    revert h; generalize t.imm = g; simp <;> first | (intros; assumption) | (intros; subst_vars; rfl) | (intros; simp_all) | (revert g; decide)
  show some (if t.bits.getLsbD 16 then Instr.csigRmt d (TailI.of t.bits) else Instr.csig d (TailI.of t.bits)) = _
  rw [TailI.lsb t 16 (by decide), hb, TailI.of_bits]; rfl))
theorem csigRmt (d : BitVec 7) (t : TailI) : Statement (.csigRmt d t) := of_words rfl (fun hw => decode_two_of (op := 0x72) (by decide) (by
  have hb : t.imm.getLsbD 16 = true := by 
    have h := hw
    simp only [Bool.and_eq_true, decide_eq_true_eq, Bool.or_eq_true, Bool.not_eq_true', Instr.wf, useCsigRmt, vBC, vOnly, useSact, useScommit, useSset, ttUse, jgetUse, issueUse, statusUse, f12Is, layPlain, sidesUse, packedUse, packedLegal] at h
    revert h; generalize t.imm = g; simp <;> first | (intros; assumption) | (intros; subst_vars; rfl) | (intros; simp_all) | (revert g; decide)
  show some (if t.bits.getLsbD 16 then Instr.csigRmt d (TailI.of t.bits) else Instr.csig d (TailI.of t.bits)) = _
  rw [TailI.lsb t 16 (by decide), hb, TailI.of_bits]; rfl))
theorem cset (d : BitVec 7) (t : TailI) : Statement (.cset d t) := of_words rfl (fun _ => decode_two_of (op := 0x73) (by decide) (by
  show some (Instr.cset d (TailI.of t.bits)) = _
  rw [TailI.of_bits]))
theorem cget (d : BitVec 7) (t : TailI) : Statement (.cget d t) := of_words rfl (fun _ => decode_two_of (op := 0x74) (by decide) (by
  show some (Instr.cget d (TailI.of t.bits)) = _
  rw [TailI.of_bits]))
theorem ctrig (d : BitVec 7) (t : TailV) : Statement (.ctrig d t) := of_words rfl (fun hw => decode_two_of (op := 0x75) (by decide) (by
  have hb : t.f.getLsbD 0 = false := by 
    have h := hw
    simp only [Bool.and_eq_true, decide_eq_true_eq, Bool.or_eq_true, Bool.not_eq_true', Instr.wf, useCtrig, vBC, vOnly, useSact, useScommit, useSset, ttUse, jgetUse, issueUse, statusUse, f12Is, layPlain, sidesUse, packedUse, packedLegal] at h
    exact bit0_of _ h.2
  show some (if t.bits.getLsbD 0 then Instr.ctrigOff d (TailV.of t.bits) else Instr.ctrig d (TailV.of t.bits)) = _
  rw [TailV.lsb t 0 (by decide), hb, TailV.of_bits]; rfl))
theorem ctrigOff (d : BitVec 7) (t : TailV) : Statement (.ctrigOff d t) := of_words rfl (fun hw => decode_two_of (op := 0x75) (by decide) (by
  have hb : t.f.getLsbD 0 = true := by 
    have h := hw
    simp only [Bool.and_eq_true, decide_eq_true_eq, Bool.or_eq_true, Bool.not_eq_true', Instr.wf, useCtrigOff, vBC, vOnly, useSact, useScommit, useSset, ttUse, jgetUse, issueUse, statusUse, f12Is, layPlain, sidesUse, packedUse, packedLegal] at h
    revert h; generalize t.f = g; simp <;> first | (intros; assumption) | (intros; subst_vars; rfl) | (intros; simp_all) | (revert g; decide)
  show some (if t.bits.getLsbD 0 then Instr.ctrigOff d (TailV.of t.bits) else Instr.ctrig d (TailV.of t.bits)) = _
  rw [TailV.lsb t 0 (by decide), hb, TailV.of_bits]; rfl))
theorem bar (d : BitVec 7) (t : TailV) : Statement (.bar d t) := of_words rfl (fun _ => decode_two_of (op := 0x76) (by decide) (by
  show some (Instr.bar d (TailV.of t.bits)) = _
  rw [TailV.of_bits]))
theorem chkw (d : BitVec 7) (t : TailV) : Statement (.chkw d t) := of_words rfl (fun _ => decode_two_of (op := 0x77) (by decide) (by
  show some (Instr.chkw d (TailV.of t.bits)) = _
  rw [TailV.of_bits]))
theorem get (d : BitVec 7) (t : TailE) : Statement (.get d t) := of_words rfl (fun hw => decode_four_of (op := 0x78) (by decide) (by
  have hsub : t.f12.toNat / 256 = 0 := by 
    have h := hw
    simp only [Bool.and_eq_true, decide_eq_true_eq, Bool.or_eq_true, Bool.not_eq_true', Instr.wf, useGet, vBC, vOnly, useSact, useScommit, useSset, ttUse, jgetUse, issueUse, statusUse, f12Is, layPlain, sidesUse, packedUse, packedLegal] at h
    exact f12Sub_of h.2 (by decide)
  show decodeFour78 (fld t.bits 11 8) d t.bits = _
  rw [TailE.sub, hsub]
  show some (Instr.get d (TailE.of t.bits)) = _
  rw [TailE.of_bits]))
theorem put (d : BitVec 7) (t : TailE) : Statement (.put d t) := of_words rfl (fun hw => decode_four_of (op := 0x78) (by decide) (by
  have hsub : t.f12.toNat / 256 = 1 := by 
    have h := hw
    simp only [Bool.and_eq_true, decide_eq_true_eq, Bool.or_eq_true, Bool.not_eq_true', Instr.wf, usePut, vBC, vOnly, useSact, useScommit, useSset, ttUse, jgetUse, issueUse, statusUse, f12Is, layPlain, sidesUse, packedUse, packedLegal] at h
    exact f12Sub_of h.2 (by decide)
  show decodeFour78 (fld t.bits 11 8) d t.bits = _
  rw [TailE.sub, hsub]
  show some (Instr.put d (TailE.of t.bits)) = _
  rw [TailE.of_bits]))
theorem tcopy (d : BitVec 7) (t : TailE) : Statement (.tcopy d t) := of_words rfl (fun hw => decode_four_of (op := 0x78) (by decide) (by
  have hsub : t.f12.toNat / 256 = 2 := by 
    have h := hw
    simp only [Bool.and_eq_true, decide_eq_true_eq, Bool.or_eq_true, Bool.not_eq_true', Instr.wf, useTcopy, vBC, vOnly, useSact, useScommit, useSset, ttUse, jgetUse, issueUse, statusUse, f12Is, layPlain, sidesUse, packedUse, packedLegal] at h
    exact f12Sub_of h.1.1.2 (by decide)
  show decodeFour78 (fld t.bits 11 8) d t.bits = _
  rw [TailE.sub, hsub]
  show some (Instr.tcopy d (TailE.of t.bits)) = _
  rw [TailE.of_bits]))
theorem tgath (d : BitVec 7) (t : TailE) : Statement (.tgath d t) := of_words rfl (fun hw => decode_four_of (op := 0x78) (by decide) (by
  have hsub : t.f12.toNat / 256 = 3 := by 
    have h := hw
    simp only [Bool.and_eq_true, decide_eq_true_eq, Bool.or_eq_true, Bool.not_eq_true', Instr.wf, useTgath, vBC, vOnly, useSact, useScommit, useSset, ttUse, jgetUse, issueUse, statusUse, f12Is, layPlain, sidesUse, packedUse, packedLegal] at h
    exact f12Sub_of h.1.2 (by decide)
  show decodeFour78 (fld t.bits 11 8) d t.bits = _
  rw [TailE.sub, hsub]
  show some (Instr.tgath d (TailE.of t.bits)) = _
  rw [TailE.of_bits]))
theorem tscat (d : BitVec 7) (t : TailE) : Statement (.tscat d t) := of_words rfl (fun hw => decode_four_of (op := 0x78) (by decide) (by
  have hsub : t.f12.toNat / 256 = 4 := by 
    have h := hw
    simp only [Bool.and_eq_true, decide_eq_true_eq, Bool.or_eq_true, Bool.not_eq_true', Instr.wf, useTscat, vBC, vOnly, useSact, useScommit, useSset, ttUse, jgetUse, issueUse, statusUse, f12Is, layPlain, sidesUse, packedUse, packedLegal] at h
    exact f12Sub_of h.1.2 (by decide)
  show decodeFour78 (fld t.bits 11 8) d t.bits = _
  rw [TailE.sub, hsub]
  show some (Instr.tscat d (TailE.of t.bits)) = _
  rw [TailE.of_bits]))
theorem cfill (d : BitVec 7) (t : TailE) : Statement (.cfill d t) := of_words rfl (fun hw => decode_four_of (op := 0x78) (by decide) (by
  have hsub : t.f12.toNat / 256 = 5 := by 
    have h := hw
    simp only [Bool.and_eq_true, decide_eq_true_eq, Bool.or_eq_true, Bool.not_eq_true', Instr.wf, useCfill, vBC, vOnly, useSact, useScommit, useSset, ttUse, jgetUse, issueUse, statusUse, f12Is, layPlain, sidesUse, packedUse, packedLegal] at h
    exact f12Sub_of h.1.2 (by decide)
  show decodeFour78 (fld t.bits 11 8) d t.bits = _
  rw [TailE.sub, hsub]
  show some (Instr.cfill d (TailE.of t.bits)) = _
  rw [TailE.of_bits]))
theorem creplay (d : BitVec 7) (t : TailV) : Statement (.creplay d t) := of_words rfl (fun hw => decode_two_of (op := 0x78) (by decide) (by
  have hsub : t.f.toNat / 8 = 6 := by 
    have h := hw
    simp only [Bool.and_eq_true, decide_eq_true_eq, Bool.or_eq_true, Bool.not_eq_true', Instr.wf, useCreplay, vBC, vOnly, useSact, useScommit, useSset, ttUse, jgetUse, issueUse, statusUse, f12Is, layPlain, sidesUse, packedUse, packedLegal] at h
    first | omega | (have e : t.f = _ := h.1.2; rw [e]; rfl) | (have e : t.f = _ := h.2; rw [e]; rfl) | (rcases h.1.2 with e | e <;> rw [e] <;> rfl) | (rcases h.2 with e | e <;> rw [e] <;> rfl)| (rcases h.2 with (e | e) | e <;> rw [e] <;> rfl) | exact sub0_of _ h | exact sub0_of _ h.1 | exact sub0_of _ h.1.1 | exact sub0_of _ h.1.1.1 | exact sub0_of _ h.1.1.1.1 | exact sub0_of _ h.1.1.1.1.1 | exact sub0_of _ h.1.1.1.1.1.1 | exact sub0_of _ h.1.1.1.1.1.1.1 | exact sub0_of _ h.2 | exact sub0_of _ h.1.2 | exact sub0_of _ h.1.1.2 | exact sub0_of _ h.1.1.1.2 | exact sub0_of _ h.1.1.1.1.2 | exact sub0_of _ h.1.1.1.1.1.2 | exact sub0_of _ h.1.1.1.1.1.1.2 | exact sub0_of _ h.1.1.1.1.1.1.1.2 | exact sub0_of _ h.1.2.2 | exact sub0_of _ h.1.1.2.2 | exact sub0_of _ h.2.2 | exact f12Sub_of h (by decide) | exact f12Sub_of h.1 (by decide) | exact f12Sub_of h.1.1 (by decide) | exact f12Sub_of h.1.1.1 (by decide) | exact f12Sub_of h.1.1.1.1 (by decide) | exact f12Sub_of h.1.1.1.1.1 (by decide) | exact f12Sub_of h.1.1.1.1.1.1 (by decide) | exact f12Sub_of h.1.1.1.1.1.1.1 (by decide) | exact f12Sub_of h.2 (by decide) | exact f12Sub_of h.1.2 (by decide) | exact f12Sub_of h.1.1.2 (by decide) | exact f12Sub_of h.1.1.1.2 (by decide) | exact f12Sub_of h.1.1.1.1.2 (by decide) | exact f12Sub_of h.1.1.1.1.1.2 (by decide) | exact f12Sub_of h.1.1.1.1.1.1.2 (by decide) | exact f12Sub_of h.1.1.1.1.1.1.1.2 (by decide) | exact f12Sub_of h.1.2.2 (by decide) | exact f12Sub_of h.1.1.2.2 (by decide) | exact f12Sub_of h.2.2 (by decide)
  show decodeTwo78 (fld t.bits 6 3) d t.bits = _
  rw [TailV.sub, hsub]
  show some (Instr.creplay d (TailV.of t.bits)) = _
  rw [TailV.of_bits]))
theorem layset (d : BitVec 7) (t : TailE) : Statement (.layset d t) := of_words rfl (fun hw => decode_four_of (op := 0x79) (by decide) (by
  have hsub : t.f12.toNat / 256 = 0 := by 
    have h := hw
    simp only [Bool.and_eq_true, decide_eq_true_eq, Bool.or_eq_true, Bool.not_eq_true', Instr.wf, useLayset, vBC, vOnly, useSact, useScommit, useSset, ttUse, jgetUse, issueUse, statusUse, f12Is, layPlain, sidesUse, packedUse, packedLegal] at h
    first | omega | (have e : t.f = _ := h.1.2; rw [e]; rfl) | (have e : t.f = _ := h.2; rw [e]; rfl) | (rcases h.1.2 with e | e <;> rw [e] <;> rfl) | (rcases h.2 with e | e <;> rw [e] <;> rfl)| (rcases h.2 with (e | e) | e <;> rw [e] <;> rfl) | exact sub0_of _ h | exact sub0_of _ h.1 | exact sub0_of _ h.1.1 | exact sub0_of _ h.1.1.1 | exact sub0_of _ h.1.1.1.1 | exact sub0_of _ h.1.1.1.1.1 | exact sub0_of _ h.1.1.1.1.1.1 | exact sub0_of _ h.1.1.1.1.1.1.1 | exact sub0_of _ h.2 | exact sub0_of _ h.1.2 | exact sub0_of _ h.1.1.2 | exact sub0_of _ h.1.1.1.2 | exact sub0_of _ h.1.1.1.1.2 | exact sub0_of _ h.1.1.1.1.1.2 | exact sub0_of _ h.1.1.1.1.1.1.2 | exact sub0_of _ h.1.1.1.1.1.1.1.2 | exact sub0_of _ h.1.2.2 | exact sub0_of _ h.1.1.2.2 | exact sub0_of _ h.2.2 | exact f12Sub_of h (by decide) | exact f12Sub_of h.1 (by decide) | exact f12Sub_of h.1.1 (by decide) | exact f12Sub_of h.1.1.1 (by decide) | exact f12Sub_of h.1.1.1.1 (by decide) | exact f12Sub_of h.1.1.1.1.1 (by decide) | exact f12Sub_of h.1.1.1.1.1.1 (by decide) | exact f12Sub_of h.1.1.1.1.1.1.1 (by decide) | exact f12Sub_of h.2 (by decide) | exact f12Sub_of h.1.2 (by decide) | exact f12Sub_of h.1.1.2 (by decide) | exact f12Sub_of h.1.1.1.2 (by decide) | exact f12Sub_of h.1.1.1.1.2 (by decide) | exact f12Sub_of h.1.1.1.1.1.2 (by decide) | exact f12Sub_of h.1.1.1.1.1.1.2 (by decide) | exact f12Sub_of h.1.1.1.1.1.1.1.2 (by decide) | exact f12Sub_of h.1.2.2 (by decide) | exact f12Sub_of h.1.1.2.2 (by decide) | exact f12Sub_of h.2.2 (by decide)
  show decodeFour79 (fld t.bits 11 8) d t.bits = _
  rw [TailE.sub, hsub]
  show some (Instr.layset d (TailE.of t.bits)) = _
  rw [TailE.of_bits]))
theorem layget (d : BitVec 7) (t : TailE) : Statement (.layget d t) := of_words rfl (fun hw => decode_four_of (op := 0x79) (by decide) (by
  have hsub : t.f12.toNat / 256 = 1 := by 
    have h := hw
    simp only [Bool.and_eq_true, decide_eq_true_eq, Bool.or_eq_true, Bool.not_eq_true', Instr.wf, useLayget, vBC, vOnly, useSact, useScommit, useSset, ttUse, jgetUse, issueUse, statusUse, f12Is, layPlain, sidesUse, packedUse, packedLegal] at h
    exact f12Sub_of h.1.1.2 (by decide)
  show decodeFour79 (fld t.bits 11 8) d t.bits = _
  rw [TailE.sub, hsub]
  show some (Instr.layget d (TailE.of t.bits)) = _
  rw [TailE.of_bits]))
theorem laykey (d : BitVec 7) (t : TailE) : Statement (.laykey d t) := of_words rfl (fun hw => decode_four_of (op := 0x79) (by decide) (by
  have hsub : t.f12.toNat / 256 = 2 := by 
    have h := hw
    simp only [Bool.and_eq_true, decide_eq_true_eq, Bool.or_eq_true, Bool.not_eq_true', Instr.wf, useLaykey, vBC, vOnly, useSact, useScommit, useSset, ttUse, jgetUse, issueUse, statusUse, f12Is, layPlain, sidesUse, packedUse, packedLegal] at h
    exact f12Sub_of h.2 (by decide)
  show decodeFour79 (fld t.bits 11 8) d t.bits = _
  rw [TailE.sub, hsub]
  show some (Instr.laykey d (TailE.of t.bits)) = _
  rw [TailE.of_bits]))
theorem mma (d : BitVec 7) (t : TailE) : Statement (.mma d t) := of_words rfl (fun hw => decode_four_of (op := 0x7A) (by decide) (by
  have hsub : t.f12.toNat / 256 = 0 := by 
    have h := hw
    simp only [Bool.and_eq_true, decide_eq_true_eq, Bool.or_eq_true, Bool.not_eq_true', Instr.wf, useMma, vBC, vOnly, useSact, useScommit, useSset, ttUse, jgetUse, issueUse, statusUse, f12Is, layPlain, sidesUse, packedUse, packedLegal] at h
    exact f12Sub_of h.1.2 (by decide)
  show decodeFour7A (fld t.bits 11 8) d t.bits = _
  rw [TailE.sub, hsub]
  show some (Instr.mma d (TailE.of t.bits)) = _
  rw [TailE.of_bits]))
theorem mmz (d : BitVec 7) (t : TailV) : Statement (.mmz d t) := of_words rfl (fun hw => decode_two_of (op := 0x7A) (by decide) (by
  have hsub : t.f.toNat / 8 = 1 := by 
    have h := hw
    simp only [Bool.and_eq_true, decide_eq_true_eq, Bool.or_eq_true, Bool.not_eq_true', Instr.wf, useMmz, vBC, vOnly, useSact, useScommit, useSset, ttUse, jgetUse, issueUse, statusUse, f12Is, layPlain, sidesUse, packedUse, packedLegal] at h
    (rcases h.1.2 with e | e <;> rw [e] <;> rfl)
  show decodeTwo7A (fld t.bits 6 3) d t.bits = _
  rw [TailV.sub, hsub]
  show some (Instr.mmz d (TailV.of t.bits)) = _
  rw [TailV.of_bits]))
theorem wbld (d : BitVec 7) (t : TailE) : Statement (.wbld d t) := of_words rfl (fun hw => decode_four_of (op := 0x7A) (by decide) (by
  have hsub : t.f12.toNat / 256 = 2 := by 
    have h := hw
    simp only [Bool.and_eq_true, decide_eq_true_eq, Bool.or_eq_true, Bool.not_eq_true', Instr.wf, useWbld, vBC, vOnly, useSact, useScommit, useSset, ttUse, jgetUse, issueUse, statusUse, f12Is, layPlain, sidesUse, packedUse, packedLegal] at h
    exact f12Sub_of h.1.1.2 (by decide)
  show decodeFour7A (fld t.bits 11 8) d t.bits = _
  rw [TailE.sub, hsub]
  show some (Instr.wbld d (TailE.of t.bits)) = _
  rw [TailE.of_bits]))
theorem wbsel (d : BitVec 7) (t : TailV) : Statement (.wbsel d t) := of_words rfl (fun hw => decode_two_of (op := 0x7A) (by decide) (by
  have hsub : t.f.toNat / 8 = 3 := by 
    have h := hw
    simp only [Bool.and_eq_true, decide_eq_true_eq, Bool.or_eq_true, Bool.not_eq_true', Instr.wf, useWbsel, vBC, vOnly, useSact, useScommit, useSset, ttUse, jgetUse, issueUse, statusUse, f12Is, layPlain, sidesUse, packedUse, packedLegal] at h
    first | omega | (have e : t.f = _ := h.1.2; rw [e]; rfl) | (have e : t.f = _ := h.2; rw [e]; rfl) | (rcases h.1.2 with e | e <;> rw [e] <;> rfl) | (rcases h.2 with e | e <;> rw [e] <;> rfl)| (rcases h.2 with (e | e) | e <;> rw [e] <;> rfl) | exact sub0_of _ h | exact sub0_of _ h.1 | exact sub0_of _ h.1.1 | exact sub0_of _ h.1.1.1 | exact sub0_of _ h.1.1.1.1 | exact sub0_of _ h.1.1.1.1.1 | exact sub0_of _ h.1.1.1.1.1.1 | exact sub0_of _ h.1.1.1.1.1.1.1 | exact sub0_of _ h.2 | exact sub0_of _ h.1.2 | exact sub0_of _ h.1.1.2 | exact sub0_of _ h.1.1.1.2 | exact sub0_of _ h.1.1.1.1.2 | exact sub0_of _ h.1.1.1.1.1.2 | exact sub0_of _ h.1.1.1.1.1.1.2 | exact sub0_of _ h.1.1.1.1.1.1.1.2 | exact sub0_of _ h.1.2.2 | exact sub0_of _ h.1.1.2.2 | exact sub0_of _ h.2.2 | exact f12Sub_of h (by decide) | exact f12Sub_of h.1 (by decide) | exact f12Sub_of h.1.1 (by decide) | exact f12Sub_of h.1.1.1 (by decide) | exact f12Sub_of h.1.1.1.1 (by decide) | exact f12Sub_of h.1.1.1.1.1 (by decide) | exact f12Sub_of h.1.1.1.1.1.1 (by decide) | exact f12Sub_of h.1.1.1.1.1.1.1 (by decide) | exact f12Sub_of h.2 (by decide) | exact f12Sub_of h.1.2 (by decide) | exact f12Sub_of h.1.1.2 (by decide) | exact f12Sub_of h.1.1.1.2 (by decide) | exact f12Sub_of h.1.1.1.1.2 (by decide) | exact f12Sub_of h.1.1.1.1.1.2 (by decide) | exact f12Sub_of h.1.1.1.1.1.1.2 (by decide) | exact f12Sub_of h.1.1.1.1.1.1.1.2 (by decide) | exact f12Sub_of h.1.2.2 (by decide) | exact f12Sub_of h.1.1.2.2 (by decide) | exact f12Sub_of h.2.2 (by decide)
  show decodeTwo7A (fld t.bits 6 3) d t.bits = _
  rw [TailV.sub, hsub]
  show some (Instr.wbsel d (TailV.of t.bits)) = _
  rw [TailV.of_bits]))
theorem accvt (d : BitVec 7) (t : TailE) : Statement (.accvt d t) := of_words rfl (fun hw => decode_four_of (op := 0x7A) (by decide) (by
  have hsub : t.f12.toNat / 256 = 4 := by 
    have h := hw
    simp only [Bool.and_eq_true, decide_eq_true_eq, Bool.or_eq_true, Bool.not_eq_true', Instr.wf, useAccvt, vBC, vOnly, useSact, useScommit, useSset, ttUse, jgetUse, issueUse, statusUse, f12Is, layPlain, sidesUse, packedUse, packedLegal] at h
    exact f12Sub_of h.1.1.2 (by decide)
  show decodeFour7A (fld t.bits 11 8) d t.bits = _
  rw [TailE.sub, hsub]
  show some (Instr.accvt d (TailE.of t.bits)) = _
  rw [TailE.of_bits]))
theorem sfork (d : BitVec 7) (t : TailV) : Statement (.sfork d t) := of_words rfl (fun hw => decode_two_of (op := 0x7B) (by decide) (by
  have hsub : t.f.toNat / 8 = 0 := by 
    have h := hw
    simp only [Bool.and_eq_true, decide_eq_true_eq, Bool.or_eq_true, Bool.not_eq_true', Instr.wf, useSfork, vBC, vOnly, useSact, useScommit, useSset, ttUse, jgetUse, issueUse, statusUse, f12Is, layPlain, sidesUse, packedUse, packedLegal] at h
    omega
  show decodeTwo7B (fld t.bits 6 3) d t.bits = _
  rw [TailV.sub, hsub]
  show some (Instr.sfork d (TailV.of t.bits)) = _
  rw [TailV.of_bits]))
theorem sret (d : BitVec 7) (t : TailV) : Statement (.sret d t) := of_words rfl (fun hw => decode_two_of (op := 0x7B) (by decide) (by
  have hsub : t.f.toNat / 8 = 1 := by 
    have h := hw
    simp only [Bool.and_eq_true, decide_eq_true_eq, Bool.or_eq_true, Bool.not_eq_true', Instr.wf, useSret, vBC, vOnly, useSact, useScommit, useSset, ttUse, jgetUse, issueUse, statusUse, f12Is, layPlain, sidesUse, packedUse, packedLegal] at h
    omega
  show decodeTwo7B (fld t.bits 6 3) d t.bits = _
  rw [TailV.sub, hsub]
  show some (Instr.sret d (TailV.of t.bits)) = _
  rw [TailV.of_bits]))
theorem sprune (d : BitVec 7) (t : TailV) : Statement (.sprune d t) := of_words rfl (fun hw => decode_two_of (op := 0x7B) (by decide) (by
  have hsub : t.f.toNat / 8 = 2 := by 
    have h := hw
    simp only [Bool.and_eq_true, decide_eq_true_eq, Bool.or_eq_true, Bool.not_eq_true', Instr.wf, useSprune, vBC, vOnly, useSact, useScommit, useSset, ttUse, jgetUse, issueUse, statusUse, f12Is, layPlain, sidesUse, packedUse, packedLegal] at h
    omega
  show decodeTwo7B (fld t.bits 6 3) d t.bits = _
  rw [TailV.sub, hsub]
  show some (Instr.sprune d (TailV.of t.bits)) = _
  rw [TailV.of_bits]))
theorem sadv (d : BitVec 7) (t : TailV) : Statement (.sadv d t) := of_words rfl (fun hw => decode_two_of (op := 0x7B) (by decide) (by
  have hsub : t.f.toNat / 8 = 3 := by 
    have h := hw
    simp only [Bool.and_eq_true, decide_eq_true_eq, Bool.or_eq_true, Bool.not_eq_true', Instr.wf, useSadv, vBC, vOnly, useSact, useScommit, useSset, ttUse, jgetUse, issueUse, statusUse, f12Is, layPlain, sidesUse, packedUse, packedLegal] at h
    omega
  show decodeTwo7B (fld t.bits 6 3) d t.bits = _
  rw [TailV.sub, hsub]
  show some (Instr.sadv d (TailV.of t.bits)) = _
  rw [TailV.of_bits]))
theorem sactPush (d : BitVec 7) (t : TailV) : Statement (.sactPush d t) := of_words rfl (fun hw => decode_two_of (op := 0x7B) (by decide) (by
  have hsub : t.f.toNat / 8 = 4 := by 
    have h := hw
    simp only [Bool.and_eq_true, decide_eq_true_eq, Bool.or_eq_true, Bool.not_eq_true', Instr.wf, useSactPush, vBC, vOnly, useSact, useScommit, useSset, ttUse, jgetUse, issueUse, statusUse, f12Is, layPlain, sidesUse, packedUse, packedLegal] at h
    (have e : t.f = _ := h.1.2; rw [e]; rfl)
  show decodeTwo7B (fld t.bits 6 3) d t.bits = _
  rw [TailV.sub, hsub]
  have hop : t.f.toNat % 8 = 0 := by 
    have h := hw
    simp only [Bool.and_eq_true, decide_eq_true_eq, Bool.or_eq_true, Bool.not_eq_true', Instr.wf, useSactPush, vBC, vOnly, useSact, useScommit, useSset, ttUse, jgetUse, issueUse, statusUse, f12Is, layPlain, sidesUse, packedUse, packedLegal] at h
    (have e : t.f = _ := h.1.2; rw [e]; rfl)
  simp only [decodeTwo7B, TailV.op, hop, TailV.of_bits]))
theorem sactPop (d : BitVec 7) (t : TailV) : Statement (.sactPop d t) := of_words rfl (fun hw => decode_two_of (op := 0x7B) (by decide) (by
  have hsub : t.f.toNat / 8 = 4 := by 
    have h := hw
    simp only [Bool.and_eq_true, decide_eq_true_eq, Bool.or_eq_true, Bool.not_eq_true', Instr.wf, useSactPop, vBC, vOnly, useSact, useScommit, useSset, ttUse, jgetUse, issueUse, statusUse, f12Is, layPlain, sidesUse, packedUse, packedLegal] at h
    (have e : t.f = _ := h.1.2; rw [e]; rfl)
  show decodeTwo7B (fld t.bits 6 3) d t.bits = _
  rw [TailV.sub, hsub]
  have hop : t.f.toNat % 8 = 1 := by 
    have h := hw
    simp only [Bool.and_eq_true, decide_eq_true_eq, Bool.or_eq_true, Bool.not_eq_true', Instr.wf, useSactPop, vBC, vOnly, useSact, useScommit, useSset, ttUse, jgetUse, issueUse, statusUse, f12Is, layPlain, sidesUse, packedUse, packedLegal] at h
    (have e : t.f = _ := h.1.2; rw [e]; rfl)
  simp only [decodeTwo7B, TailV.op, hop, TailV.of_bits]))
theorem sactPeek (d : BitVec 7) (t : TailV) : Statement (.sactPeek d t) := of_words rfl (fun hw => decode_two_of (op := 0x7B) (by decide) (by
  have hsub : t.f.toNat / 8 = 4 := by 
    have h := hw
    simp only [Bool.and_eq_true, decide_eq_true_eq, Bool.or_eq_true, Bool.not_eq_true', Instr.wf, useSactPeek, vBC, vOnly, useSact, useScommit, useSset, ttUse, jgetUse, issueUse, statusUse, f12Is, layPlain, sidesUse, packedUse, packedLegal] at h
    (have e : t.f = _ := h.1.2; rw [e]; rfl)
  show decodeTwo7B (fld t.bits 6 3) d t.bits = _
  rw [TailV.sub, hsub]
  have hop : t.f.toNat % 8 = 2 := by 
    have h := hw
    simp only [Bool.and_eq_true, decide_eq_true_eq, Bool.or_eq_true, Bool.not_eq_true', Instr.wf, useSactPeek, vBC, vOnly, useSact, useScommit, useSset, ttUse, jgetUse, issueUse, statusUse, f12Is, layPlain, sidesUse, packedUse, packedLegal] at h
    (have e : t.f = _ := h.1.2; rw [e]; rfl)
  simp only [decodeTwo7B, TailV.op, hop, TailV.of_bits]))
theorem spgr (d : BitVec 7) (t : TailE) : Statement (.spgr d t) := of_words rfl (fun hw => decode_four_of (op := 0x7B) (by decide) (by
  have hsub : t.f12.toNat / 256 = 5 := by 
    have h := hw
    simp only [Bool.and_eq_true, decide_eq_true_eq, Bool.or_eq_true, Bool.not_eq_true', Instr.wf, useSpgr, vBC, vOnly, useSact, useScommit, useSset, ttUse, jgetUse, issueUse, statusUse, f12Is, layPlain, sidesUse, packedUse, packedLegal] at h
    exact f12Sub_of h.1 (by decide)
  show decodeFour7B (fld t.bits 11 8) d t.bits = _
  rw [TailE.sub, hsub]
  show some (Instr.spgr d (TailE.of t.bits)) = _
  rw [TailE.of_bits]))
theorem spgw (d : BitVec 7) (t : TailE) : Statement (.spgw d t) := of_words rfl (fun hw => decode_four_of (op := 0x7B) (by decide) (by
  have hsub : t.f12.toNat / 256 = 6 := by 
    have h := hw
    simp only [Bool.and_eq_true, decide_eq_true_eq, Bool.or_eq_true, Bool.not_eq_true', Instr.wf, useSpgw, vBC, vOnly, useSact, useScommit, useSset, ttUse, jgetUse, issueUse, statusUse, f12Is, layPlain, sidesUse, packedUse, packedLegal] at h
    exact f12Sub_of h.1 (by decide)
  show decodeFour7B (fld t.bits 11 8) d t.bits = _
  rw [TailE.sub, hsub]
  show some (Instr.spgw d (TailE.of t.bits)) = _
  rw [TailE.of_bits]))
theorem scommitBegin (d : BitVec 7) (t : TailV) : Statement (.scommitBegin d t) := of_words rfl (fun hw => decode_two_of (op := 0x7B) (by decide) (by
  have hsub : t.f.toNat / 8 = 7 := by 
    have h := hw
    simp only [Bool.and_eq_true, decide_eq_true_eq, Bool.or_eq_true, Bool.not_eq_true', Instr.wf, useScommitBegin, vBC, vOnly, useSact, useScommit, useSset, ttUse, jgetUse, issueUse, statusUse, f12Is, layPlain, sidesUse, packedUse, packedLegal] at h
    (have e : t.f = _ := h.2; rw [e]; rfl)
  show decodeTwo7B (fld t.bits 6 3) d t.bits = _
  rw [TailV.sub, hsub]
  have hop : t.f.toNat % 8 = 2 := by 
    have h := hw
    simp only [Bool.and_eq_true, decide_eq_true_eq, Bool.or_eq_true, Bool.not_eq_true', Instr.wf, useScommitBegin, vBC, vOnly, useSact, useScommit, useSset, ttUse, jgetUse, issueUse, statusUse, f12Is, layPlain, sidesUse, packedUse, packedLegal] at h
    (have e : t.f = _ := h.2; rw [e]; rfl)
  simp only [decodeTwo7B, TailV.op, hop, TailV.of_bits]))
theorem scommitCommit (d : BitVec 7) (t : TailV) : Statement (.scommitCommit d t) := of_words rfl (fun hw => decode_two_of (op := 0x7B) (by decide) (by
  have hsub : t.f.toNat / 8 = 7 := by 
    have h := hw
    simp only [Bool.and_eq_true, decide_eq_true_eq, Bool.or_eq_true, Bool.not_eq_true', Instr.wf, useScommitCommit, vBC, vOnly, useSact, useScommit, useSset, ttUse, jgetUse, issueUse, statusUse, f12Is, layPlain, sidesUse, packedUse, packedLegal] at h
    (have e : t.f = _ := h.2; rw [e]; rfl)
  show decodeTwo7B (fld t.bits 6 3) d t.bits = _
  rw [TailV.sub, hsub]
  have hop : t.f.toNat % 8 = 0 := by 
    have h := hw
    simp only [Bool.and_eq_true, decide_eq_true_eq, Bool.or_eq_true, Bool.not_eq_true', Instr.wf, useScommitCommit, vBC, vOnly, useSact, useScommit, useSset, ttUse, jgetUse, issueUse, statusUse, f12Is, layPlain, sidesUse, packedUse, packedLegal] at h
    (have e : t.f = _ := h.2; rw [e]; rfl)
  simp only [decodeTwo7B, TailV.op, hop, TailV.of_bits]))
theorem scommitDiscard (d : BitVec 7) (t : TailV) : Statement (.scommitDiscard d t) := of_words rfl (fun hw => decode_two_of (op := 0x7B) (by decide) (by
  have hsub : t.f.toNat / 8 = 7 := by 
    have h := hw
    simp only [Bool.and_eq_true, decide_eq_true_eq, Bool.or_eq_true, Bool.not_eq_true', Instr.wf, useScommitDiscard, vBC, vOnly, useSact, useScommit, useSset, ttUse, jgetUse, issueUse, statusUse, f12Is, layPlain, sidesUse, packedUse, packedLegal] at h
    (have e : t.f = _ := h.2; rw [e]; rfl)
  show decodeTwo7B (fld t.bits 6 3) d t.bits = _
  rw [TailV.sub, hsub]
  have hop : t.f.toNat % 8 = 1 := by 
    have h := hw
    simp only [Bool.and_eq_true, decide_eq_true_eq, Bool.or_eq_true, Bool.not_eq_true', Instr.wf, useScommitDiscard, vBC, vOnly, useSact, useScommit, useSset, ttUse, jgetUse, issueUse, statusUse, f12Is, layPlain, sidesUse, packedUse, packedLegal] at h
    (have e : t.f = _ := h.2; rw [e]; rfl)
  simp only [decodeTwo7B, TailV.op, hop, TailV.of_bits]))
theorem sstat (d : BitVec 7) (t : TailV) : Statement (.sstat d t) := of_words rfl (fun hw => decode_two_of (op := 0x7B) (by decide) (by
  have hsub : t.f.toNat / 8 = 8 := by 
    have h := hw
    simp only [Bool.and_eq_true, decide_eq_true_eq, Bool.or_eq_true, Bool.not_eq_true', Instr.wf, useSstat, vBC, vOnly, useSact, useScommit, useSset, ttUse, jgetUse, issueUse, statusUse, f12Is, layPlain, sidesUse, packedUse, packedLegal] at h
    (have e : t.f = _ := h.1.2; rw [e]; rfl)
  show decodeTwo7B (fld t.bits 6 3) d t.bits = _
  rw [TailV.sub, hsub]
  show some (Instr.sstat d (TailV.of t.bits)) = _
  rw [TailV.of_bits]))
theorem ssetBind (d : BitVec 7) (t : TailV) : Statement (.ssetBind d t) := of_words rfl (fun hw => decode_two_of (op := 0x7B) (by decide) (by
  have hsub : t.f.toNat / 8 = 9 := by 
    have h := hw
    simp only [Bool.and_eq_true, decide_eq_true_eq, Bool.or_eq_true, Bool.not_eq_true', Instr.wf, useSsetBind, vBC, vOnly, useSact, useScommit, useSset, ttUse, jgetUse, issueUse, statusUse, f12Is, layPlain, sidesUse, packedUse, packedLegal] at h
    (have e : t.f = _ := h.2; rw [e]; rfl)
  show decodeTwo7B (fld t.bits 6 3) d t.bits = _
  rw [TailV.sub, hsub]
  have hop : t.f.toNat % 8 = 0 := by 
    have h := hw
    simp only [Bool.and_eq_true, decide_eq_true_eq, Bool.or_eq_true, Bool.not_eq_true', Instr.wf, useSsetBind, vBC, vOnly, useSact, useScommit, useSset, ttUse, jgetUse, issueUse, statusUse, f12Is, layPlain, sidesUse, packedUse, packedLegal] at h
    (have e : t.f = _ := h.2; rw [e]; rfl)
  simp only [decodeTwo7B, TailV.op, hop, TailV.of_bits]))
theorem ssetPrio (d : BitVec 7) (t : TailV) : Statement (.ssetPrio d t) := of_words rfl (fun hw => decode_two_of (op := 0x7B) (by decide) (by
  have hsub : t.f.toNat / 8 = 9 := by 
    have h := hw
    simp only [Bool.and_eq_true, decide_eq_true_eq, Bool.or_eq_true, Bool.not_eq_true', Instr.wf, useSsetPrio, vBC, vOnly, useSact, useScommit, useSset, ttUse, jgetUse, issueUse, statusUse, f12Is, layPlain, sidesUse, packedUse, packedLegal] at h
    (have e : t.f = _ := h.2; rw [e]; rfl)
  show decodeTwo7B (fld t.bits 6 3) d t.bits = _
  rw [TailV.sub, hsub]
  have hop : t.f.toNat % 8 = 1 := by 
    have h := hw
    simp only [Bool.and_eq_true, decide_eq_true_eq, Bool.or_eq_true, Bool.not_eq_true', Instr.wf, useSsetPrio, vBC, vOnly, useSact, useScommit, useSset, ttUse, jgetUse, issueUse, statusUse, f12Is, layPlain, sidesUse, packedUse, packedLegal] at h
    (have e : t.f = _ := h.2; rw [e]; rfl)
  simp only [decodeTwo7B, TailV.op, hop, TailV.of_bits]))
theorem ssetModel (d : BitVec 7) (t : TailV) : Statement (.ssetModel d t) := of_words rfl (fun hw => decode_two_of (op := 0x7B) (by decide) (by
  have hsub : t.f.toNat / 8 = 9 := by 
    have h := hw
    simp only [Bool.and_eq_true, decide_eq_true_eq, Bool.or_eq_true, Bool.not_eq_true', Instr.wf, useSsetModel, vBC, vOnly, useSact, useScommit, useSset, ttUse, jgetUse, issueUse, statusUse, f12Is, layPlain, sidesUse, packedUse, packedLegal] at h
    (have e : t.f = _ := h.2; rw [e]; rfl)
  show decodeTwo7B (fld t.bits 6 3) d t.bits = _
  rw [TailV.sub, hsub]
  have hop : t.f.toNat % 8 = 2 := by 
    have h := hw
    simp only [Bool.and_eq_true, decide_eq_true_eq, Bool.or_eq_true, Bool.not_eq_true', Instr.wf, useSsetModel, vBC, vOnly, useSact, useScommit, useSset, ttUse, jgetUse, issueUse, statusUse, f12Is, layPlain, sidesUse, packedUse, packedLegal] at h
    (have e : t.f = _ := h.2; rw [e]; rfl)
  simp only [decodeTwo7B, TailV.op, hop, TailV.of_bits]))
theorem ssetJoin (d : BitVec 7) (t : TailV) : Statement (.ssetJoin d t) := of_words rfl (fun hw => decode_two_of (op := 0x7B) (by decide) (by
  have hsub : t.f.toNat / 8 = 9 := by 
    have h := hw
    simp only [Bool.and_eq_true, decide_eq_true_eq, Bool.or_eq_true, Bool.not_eq_true', Instr.wf, useSsetJoin, vBC, vOnly, useSact, useScommit, useSset, ttUse, jgetUse, issueUse, statusUse, f12Is, layPlain, sidesUse, packedUse, packedLegal] at h
    (have e : t.f = _ := h.2; rw [e]; rfl)
  show decodeTwo7B (fld t.bits 6 3) d t.bits = _
  rw [TailV.sub, hsub]
  have hop : t.f.toNat % 8 = 3 := by 
    have h := hw
    simp only [Bool.and_eq_true, decide_eq_true_eq, Bool.or_eq_true, Bool.not_eq_true', Instr.wf, useSsetJoin, vBC, vOnly, useSact, useScommit, useSset, ttUse, jgetUse, issueUse, statusUse, f12Is, layPlain, sidesUse, packedUse, packedLegal] at h
    (have e : t.f = _ := h.2; rw [e]; rfl)
  simp only [decodeTwo7B, TailV.op, hop, TailV.of_bits]))
theorem ssetRun (d : BitVec 7) (t : TailV) : Statement (.ssetRun d t) := of_words rfl (fun hw => decode_two_of (op := 0x7B) (by decide) (by
  have hsub : t.f.toNat / 8 = 9 := by 
    have h := hw
    simp only [Bool.and_eq_true, decide_eq_true_eq, Bool.or_eq_true, Bool.not_eq_true', Instr.wf, useSsetRun, vBC, vOnly, useSact, useScommit, useSset, ttUse, jgetUse, issueUse, statusUse, f12Is, layPlain, sidesUse, packedUse, packedLegal] at h
    (have e : t.f = _ := h.2; rw [e]; rfl)
  show decodeTwo7B (fld t.bits 6 3) d t.bits = _
  rw [TailV.sub, hsub]
  have hop : t.f.toNat % 8 = 4 := by 
    have h := hw
    simp only [Bool.and_eq_true, decide_eq_true_eq, Bool.or_eq_true, Bool.not_eq_true', Instr.wf, useSsetRun, vBC, vOnly, useSact, useScommit, useSset, ttUse, jgetUse, issueUse, statusUse, f12Is, layPlain, sidesUse, packedUse, packedLegal] at h
    (have e : t.f = _ := h.2; rw [e]; rfl)
  simp only [decodeTwo7B, TailV.op, hop, TailV.of_bits]))
theorem ssetRng (d : BitVec 7) (t : TailV) : Statement (.ssetRng d t) := of_words rfl (fun hw => decode_two_of (op := 0x7B) (by decide) (by
  have hsub : t.f.toNat / 8 = 9 := by 
    have h := hw
    simp only [Bool.and_eq_true, decide_eq_true_eq, Bool.or_eq_true, Bool.not_eq_true', Instr.wf, useSsetRng, vBC, vOnly, useSact, useScommit, useSset, ttUse, jgetUse, issueUse, statusUse, f12Is, layPlain, sidesUse, packedUse, packedLegal] at h
    (have e : t.f = _ := h.2; rw [e]; rfl)
  show decodeTwo7B (fld t.bits 6 3) d t.bits = _
  rw [TailV.sub, hsub]
  have hop : t.f.toNat % 8 = 5 := by 
    have h := hw
    simp only [Bool.and_eq_true, decide_eq_true_eq, Bool.or_eq_true, Bool.not_eq_true', Instr.wf, useSsetRng, vBC, vOnly, useSact, useScommit, useSset, ttUse, jgetUse, issueUse, statusUse, f12Is, layPlain, sidesUse, packedUse, packedLegal] at h
    (have e : t.f = _ := h.2; rw [e]; rfl)
  simp only [decodeTwo7B, TailV.op, hop, TailV.of_bits]))
theorem ssetQueue (d : BitVec 7) (t : TailV) : Statement (.ssetQueue d t) := of_words rfl (fun hw => decode_two_of (op := 0x7B) (by decide) (by
  have hsub : t.f.toNat / 8 = 9 := by 
    have h := hw
    simp only [Bool.and_eq_true, decide_eq_true_eq, Bool.or_eq_true, Bool.not_eq_true', Instr.wf, useSsetQueue, vBC, vOnly, useSact, useScommit, useSset, ttUse, jgetUse, issueUse, statusUse, f12Is, layPlain, sidesUse, packedUse, packedLegal] at h
    (have e : t.f = _ := h.2; rw [e]; rfl)
  show decodeTwo7B (fld t.bits 6 3) d t.bits = _
  rw [TailV.sub, hsub]
  have hop : t.f.toNat % 8 = 6 := by 
    have h := hw
    simp only [Bool.and_eq_true, decide_eq_true_eq, Bool.or_eq_true, Bool.not_eq_true', Instr.wf, useSsetQueue, vBC, vOnly, useSact, useScommit, useSset, ttUse, jgetUse, issueUse, statusUse, f12Is, layPlain, sidesUse, packedUse, packedLegal] at h
    (have e : t.f = _ := h.2; rw [e]; rfl)
  simp only [decodeTwo7B, TailV.op, hop, TailV.of_bits]))
theorem ssetPen (d : BitVec 7) (t : TailV) : Statement (.ssetPen d t) := of_words rfl (fun hw => decode_two_of (op := 0x7B) (by decide) (by
  have hsub : t.f.toNat / 8 = 9 := by 
    have h := hw
    simp only [Bool.and_eq_true, decide_eq_true_eq, Bool.or_eq_true, Bool.not_eq_true', Instr.wf, useSsetPen, vBC, vOnly, useSact, useScommit, useSset, ttUse, jgetUse, issueUse, statusUse, f12Is, layPlain, sidesUse, packedUse, packedLegal] at h
    (have e : t.f = _ := h.2; rw [e]; rfl)
  show decodeTwo7B (fld t.bits 6 3) d t.bits = _
  rw [TailV.sub, hsub]
  have hop : t.f.toNat % 8 = 7 := by 
    have h := hw
    simp only [Bool.and_eq_true, decide_eq_true_eq, Bool.or_eq_true, Bool.not_eq_true', Instr.wf, useSsetPen, vBC, vOnly, useSact, useScommit, useSset, ttUse, jgetUse, issueUse, statusUse, f12Is, layPlain, sidesUse, packedUse, packedLegal] at h
    (have e : t.f = _ := h.2; rw [e]; rfl)
  simp only [decodeTwo7B, TailV.op, hop, TailV.of_bits]))
theorem shor (d : BitVec 7) (t : TailV) : Statement (.shor d t) := of_words rfl (fun hw => decode_two_of (op := 0x7B) (by decide) (by
  have hsub : t.f.toNat / 8 = 10 := by 
    have h := hw
    simp only [Bool.and_eq_true, decide_eq_true_eq, Bool.or_eq_true, Bool.not_eq_true', Instr.wf, useShor, vBC, vOnly, useSact, useScommit, useSset, ttUse, jgetUse, issueUse, statusUse, f12Is, layPlain, sidesUse, packedUse, packedLegal] at h
    omega
  show decodeTwo7B (fld t.bits 6 3) d t.bits = _
  rw [TailV.sub, hsub]
  show some (Instr.shor d (TailV.of t.bits)) = _
  rw [TailV.of_bits]))
theorem smig (d : BitVec 7) (t : TailE) : Statement (.smig d t) := of_words rfl (fun hw => decode_four_of (op := 0x7B) (by decide) (by
  have hsub : t.f12.toNat / 256 = 11 := by 
    have h := hw
    simp only [Bool.and_eq_true, decide_eq_true_eq, Bool.or_eq_true, Bool.not_eq_true', Instr.wf, useSmig, vBC, vOnly, useSact, useScommit, useSset, ttUse, jgetUse, issueUse, statusUse, f12Is, layPlain, sidesUse, packedUse, packedLegal] at h
    exact f12Sub_of h.1 (by decide)
  show decodeFour7B (fld t.bits 11 8) d t.bits = _
  rw [TailE.sub, hsub]
  show some (Instr.smig d (TailE.of t.bits)) = _
  rw [TailE.of_bits]))
theorem ttreset (d : BitVec 7) (t : TailV) : Statement (.ttreset d t) := of_words rfl (fun hw => decode_two_of (op := 0x7C) (by decide) (by
  have hsub : t.f.toNat / 8 = 0 := by 
    have h := hw
    simp only [Bool.and_eq_true, decide_eq_true_eq, Bool.or_eq_true, Bool.not_eq_true', Instr.wf, useTtreset, vBC, vOnly, useSact, useScommit, useSset, ttUse, jgetUse, issueUse, statusUse, f12Is, layPlain, sidesUse, packedUse, packedLegal] at h
    omega
  show decodeTwo7C (fld t.bits 6 3) d t.bits = _
  rw [TailV.sub, hsub]
  show some (Instr.ttreset d (TailV.of t.bits)) = _
  rw [TailV.of_bits]))
theorem ttadd (d : BitVec 7) (t : TailV) : Statement (.ttadd d t) := of_words rfl (fun hw => decode_two_of (op := 0x7C) (by decide) (by
  have hsub : t.f.toNat / 8 = 1 := by 
    have h := hw
    simp only [Bool.and_eq_true, decide_eq_true_eq, Bool.or_eq_true, Bool.not_eq_true', Instr.wf, useTtadd, vBC, vOnly, useSact, useScommit, useSset, ttUse, jgetUse, issueUse, statusUse, f12Is, layPlain, sidesUse, packedUse, packedLegal] at h
    omega
  show decodeTwo7C (fld t.bits 6 3) d t.bits = _
  rw [TailV.sub, hsub]
  show some (Instr.ttadd d (TailV.of t.bits)) = _
  rw [TailV.of_bits]))
theorem ttmask (d : BitVec 7) (t : TailV) : Statement (.ttmask d t) := of_words rfl (fun hw => decode_two_of (op := 0x7C) (by decide) (by
  have hsub : t.f.toNat / 8 = 2 := by 
    have h := hw
    simp only [Bool.and_eq_true, decide_eq_true_eq, Bool.or_eq_true, Bool.not_eq_true', Instr.wf, useTtmask, vBC, vOnly, useSact, useScommit, useSset, ttUse, jgetUse, issueUse, statusUse, f12Is, layPlain, sidesUse, packedUse, packedLegal] at h
    omega
  show decodeTwo7C (fld t.bits 6 3) d t.bits = _
  rw [TailV.sub, hsub]
  show some (Instr.ttmask d (TailV.of t.bits)) = _
  rw [TailV.of_bits]))
theorem ttpos (d : BitVec 7) (t : TailV) : Statement (.ttpos d t) := of_words rfl (fun hw => decode_two_of (op := 0x7C) (by decide) (by
  have hsub : t.f.toNat / 8 = 3 := by 
    have h := hw
    simp only [Bool.and_eq_true, decide_eq_true_eq, Bool.or_eq_true, Bool.not_eq_true', Instr.wf, useTtpos, vBC, vOnly, useSact, useScommit, useSset, ttUse, jgetUse, issueUse, statusUse, f12Is, layPlain, sidesUse, packedUse, packedLegal] at h
    first | omega | (have e : t.f = _ := h.1.2; rw [e]; rfl) | (have e : t.f = _ := h.2; rw [e]; rfl) | (rcases h.1.2 with e | e <;> rw [e] <;> rfl) | (rcases h.2 with e | e <;> rw [e] <;> rfl)| (rcases h.2 with (e | e) | e <;> rw [e] <;> rfl) | exact sub0_of _ h | exact sub0_of _ h.1 | exact sub0_of _ h.1.1 | exact sub0_of _ h.1.1.1 | exact sub0_of _ h.1.1.1.1 | exact sub0_of _ h.1.1.1.1.1 | exact sub0_of _ h.1.1.1.1.1.1 | exact sub0_of _ h.1.1.1.1.1.1.1 | exact sub0_of _ h.2 | exact sub0_of _ h.1.2 | exact sub0_of _ h.1.1.2 | exact sub0_of _ h.1.1.1.2 | exact sub0_of _ h.1.1.1.1.2 | exact sub0_of _ h.1.1.1.1.1.2 | exact sub0_of _ h.1.1.1.1.1.1.2 | exact sub0_of _ h.1.1.1.1.1.1.1.2 | exact sub0_of _ h.1.2.2 | exact sub0_of _ h.1.1.2.2 | exact sub0_of _ h.2.2 | exact f12Sub_of h (by decide) | exact f12Sub_of h.1 (by decide) | exact f12Sub_of h.1.1 (by decide) | exact f12Sub_of h.1.1.1 (by decide) | exact f12Sub_of h.1.1.1.1 (by decide) | exact f12Sub_of h.1.1.1.1.1 (by decide) | exact f12Sub_of h.1.1.1.1.1.1 (by decide) | exact f12Sub_of h.1.1.1.1.1.1.1 (by decide) | exact f12Sub_of h.2 (by decide) | exact f12Sub_of h.1.2 (by decide) | exact f12Sub_of h.1.1.2 (by decide) | exact f12Sub_of h.1.1.1.2 (by decide) | exact f12Sub_of h.1.1.1.1.2 (by decide) | exact f12Sub_of h.1.1.1.1.1.2 (by decide) | exact f12Sub_of h.1.1.1.1.1.1.2 (by decide) | exact f12Sub_of h.1.1.1.1.1.1.1.2 (by decide) | exact f12Sub_of h.1.2.2 (by decide) | exact f12Sub_of h.1.1.2.2 (by decide) | exact f12Sub_of h.2.2 (by decide)
  show decodeTwo7C (fld t.bits 6 3) d t.bits = _
  rw [TailV.sub, hsub]
  have hb : t.f.getLsbD 2 = false := by 
    have h := hw
    simp only [Bool.and_eq_true, decide_eq_true_eq, Bool.or_eq_true, Bool.not_eq_true', Instr.wf, useTtpos, vBC, vOnly, useSact, useScommit, useSset, ttUse, jgetUse, issueUse, statusUse, f12Is, layPlain, sidesUse, packedUse, packedLegal] at h
    first | exact bit2_of6 _ h | exact bit2_of6 _ h.1 | exact bit2_of6 _ h.1.1 | exact bit2_of6 _ h.1.1.1 | exact bit2_of6 _ h.1.1.1.1 | exact bit2_of6 _ h.1.1.1.1.1 | exact bit2_of6 _ h.1.1.1.1.1.1 | exact bit2_of6 _ h.1.1.1.1.1.1.1 | exact bit2_of6 _ h.2 | exact bit2_of6 _ h.1.2 | exact bit2_of6 _ h.1.1.2 | exact bit2_of6 _ h.1.1.1.2 | exact bit2_of6 _ h.1.1.1.1.2 | exact bit2_of6 _ h.1.1.1.1.1.2 | exact bit2_of6 _ h.1.1.1.1.1.1.2 | exact bit2_of6 _ h.1.1.1.1.1.1.1.2 | exact bit2_of6 _ h.1.2.2 | exact bit2_of6 _ h.1.1.2.2 | exact bit2_of6 _ h.2.2
  simp only [decodeTwo7C, TailV.lsb t 2 (by decide), hb, TailV.of_bits]
  rfl))
theorem ttposHdr (d : BitVec 7) (t : TailV) : Statement (.ttposHdr d t) := of_words rfl (fun hw => decode_two_of (op := 0x7C) (by decide) (by
  have hsub : t.f.toNat / 8 = 3 := by 
    have h := hw
    simp only [Bool.and_eq_true, decide_eq_true_eq, Bool.or_eq_true, Bool.not_eq_true', Instr.wf, useTtposHdr, vBC, vOnly, useSact, useScommit, useSset, ttUse, jgetUse, issueUse, statusUse, f12Is, layPlain, sidesUse, packedUse, packedLegal] at h
    first | omega | (have e : t.f = _ := h.1.2; rw [e]; rfl) | (have e : t.f = _ := h.2; rw [e]; rfl) | (rcases h.1.2 with e | e <;> rw [e] <;> rfl) | (rcases h.2 with e | e <;> rw [e] <;> rfl)| (rcases h.2 with (e | e) | e <;> rw [e] <;> rfl) | exact sub0_of _ h | exact sub0_of _ h.1 | exact sub0_of _ h.1.1 | exact sub0_of _ h.1.1.1 | exact sub0_of _ h.1.1.1.1 | exact sub0_of _ h.1.1.1.1.1 | exact sub0_of _ h.1.1.1.1.1.1 | exact sub0_of _ h.1.1.1.1.1.1.1 | exact sub0_of _ h.2 | exact sub0_of _ h.1.2 | exact sub0_of _ h.1.1.2 | exact sub0_of _ h.1.1.1.2 | exact sub0_of _ h.1.1.1.1.2 | exact sub0_of _ h.1.1.1.1.1.2 | exact sub0_of _ h.1.1.1.1.1.1.2 | exact sub0_of _ h.1.1.1.1.1.1.1.2 | exact sub0_of _ h.1.2.2 | exact sub0_of _ h.1.1.2.2 | exact sub0_of _ h.2.2 | exact f12Sub_of h (by decide) | exact f12Sub_of h.1 (by decide) | exact f12Sub_of h.1.1 (by decide) | exact f12Sub_of h.1.1.1 (by decide) | exact f12Sub_of h.1.1.1.1 (by decide) | exact f12Sub_of h.1.1.1.1.1 (by decide) | exact f12Sub_of h.1.1.1.1.1.1 (by decide) | exact f12Sub_of h.1.1.1.1.1.1.1 (by decide) | exact f12Sub_of h.2 (by decide) | exact f12Sub_of h.1.2 (by decide) | exact f12Sub_of h.1.1.2 (by decide) | exact f12Sub_of h.1.1.1.2 (by decide) | exact f12Sub_of h.1.1.1.1.2 (by decide) | exact f12Sub_of h.1.1.1.1.1.2 (by decide) | exact f12Sub_of h.1.1.1.1.1.1.2 (by decide) | exact f12Sub_of h.1.1.1.1.1.1.1.2 (by decide) | exact f12Sub_of h.1.2.2 (by decide) | exact f12Sub_of h.1.1.2.2 (by decide) | exact f12Sub_of h.2.2 (by decide)
  show decodeTwo7C (fld t.bits 6 3) d t.bits = _
  rw [TailV.sub, hsub]
  have hb : t.f.getLsbD 2 = true := by 
    have h := hw
    simp only [Bool.and_eq_true, decide_eq_true_eq, Bool.or_eq_true, Bool.not_eq_true', Instr.wf, useTtposHdr, vBC, vOnly, useSact, useScommit, useSset, ttUse, jgetUse, issueUse, statusUse, f12Is, layPlain, sidesUse, packedUse, packedLegal] at h
    first | exact bit2_of7 _ h | exact bit2_of7 _ h.1 | exact bit2_of7 _ h.1.1 | exact bit2_of7 _ h.1.1.1 | exact bit2_of7 _ h.1.1.1.1 | exact bit2_of7 _ h.1.1.1.1.1 | exact bit2_of7 _ h.1.1.1.1.1.1 | exact bit2_of7 _ h.1.1.1.1.1.1.1 | exact bit2_of7 _ h.2 | exact bit2_of7 _ h.1.2 | exact bit2_of7 _ h.1.1.2 | exact bit2_of7 _ h.1.1.1.2 | exact bit2_of7 _ h.1.1.1.1.2 | exact bit2_of7 _ h.1.1.1.1.1.2 | exact bit2_of7 _ h.1.1.1.1.1.1.2 | exact bit2_of7 _ h.1.1.1.1.1.1.1.2 | exact bit2_of7 _ h.1.2.2 | exact bit2_of7 _ h.1.1.2.2 | exact bit2_of7 _ h.2.2
  simp only [decodeTwo7C, TailV.lsb t 2 (by decide), hb, TailV.of_bits]
  rfl))
theorem ttanc (d : BitVec 7) (t : TailV) : Statement (.ttanc d t) := of_words rfl (fun hw => decode_two_of (op := 0x7C) (by decide) (by
  have h0 : (ttUse d t true 7 4).legal = true := by
    simp only [Bool.and_eq_true, decide_eq_true_eq, Bool.or_eq_true, Bool.not_eq_true', Instr.wf, useTtanc] at hw
    split at hw <;> simp_all
  have hsub : t.f.toNat / 8 = 4 := by 
    have h := h0
    simp only [Bool.and_eq_true, decide_eq_true_eq, Bool.or_eq_true, Bool.not_eq_true', Instr.wf, useTtanc, vBC, vOnly, useSact, useScommit, useSset, ttUse, jgetUse, issueUse, statusUse, f12Is, layPlain, sidesUse, packedUse, packedLegal] at h
    omega
  show decodeTwo7C (fld t.bits 6 3) d t.bits = _
  rw [TailV.sub, hsub]
  show some (Instr.ttanc d (TailV.of t.bits)) = _
  rw [TailV.of_bits]))
theorem ttpath (d : BitVec 7) (t : TailV) : Statement (.ttpath d t) := of_words rfl (fun hw => decode_two_of (op := 0x7C) (by decide) (by
  have hsub : t.f.toNat / 8 = 5 := by 
    have h := hw
    simp only [Bool.and_eq_true, decide_eq_true_eq, Bool.or_eq_true, Bool.not_eq_true', Instr.wf, useTtpath, vBC, vOnly, useSact, useScommit, useSset, ttUse, jgetUse, issueUse, statusUse, f12Is, layPlain, sidesUse, packedUse, packedLegal] at h
    omega
  show decodeTwo7C (fld t.bits 6 3) d t.bits = _
  rw [TailV.sub, hsub]
  show some (Instr.ttpath d (TailV.of t.bits)) = _
  rw [TailV.of_bits]))
theorem ttprune (d : BitVec 7) (t : TailV) : Statement (.ttprune d t) := of_words rfl (fun hw => decode_two_of (op := 0x7C) (by decide) (by
  have hsub : t.f.toNat / 8 = 6 := by 
    have h := hw
    simp only [Bool.and_eq_true, decide_eq_true_eq, Bool.or_eq_true, Bool.not_eq_true', Instr.wf, useTtprune, vBC, vOnly, useSact, useScommit, useSset, ttUse, jgetUse, issueUse, statusUse, f12Is, layPlain, sidesUse, packedUse, packedLegal] at h
    omega
  show decodeTwo7C (fld t.bits 6 3) d t.bits = _
  rw [TailV.sub, hsub]
  show some (Instr.ttprune d (TailV.of t.bits)) = _
  rw [TailV.of_bits]))
theorem jopen (d : BitVec 7) (t : TailV) : Statement (.jopen d t) := of_words rfl (fun hw => decode_two_of (op := 0x7D) (by decide) (by
  have hsub : t.f.toNat / 8 = 0 := by 
    have h := hw
    simp only [Bool.and_eq_true, decide_eq_true_eq, Bool.or_eq_true, Bool.not_eq_true', Instr.wf, useJopen, vBC, vOnly, useSact, useScommit, useSset, ttUse, jgetUse, issueUse, statusUse, f12Is, layPlain, sidesUse, packedUse, packedLegal] at h
    omega
  show decodeTwo7D (fld t.bits 6 3) d t.bits = _
  rw [TailV.sub, hsub]
  show some (Instr.jopen d (TailV.of t.bits)) = _
  rw [TailV.of_bits]))
theorem jput (d : BitVec 7) (t : TailV) : Statement (.jput d t) := of_words rfl (fun hw => decode_two_of (op := 0x7D) (by decide) (by
  have hsub : t.f.toNat / 8 = 1 := by 
    have h := hw
    simp only [Bool.and_eq_true, decide_eq_true_eq, Bool.or_eq_true, Bool.not_eq_true', Instr.wf, useJput, vBC, vOnly, useSact, useScommit, useSset, ttUse, jgetUse, issueUse, statusUse, f12Is, layPlain, sidesUse, packedUse, packedLegal] at h
    omega
  show decodeTwo7D (fld t.bits 6 3) d t.bits = _
  rw [TailV.sub, hsub]
  show some (Instr.jput d (TailV.of t.bits)) = _
  rw [TailV.of_bits]))
theorem jget (d : BitVec 7) (t : TailV) : Statement (.jget d t) := of_words rfl (fun hw => decode_two_of (op := 0x7D) (by decide) (by
  have hsub : t.f.toNat / 8 = 2 := by 
    have h := hw
    simp only [Bool.and_eq_true, decide_eq_true_eq, Bool.or_eq_true, Bool.not_eq_true', Instr.wf, useJget, vBC, vOnly, useSact, useScommit, useSset, ttUse, jgetUse, issueUse, statusUse, f12Is, layPlain, sidesUse, packedUse, packedLegal] at h
    omega
  show decodeTwo7D (fld t.bits 6 3) d t.bits = _
  rw [TailV.sub, hsub]
  have hb : t.f.getLsbD 0 = false := by 
    have h := hw
    simp only [Bool.and_eq_true, decide_eq_true_eq, Bool.or_eq_true, Bool.not_eq_true', Instr.wf, useJget, vBC, vOnly, useSact, useScommit, useSset, ttUse, jgetUse, issueUse, statusUse, f12Is, layPlain, sidesUse, packedUse, packedLegal] at h
    revert h; generalize t.f = g; simp <;> first | (intros; assumption) | (intros; subst_vars; rfl) | (intros; simp_all) | (revert g; decide)
  simp only [decodeTwo7D, TailV.lsb t 0 (by decide), hb, TailV.of_bits]
  rfl))
theorem jgetClose (d : BitVec 7) (t : TailV) : Statement (.jgetClose d t) := of_words rfl (fun hw => decode_two_of (op := 0x7D) (by decide) (by
  have hsub : t.f.toNat / 8 = 2 := by 
    have h := hw
    simp only [Bool.and_eq_true, decide_eq_true_eq, Bool.or_eq_true, Bool.not_eq_true', Instr.wf, useJgetClose, vBC, vOnly, useSact, useScommit, useSset, ttUse, jgetUse, issueUse, statusUse, f12Is, layPlain, sidesUse, packedUse, packedLegal] at h
    omega
  show decodeTwo7D (fld t.bits 6 3) d t.bits = _
  rw [TailV.sub, hsub]
  have hb : t.f.getLsbD 0 = true := by 
    have h := hw
    simp only [Bool.and_eq_true, decide_eq_true_eq, Bool.or_eq_true, Bool.not_eq_true', Instr.wf, useJgetClose, vBC, vOnly, useSact, useScommit, useSset, ttUse, jgetUse, issueUse, statusUse, f12Is, layPlain, sidesUse, packedUse, packedLegal] at h
    revert h; generalize t.f = g; simp <;> first | (intros; assumption) | (intros; subst_vars; rfl) | (intros; simp_all) | (revert g; decide)
  simp only [decodeTwo7D, TailV.lsb t 0 (by decide), hb, TailV.of_bits]
  rfl))
theorem psort (d : BitVec 7) (t : TailE) : Statement (.psort d t) := of_words rfl (fun hw => decode_four_of (op := 0x7D) (by decide) (by
  have hsub : t.f12.toNat / 256 = 3 := by 
    have h := hw
    simp only [Bool.and_eq_true, decide_eq_true_eq, Bool.or_eq_true, Bool.not_eq_true', Instr.wf, usePsort, vBC, vOnly, useSact, useScommit, useSset, ttUse, jgetUse, issueUse, statusUse, f12Is, layPlain, sidesUse, packedUse, packedLegal] at h
    exact f12Sub_of h.2 (by decide)
  show decodeFour7D (fld t.bits 11 8) d t.bits = _
  rw [TailE.sub, hsub]
  show some (Instr.psort d (TailE.of t.bits)) = _
  rw [TailE.of_bits]))
theorem sdesc (d : BitVec 7) (t : TailV) : Statement (.sdesc d t) := of_words rfl (fun hw => decode_two_of (op := 0x7D) (by decide) (by
  have hsub : t.f.toNat / 8 = 4 := by 
    have h := hw
    simp only [Bool.and_eq_true, decide_eq_true_eq, Bool.or_eq_true, Bool.not_eq_true', Instr.wf, useSdesc, vBC, vOnly, useSact, useScommit, useSset, ttUse, jgetUse, issueUse, statusUse, f12Is, layPlain, sidesUse, packedUse, packedLegal] at h
    omega
  show decodeTwo7D (fld t.bits 6 3) d t.bits = _
  rw [TailV.sub, hsub]
  show some (Instr.sdesc d (TailV.of t.bits)) = _
  rw [TailV.of_bits]))
theorem rlq (d : BitVec 7) (t : TailV) : Statement (.rlq d t) := of_words rfl (fun hw => decode_two_of (op := 0x7E) (by decide) (by
  have hsub : t.f.toNat / 8 = 0 := by 
    have h := hw
    simp only [Bool.and_eq_true, decide_eq_true_eq, Bool.or_eq_true, Bool.not_eq_true', Instr.wf, useRlq, vBC, vOnly, useSact, useScommit, useSset, ttUse, jgetUse, issueUse, statusUse, f12Is, layPlain, sidesUse, packedUse, packedLegal] at h
    exact sub0_of _ h.1.2
  show decodeTwo7E (fld t.bits 6 3) d t.bits = _
  rw [TailV.sub, hsub]
  show some (Instr.rlq d (TailV.of t.bits)) = _
  rw [TailV.of_bits]))
theorem perfr (d : BitVec 7) (t : TailV) : Statement (.perfr d t) := of_words rfl (fun hw => decode_two_of (op := 0x7E) (by decide) (by
  have hsub : t.f.toNat / 8 = 1 := by 
    have h := hw
    simp only [Bool.and_eq_true, decide_eq_true_eq, Bool.or_eq_true, Bool.not_eq_true', Instr.wf, usePerfr, vBC, vOnly, useSact, useScommit, useSset, ttUse, jgetUse, issueUse, statusUse, f12Is, layPlain, sidesUse, packedUse, packedLegal] at h
    omega
  show decodeTwo7E (fld t.bits 6 3) d t.bits = _
  rw [TailV.sub, hsub]
  show some (Instr.perfr d (TailV.of t.bits)) = _
  rw [TailV.of_bits]))
theorem mkBcast (r : RType) : Statement (.mkBcast r) := of_words rfl (fun _ => decode_xm_of (by decide) (by decide) rfl)
theorem mkLoose (r : RType) : Statement (.mkLoose r) := of_words rfl (fun _ => decode_xm_of (by decide) (by decide) rfl)
theorem mkStopped (r : RType) : Statement (.mkStopped r) := of_words rfl (fun _ => decode_xm_of (by decide) (by decide) rfl)
theorem mkWaitf (r : RType) : Statement (.mkWaitf r) := of_words rfl (fun _ => decode_xm_of (by decide) (by decide) rfl)
theorem mkHaltf (r : RType) : Statement (.mkHaltf r) := of_words rfl (fun _ => decode_xm_of (by decide) (by decide) rfl)
theorem mkLink (r : RType) : Statement (.mkLink r) := of_words rfl (fun _ => decode_xm_of (by decide) (by decide) rfl)
theorem mkCtxnew (r : RType) : Statement (.mkCtxnew r) := of_words rfl (fun _ => decode_xm_of (by decide) (by decide) rfl)
theorem mkCtxfree (r : RType) : Statement (.mkCtxfree r) := of_words rfl (fun _ => decode_xm_of (by decide) (by decide) rfl)
theorem mkBind (r : RType) : Statement (.mkBind r) := of_words rfl (fun _ => decode_xm_of (by decide) (by decide) rfl)
theorem mkUnbind (r : RType) : Statement (.mkUnbind r) := of_words rfl (fun _ => decode_xm_of (by decide) (by decide) rfl)
theorem mkRunq (r : RType) : Statement (.mkRunq r) := of_words rfl (fun _ => decode_xm_of (by decide) (by decide) rfl)
theorem mkUpret (r : RType) : Statement (.mkUpret r) := of_words rfl (fun hw => decode_xm_of (by decide) (by decide) (by
  simp [Instr.wf, rOnly] at hw
  show some (if r.rs1 = 0 then Instr.mkUpretReturn r else Instr.mkUpret r) = _
  simp [hw]))
theorem mkUpretReturn (r : RType) : Statement (.mkUpretReturn r) := of_words rfl (fun hw => decode_xm_of (by decide) (by decide) (by
  simp [Instr.wf, rOnly] at hw
  show some (if r.rs1 = 0 then Instr.mkUpretReturn r else Instr.mkUpret r) = _
  simp [hw]))
theorem mkMigr (r : RType) : Statement (.mkMigr r) := of_words rfl (fun _ => decode_xm_of (by decide) (by decide) rfl)
theorem mkGennew (r : RType) : Statement (.mkGennew r) := of_words rfl (fun _ => decode_xm_of (by decide) (by decide) rfl)
theorem mkCwait (r : RType) : Statement (.mkCwait r) := of_words rfl (fun _ => decode_xm_of (by decide) (by decide) rfl)
theorem mkCsig (r : RType) : Statement (.mkCsig r) := of_words rfl (fun _ => decode_xm_of (by decide) (by decide) rfl)
theorem mkCset (r : RType) : Statement (.mkCset r) := of_words rfl (fun _ => decode_xm_of (by decide) (by decide) rfl)
theorem mkCget (r : RType) : Statement (.mkCget r) := of_words rfl (fun _ => decode_xm_of (by decide) (by decide) rfl)
theorem mkEngw (r : RType) : Statement (.mkEngw r) := of_words rfl (fun _ => decode_xm_of (by decide) (by decide) rfl)
theorem mkEngr (r : RType) : Statement (.mkEngr r) := of_words rfl (fun _ => decode_xm_of (by decide) (by decide) rfl)
theorem mkShswap (r : RType) : Statement (.mkShswap r) := of_words rfl (fun _ => decode_xm_of (by decide) (by decide) rfl)
theorem mkFreeze (r : RType) : Statement (.mkFreeze r) := of_words rfl (fun _ => decode_xm_of (by decide) (by decide) rfl)
theorem mkThaw (r : RType) : Statement (.mkThaw r) := of_words rfl (fun _ => decode_xm_of (by decide) (by decide) rfl)
theorem mkPlbw (r : RType) : Statement (.mkPlbw r) := of_words rfl (fun _ => decode_xm_of (by decide) (by decide) rfl)
theorem mkPlbinv (r : RType) : Statement (.mkPlbinv r) := of_words rfl (fun _ => decode_xm_of (by decide) (by decide) rfl)
theorem mkDbgrd (r : RType) : Statement (.mkDbgrd r) := of_words rfl (fun _ => decode_xm_of (by decide) (by decide) rfl)
theorem mkDbgwr (r : RType) : Statement (.mkDbgwr r) := of_words rfl (fun _ => decode_xm_of (by decide) (by decide) rfl)
theorem contextBind (d c : Nat) : Statement (.contextBind d c) := by intro _ _ h; cases h
theorem agingStep (d c ix : Nat) : Statement (.agingStep d c ix) := by intro _ _ h; cases h
theorem messageArrival (pkt : Nat) : Statement (.messageArrival pkt) := by intro _ _ h; cases h
theorem messageCreate (d c : Nat) : Statement (.messageCreate d c) := by intro _ _ h; cases h
theorem messageSend (d c e : Nat) : Statement (.messageSend d c e) := by intro _ _ h; cases h
theorem channelPacketArrival (pkt : Nat) : Statement (.channelPacketArrival pkt) := by intro _ _ h; cases h
theorem mailboxDelivery (d c : Nat) : Statement (.mailboxDelivery d c) := by intro _ _ h; cases h
theorem localInterrupt (d c : Nat) : Statement (.localInterrupt d c) := by intro _ _ h; cases h
theorem upcallEntry (d c : Nat) : Statement (.upcallEntry d c) := by intro _ _ h; cases h
theorem loadRefresh (d c : Nat) : Statement (.loadRefresh d c) := by intro _ _ h; cases h
theorem sliceCopy (d c : Nat) : Statement (.sliceCopy d c) := by intro _ _ h; cases h
theorem balanceMove (d c : Nat) : Statement (.balanceMove d c) := by intro _ _ h; cases h
theorem contextMigrateArrival (pkt : Nat) : Statement (.contextMigrateArrival pkt) := by intro _ _ h; cases h
theorem shearerScan (d c bank : Nat) : Statement (.shearerScan d c bank) := by intro _ _ h; cases h
theorem shearForcedRate (d c : Nat) : Statement (.shearForcedRate d c) := by intro _ _ h; cases h
theorem regionRenew (d c : Nat) (shadow : Bool) (ix g : Nat) : Statement (.regionRenew d c shadow ix g) := by intro _ _ h; cases h
theorem bankWake (d c : Nat) : Statement (.bankWake d c) := by intro _ _ h; cases h
theorem commandCapture (d c port : Nat) : Statement (.commandCapture d c port) := by intro _ _ h; cases h
theorem commandDispatch (d c e : Nat) : Statement (.commandDispatch d c e) := by intro _ _ h; cases h
theorem chunkLand (d c e j : Nat) (crcBad : Bool) : Statement (.chunkLand d c e j crcBad) := by intro _ _ h; cases h
theorem completionMessage (d c e : Nat) : Statement (.completionMessage d c e) := by intro _ _ h; cases h
theorem commandFail (d c e : Nat) : Statement (.commandFail d c e) := by intro _ _ h; cases h
theorem cxlNotPresent (d c e : Nat) : Statement (.cxlNotPresent d c e) := by intro _ _ h; cases h
theorem triggerTaskCreate (d c k : Nat) : Statement (.triggerTaskCreate d c k) := by intro _ _ h; cases h
theorem counterSignalPacket (pkt : Nat) : Statement (.counterSignalPacket pkt) := by intro _ _ h; cases h
theorem counterWindowRead (a : Agent) : Statement (.counterWindowRead a) := by intro _ _ h; cases h
theorem counterWindowSet (d c : Nat) : Statement (.counterWindowSet d c) := by intro _ _ h; cases h
theorem counterWindowSignal (d c : Nat) : Statement (.counterWindowSignal d c) := by intro _ _ h; cases h
theorem gangTimeout (d c s : Nat) : Statement (.gangTimeout d c s) := by intro _ _ h; cases h
theorem gangStart (d gang : Nat) : Statement (.gangStart d gang) := by intro _ _ h; cases h
theorem mmaStart (d c : Nat) : Statement (.mmaStart d c) := by intro _ _ h; cases h
theorem mmaGroupLand (d c : Nat) : Statement (.mmaGroupLand d c) := by intro _ _ h; cases h
theorem mmaComplete (d c : Nat) : Statement (.mmaComplete d c) := by intro _ _ h; cases h
theorem mmzStart (d c : Nat) : Statement (.mmzStart d c) := by intro _ _ h; cases h
theorem mmzComplete (d c : Nat) : Statement (.mmzComplete d c) := by intro _ _ h; cases h
theorem weightReplayComplete (d c h : Nat) (failed : Bool) : Statement (.weightReplayComplete d c h failed) := by intro _ _ h; cases h
theorem psortComplete (d c e : Nat) : Statement (.psortComplete d c e) := by intro _ _ h; cases h
theorem storePerform (d c : Nat) : Statement (.storePerform d c) := by intro _ _ h; cases h
theorem homeWrite (d c : Nat) : Statement (.homeWrite d c) := by intro _ _ h; cases h
theorem homeRead (a : Agent) : Statement (.homeRead a) := by intro _ _ h; cases h
theorem invalidation (line : Nat) (p : Ptr) : Statement (.invalidation line p) := by intro _ _ h; cases h
theorem keeperPost (a : Agent) : Statement (.keeperPost a) := by intro _ _ h; cases h
theorem keeperInvalidate (line : Nat) : Statement (.keeperInvalidate line) := by intro _ _ h; cases h
theorem keeperComplete (line : Nat) : Statement (.keeperComplete line) := by intro _ _ h; cases h
theorem proxyMiss (a : Agent) (victim : Option Nat) : Statement (.proxyMiss a victim) := by intro _ _ h; cases h
theorem cacheFill (a : Agent) (victim : Option Nat) (toCore : Nat) : Statement (.cacheFill a victim toCore) := by intro _ _ h; cases h
theorem atomicAtHome (a : Agent) : Statement (.atomicAtHome a) := by intro _ _ h; cases h
theorem loadReply (a : Agent) : Statement (.loadReply a) := by intro _ _ h; cases h
theorem remotePaddockAccess (a : Agent) : Statement (.remotePaddockAccess a) := by intro _ _ h; cases h
theorem fabricCacheFill (a : Agent) (victim : Option Nat) : Statement (.fabricCacheFill a victim) := by intro _ _ h; cases h
theorem hostAtomicCompletion (a : Agent) (old : BitVec 64) (ur : Bool) : Statement (.hostAtomicCompletion a old ur) := by intro _ _ h; cases h
theorem plbRefill (a : Agent) : Statement (.plbRefill a) := by intro _ _ h; cases h
theorem tableWalk (a : Agent) : Statement (.tableWalk a) := by intro _ _ h; cases h
theorem shootdown (d : Nat) (v : BitVec 64) : Statement (.shootdown d v) := by intro _ _ h; cases h
theorem shootdownComplete (d : Nat) : Statement (.shootdownComplete d) := by intro _ _ h; cases h
theorem sliceExpiry (d p : Nat) : Statement (.sliceExpiry d p) := by intro _ _ h; cases h
theorem preemptOrder (d p : Nat) : Statement (.preemptOrder d p) := by intro _ _ h; cases h
theorem shswapExchange (d c : Nat) : Statement (.shswapExchange d c) := by intro _ _ h; cases h
theorem preemptLate (d c : Nat) : Statement (.preemptLate d c) := by intro _ _ h; cases h
theorem copyOut (d c : Nat) : Statement (.copyOut d c) := by intro _ _ h; cases h
theorem copyIn (d c p img : Nat) : Statement (.copyIn d c p img) := by intro _ _ h; cases h
theorem freezePacket (pkt : Nat) : Statement (.freezePacket pkt) := by intro _ _ h; cases h
theorem fthawWrite (d : Nat) (v : BitVec 64) : Statement (.fthawWrite d v) := by intro _ _ h; cases h
theorem launchPacket (src : PktSrc) (w : BitVec 2048) (relaxed : Bool) : Statement (.launchPacket src w relaxed) := by intro _ _ h; cases h
theorem gloadPacket (src : PktSrc) (w : BitVec 2048) (relaxed : Bool) : Statement (.gloadPacket src w relaxed) := by intro _ _ h; cases h
theorem replayPacket (src : PktSrc) (w : BitVec 2048) (relaxed : Bool) : Statement (.replayPacket src w relaxed) := by intro _ _ h; cases h
theorem patchPacket (src : PktSrc) (w : BitVec 2048) (relaxed : Bool) : Statement (.patchPacket src w relaxed) := by intro _ _ h; cases h
theorem registerPacket (src : PktSrc) (w : BitVec 2048) (relaxed : Bool) : Statement (.registerPacket src w relaxed) := by intro _ _ h; cases h
theorem sharePlace (l d : Nat) (wps : List Nat) : Statement (.sharePlace l d wps) := by intro _ _ h; cases h
theorem taskCreate (l d c : Nat) : Statement (.taskCreate l d c) := by intro _ _ h; cases h
theorem launchComplete (l : Nat) : Statement (.launchComplete l) := by intro _ _ h; cases h
theorem replayStart (part g : Nat) : Statement (.replayStart part g) := by intro _ _ h; cases h
theorem droveDispatch (d e : Nat) : Statement (.droveDispatch d e) := by intro _ _ h; cases h
theorem residencyWrite (d e : Nat) (v : BitVec 128) : Statement (.residencyWrite d e v) := by intro _ _ h; cases h
theorem frameCascade (d : Nat) : Statement (.frameCascade d) := by intro _ _ h; cases h
theorem tierMove (d tier : Nat) (node : Bool) (frame toTier toFrame : Nat) : Statement (.tierMove d tier node frame toTier toFrame) := by intro _ _ h; cases h
theorem migrationPull (m : Nat) : Statement (.migrationPull m) := by intro _ _ h; cases h
theorem migrationSwitch (m : Nat) : Statement (.migrationSwitch m) := by intro _ _ h; cases h
theorem joinArrival (pkt : Nat) : Statement (.joinArrival pkt) := by intro _ _ h; cases h
theorem childResultArrival (pkt : Nat) : Statement (.childResultArrival pkt) := by intro _ _ h; cases h
theorem descentStep (pkt : Nat) : Statement (.descentStep pkt) := by intro _ _ h; cases h
theorem joinPrune (pkt : Nat) : Statement (.joinPrune pkt) := by intro _ _ h; cases h
theorem packetRoute (pkt : Nat) (evict : Option Nat) : Statement (.packetRoute pkt evict) := by intro _ _ h; cases h
theorem evictionNotice (pkt : Nat) : Statement (.evictionNotice pkt) := by intro _ _ h; cases h
theorem endToEndAck (pkt : Nat) : Statement (.endToEndAck pkt) := by intro _ _ h; cases h
theorem classAging (pkt : Nat) : Statement (.classAging pkt) := by intro _ _ h; cases h
theorem flitReplay (d port lane : Nat) : Statement (.flitReplay d port lane) := by intro _ _ h; cases h
theorem laneRetrain (d port lane : Nat) : Statement (.laneRetrain d port lane) := by intro _ _ h; cases h
theorem linkUp (port : Nat) : Statement (.linkUp port) := by intro _ _ h; cases h
theorem linkDown (port : Nat) : Statement (.linkDown port) := by intro _ _ h; cases h
theorem bar4Write (port fn off : Nat) (bytes : List (BitVec 8)) (relaxed : Bool) : Statement (.bar4Write port fn off bytes relaxed) := by intro _ _ h; cases h
theorem bar4Read (port fn off n : Nat) : Statement (.bar4Read port fn off n) := by intro _ _ h; cases h
theorem configRequest (port fn : Nat) : Statement (.configRequest port fn) := by intro _ _ h; cases h
theorem postRecord (d : Nat) : Statement (.postRecord d) := by intro _ _ h; cases h
theorem pbctlWrite (v : BitVec 64) : Statement (.pbctlWrite v) := by intro _ _ h; cases h
theorem partitionWrite (d p : Nat) (v : BitVec 512) : Statement (.partitionWrite d p v) := by intro _ _ h; cases h
theorem mkSplitWrite (v : BitVec 64) : Statement (.mkSplitWrite v) := by intro _ _ h; cases h
theorem mkSlicePack (v : BitVec 64) : Statement (.mkSlicePack v) := by intro _ _ h; cases h
theorem registerWrite (r : RegTarget) (v : BitVec 256) : Statement (.registerWrite r v) := by intro _ _ h; cases h
theorem hbmChannelSpare (d stack : Nat) : Statement (.hbmChannelSpare d stack) := by intro _ _ h; cases h
theorem rateWindow (d : Nat) : Statement (.rateWindow d) := by intro _ _ h; cases h
theorem powerMeasure (d power temp : Nat) : Statement (.powerMeasure d power temp) := by intro _ _ h; cases h
theorem thermalTrip (coolant : Bool) : Statement (.thermalTrip coolant) := by intro _ _ h; cases h
theorem supplyFault : Statement (.supplyFault) := by intro _ _ h; cases h
theorem moduleReset : Statement (.moduleReset) := by intro _ _ h; cases h
theorem mctpTelemetry (m : MctpMsg) : Statement (.mctpTelemetry m) := by intro _ _ h; cases h
theorem mctpAttestation (m : MctpMsg) : Statement (.mctpAttestation m) := by intro _ _ h; cases h
theorem mctpImageStage (m : MctpMsg) : Statement (.mctpImageStage m) := by intro _ _ h; cases h
theorem mctpKeyLoad (m : MctpMsg) : Statement (.mctpKeyLoad m) := by intro _ _ h; cases h
theorem mctpKeyClear (m : MctpMsg) : Statement (.mctpKeyClear m) := by intro _ _ h; cases h
theorem mctpDebugAuth (m : MctpMsg) : Statement (.mctpDebugAuth m) := by intro _ _ h; cases h
theorem mctpDebugRevoke (m : MctpMsg) : Statement (.mctpDebugRevoke m) := by intro _ _ h; cases h
theorem mctpControl (m : MctpMsg) : Statement (.mctpControl m) := by intro _ _ h; cases h
theorem reservedOpcode : Statement (.reservedOpcode) := by intro _ _ h; cases h
theorem illegalLine : Statement (.illegalLine) := by intro _ _ h; cases h
theorem custom0Reserved (word : BitVec 32) : Statement (.custom0Reserved word) := by intro _ _ h; cases h
theorem hartMemoryAccess (x : HartAccess) : Statement (.hartMemoryAccess x) := by intro _ _ h; cases h
theorem hartFence (k : HartFence) : Statement (.hartFence k) := by intro _ _ h; cases h
theorem reservedPacketType (src : PktSrc) (w : BitVec 2048) (relaxed : Bool) : Statement (.reservedPacketType src w relaxed) := by intro _ _ h; cases h
theorem coreFailure (d phys : Nat) : Statement (.coreFailure d phys) := by intro _ _ h; cases h
theorem dieReset (d : Nat) : Statement (.dieReset d) := by intro _ _ h; cases h

end Sys2Proof.Laws.RoundTrip
end

