-- ==== Sys2Proof/Tests/Slice0.lean ====
section
/-! SUPPORT. Tests: ill-formed terms that the checks refuse, words of the manual's encodings that decode to what they stand for, results worked
out by hand from the rules, and for every statement states that meet its hypotheses. -/

open Sys2Proof Sys2Proof.Machine

namespace Sys2Proof.Tests

set_option Elab.async false

/-! ## A small machine -/

/-- A context of 128 registers at 0x2080, bound on slot 0 of core 0 of die 0 as a stray, at head 1 of a line of 4 heads. -/
def c0 : Ctx := { wp := 0x2080, state := .bound, wsz := 128, wgen := 1, prio := 4, eprio := 4, ip := 0x10001, inc := 1 }
def reg (i v : Nat) : Nat × Gran := (520 + i, { tag := 1, data := BitVec.ofNat 128 v })
def prd (i lo hi : Nat) : Nat × Gran := (512 + i, { tag := 1, data := BitVec.ofNat 128 (lo + hi * 2 ^ 64) })
def a0 (p : Sparse Gran) : SetState :=
  { ctxs := [(0, c0)], slots := [(0, { mode := .stray, ix := 0, line := some (0x10000, 0x2000) })], pad := p }
def onSet (a : SetState) : State := { State.reset.setAct 0 0 a with cur := .slot 0 0 0 }
def s0 (p : Sparse Gran) : State := onSet (a0 p)
def e0 : Env := { d := 0, c := 0, sl := 0, ix := 0, mode := .stray, ip := 0x10001 }

def ts (b c : BitVec 7) (w : BitVec 2) : TailS := { b := b, c := c, w := w }
def ti (b : BitVec 7) (i : BitVec 25) : TailI := { b := b, imm := i }
def tv (b c : BitVec 7) (ty : BitVec 5) (sh : BitVec 2) (f : BitVec 7) : TailV :=
  { b := b, c := c, ty := ty, sh := sh, p := 0, pn := false, f := f }
def tm (b : BitVec 7) (sz ord scope : BitVec 3) (aop : BitVec 6) (off : BitVec 24) : TailM :=
  { b := b, c := 0, sz := sz, sx := false, sc := 0, xi := false, p := 0, pn := false, ord := ord, scope := scope, hint := 0,
    aop := aop, off := off }
def te (b c : BitVec 7) (l : BitVec 6) (f : BitVec 12) : TailE :=
  { wk := 0, wt := 0, sk := 0, si := 0, b := b, c := c, l := l, f12 := f }
def tb (loff : BitVec 22) (slot : BitVec 5) : TailB := { loff := loff, slot := slot, p := 0, pn := false, hint := false }

/-- `Ready`, `Reads` and other answers `.ok` as they compute. -/
def readyB (i : Instr) (s : State) (b : List Nat) : Bool :=
  decide (s.env? = some e0) && match i.use? with
    | some u => (match ctxChecks s e0 u with | .ok b' => b' == b | .error _ => false)
    | none => false
theorem readyB_sound {i : Instr} {s : State} {b : List Nat} (h : readyB i s b = true) : Ready i s e0 b := by
  unfold readyB at h
  simp only [Bool.and_eq_true, decide_eq_true_eq] at h
  obtain ⟨he, h⟩ := h
  split at h
  · rename_i u hu
    split at h
    · rename_i b' hb
      have : b' = b := by simpa using h
      subst this
      exact ⟨he, u, hu, hb⟩
    · cases h
  · cases h
def okB {α : Type} [DecidableEq α] (r : Res α) (v : α) : Bool := match r with | .ok x => decide (x = v) | .error _ => false
theorem okB_sound {α : Type} [DecidableEq α] {r : Res α} {v : α} (h : okB r v = true) : r = .ok v := by
  unfold okB at h
  split at h
  · rw [of_decide_eq_true h]
  · cases h

/-- A register, a granule, a field after the instruction has gone on. -/
def after (i : Instr) (s : State) : Option State := match exec i s with | .next t => some t | _ => none
def regAfter (i : Instr) (s : State) (r : Nat) : Option Nat := (after i s).map (fun t => (regRaw (t.act 0 0) ((t.act 0 0).ctx 0) r).toNat)
def predAfter (i : Instr) (s : State) (n : Nat) : Option Nat := (after i s).map (fun t => predRead (t.act 0 0) ((t.act 0 0).ctx 0) n)
/-- FCODE and FADDR of the context after the instruction has faulted. -/
def faultAfter (i : Instr) (s : State) : Option (Nat × Nat) :=
  (after i s).bind (fun t => let x := (t.act 0 0).ctx 0
    if x.state = .parked then some (x.fcode.toNat, x.faddr.toNat) else none)

/-! ## Well-formedness: the fields that a row does not allow are refused (R60 to R69) -/

/-- One well-formed and one ill-formed term for each Makel row. -/
def wellFormed1 : List Instr := [
  .nop 0, .jmpx 0 (tv 4 0 0 0 0), .fetch 0 (tv 4 0 0 0 0), .stop 0, .halt 0, .yield 0, .trap 0, .plog 0 (tv 4 0 0 0 0), .pmov 8 (tv 4 0 0 0 0),
  .cyc 0, .sysr 8 (tv 0 0 0 0 0), .addS 8 (ts 4 12 0), .addV 8 (tv 4 12 4 1 0), .subS 8 (ts 4 12 0), .subV 8 (tv 4 12 4 1 0), .mulS 8 (ts 4 12 0),
  .mulV 8 (tv 4 12 4 1 0), .mulhS 8 (ts 4 12 0), .mulhV 8 (tv 4 12 4 1 0), .divS 8 (ts 4 12 0), .divV 8 (tv 4 12 4 1 0), .remS 8 (ts 4 12 0),
  .remV 8 (tv 4 12 4 1 0), .andS 8 (ts 4 12 0), .andV 8 (tv 4 12 4 1 0), .orS 8 (ts 4 12 0), .orV 8 (tv 4 12 4 1 0), .xorS 8 (ts 4 12 0),
  .xorV 8 (tv 4 12 4 1 0), .andnS 8 (ts 4 12 0), .andnV 8 (tv 4 12 4 1 0), .shlS 8 (ts 4 12 0), .shlV 8 (tv 4 12 4 1 0), .shrS 8 (ts 4 12 0),
  .shrV 8 (tv 4 12 4 1 0), .sraS 8 (ts 4 12 0), .sraV 8 (tv 4 12 4 1 0), .rotS 8 (ts 4 12 0), .rotV 8 (tv 4 12 4 1 0), .minS 8 (ts 4 12 0),
  .minV 8 (tv 4 12 4 1 0), .maxS 8 (ts 4 12 0), .maxV 8 (tv 4 12 4 1 0), .abs 8 (tv 4 0 4 1 0), .neg 8 (tv 4 0 4 1 0), .clz 8 (tv 4 0 4 1 0),
  .popc 8 (tv 4 0 4 1 0), .cmp 0 (tv 4 12 4 1 0)]
def wellFormed2 : List Instr := [
  .sel 8 (tv 4 12 4 1 0), .addi 8 (ti 4 131077), .lea 8 (tv 4 12 4 0 0), .bext 8 (tv 4 12 4 1 0), .bins 8 (tv 4 12 4 1 0), .madd 8 (tv 4 12 4 1 0),
  .doti 8 (tv 4 12 0 1 0), .satn 8 (tv 4 0 4 1 0), .shuf 8 (tv 4 12 4 1 0), .fadd 8 (tv 4 12 9 1 0), .fsub 8 (tv 4 12 9 1 0),
  .fmul 8 (tv 4 12 9 1 0), .fma 8 (tv 4 12 9 1 0), .fmin 8 (tv 4 12 9 1 0), .fmax 8 (tv 4 12 9 1 0), .fsgn 8 (tv 4 12 9 1 0),
  .fcmp 0 (tv 4 12 9 1 0), .fcvt 8 (tv 4 12 9 1 96), .frnd 8 (tv 4 0 9 1 0), .fscl 8 (tv 4 12 9 1 0), .fcls 8 (tv 4 0 9 1 0), .frcp 8 (tv 4 0 9 1 0),
  .frsq 8 (tv 4 0 9 1 0), .fsqrt 8 (tv 4 0 9 1 0), .fdiv 8 (tv 4 12 9 1 0), .fexp2 8 (tv 4 0 9 1 0), .flog2 8 (tv 4 0 9 1 0), .fsin 8 (tv 4 0 9 1 0),
  .fcos 8 (tv 4 0 9 1 0), .ftanh 8 (tv 4 0 9 1 0), .fred 8 (tv 4 0 9 1 0), .imax 8 (tv 4 12 4 1 0), .fdot 8 (tv 4 12 10 1 0), .qnt 8 (tv 4 12 0 1 9),
  .qntScl 8 (tv 4 0 0 0 41), .dqnt 8 (tv 4 12 9 1 0), .rand 8 (tv 4 12 9 1 0), .rope 8 (tv 4 12 9 1 0), .ropeSet 0 (tv 4 0 5 1 64),
  .fpcset 8 (tv 4 0 0 0 0), .ld 8 (tm 4 3 0 0 0 0), .st 8 (tm 4 3 0 0 0 0), .lda 8 (tm 4 3 0 0 0 0), .sta 8 (tm 4 3 0 0 0 0),
  .movx 8 (tv 4 12 0 1 0), .movxs 8 (tv 4 12 0 1 0), .lnkr 8 (tv 4 12 0 0 0), .lnkw 8 (tv 4 12 0 0 0)]
def wellFormed3 : List Instr := [
  .chbind 8 (tv 4 0 0 0 0), .chbindOff 8 (tv 0 0 0 0 8), .chsend 0 (tv 4 12 0 0 0), .gath 8 (tv 4 12 4 1 0), .scat 8 (tv 4 12 4 1 0),
  .gennew 8 (tv 0 0 0 0 0), .genq 8 (tv 0 0 0 0 0), .genqGran 8 (tv 4 0 0 0 4), .ldg 8 (tm 4 3 0 0 0 0), .stg 8 (tm 4 3 0 0 0 0),
  .atom 8 (tm 4 3 0 0 2 0), .cas 8 (tm 4 3 0 0 0 0), .red 8 (tm 4 3 0 0 2 0), .fence 0 (tv 0 0 0 0 0), .pref 0 (tm 4 3 0 0 0 0),
  .ldnc 8 (tm 4 3 0 0 0 0), .fabinv 0 (tv 0 0 0 0 3), .flushl 0 (tm 4 6 0 0 0 0), .invl 0 (tm 4 6 0 0 0 0), .send 0 (te 4 12 0 0),
  .sendLaunch 0 (te 4 0 0 1), .spawn 0 (te 4 12 0 0), .cwait 0 (ti 0 131077), .cwaitr 0 (tv 4 12 0 0 0), .csig 0 (ti 0 131077),
  .csigRmt 0 (ti 4 196613), .cset 0 (ti 0 131077), .ctrig 8 (tv 4 12 0 0 0), .ctrigOff 8 (tv 0 0 0 0 1), .bar 0 (tv 0 0 0 0 1),
  .chkw 8 (tv 4 12 0 0 0), .get 0 (te 4 12 0 0), .put 0 (te 4 12 0 256), .tcopy 0 (te 0 0 0 512), .tgath 0 (te 4 12 0 832),
  .tscat 0 (te 4 12 0 1088), .cfill 0 (te 4 12 0 1344), .creplay 8 (tv 4 0 0 0 48), .layset 0 (te 4 0 0 0), .layget 0 (te 0 0 0 256),
  .laykey 0 (te 4 0 0 512), .mma 0 (te 4 0 0 0), .mmz 0 (tv 4 0 0 0 9), .wbld 0 (te 0 0 0 512), .wbsel 0 (tv 0 0 0 0 24), .accvt 0 (te 4 0 0 1024),
  .sfork 8 (tv 4 12 0 0 0), .sret 8 (tv 4 12 0 0 8)]
def wellFormed4 : List Instr := [
  .sprune 8 (tv 4 0 0 0 16), .sadv 8 (tv 4 12 0 0 24), .sactPush 8 (tv 4 12 0 0 32), .sactPop 8 (tv 4 12 0 0 33), .sactPeek 8 (tv 4 12 0 0 34),
  .spgr 0 (te 4 12 0 1280), .spgw 0 (te 4 12 0 1536), .scommitBegin 8 (tv 4 0 0 0 58), .scommitCommit 8 (tv 4 0 0 0 56),
  .scommitDiscard 8 (tv 4 0 0 0 57), .sstat 8 (tv 4 0 0 0 64), .ssetBind 8 (tv 4 0 0 0 72), .ssetPrio 8 (tv 4 12 0 0 73),
  .ssetModel 8 (tv 4 12 0 0 74), .ssetJoin 8 (tv 4 12 0 0 75), .ssetRun 8 (tv 4 12 0 0 76), .ssetRng 8 (tv 4 12 0 0 77),
  .ssetQueue 8 (tv 4 12 0 0 78), .ssetPen 8 (tv 4 12 0 0 79), .shor 8 (tv 4 12 0 0 81), .smig 0 (te 4 12 0 2816), .ttreset 8 (tv 4 0 0 0 0),
  .ttadd 8 (tv 4 0 0 0 8), .ttmask 8 (tv 4 0 0 0 16), .ttpos 8 (tv 4 0 0 1 24), .ttposHdr 8 (tv 0 0 0 0 28), .ttanc 8 (tv 4 12 0 0 32),
  .ttpath 8 (tv 4 0 0 1 40), .ttprune 8 (tv 4 12 0 0 48), .jopen 8 (tv 4 12 0 0 0), .jput 8 (tv 4 12 0 0 8), .jget 8 (tv 4 0 0 0 16),
  .jgetClose 8 (tv 4 0 0 0 17), .psort 0 (te 4 12 0 768), .sdesc 8 (tv 4 12 0 0 32), .rlq 8 (tv 4 12 0 0 0), .perfr 8 (tv 4 0 0 0 8),
  .cget 8 (ti 0 0x20000)]
def illFormed1 : List Instr := [
  .nop 8, .jmpx 8 (tv 4 12 4 1 0), .fetch 8 (tv 4 12 4 1 0), .stop 8, .yield 8, .plog 8 (tv 4 12 4 1 0), .pmov 8 (tv 4 12 4 1 0),
  .sysr 8 (tv 4 12 4 1 0), .addV 8 (tv 4 12 9 1 0), .subV 8 (tv 4 12 9 1 0), .mulV 8 (tv 4 12 9 1 0), .mulhV 8 (tv 4 12 9 1 0),
  .divV 8 (tv 4 12 9 1 0), .remV 8 (tv 4 12 9 1 0), .andV 8 (tv 4 12 16 1 0), .orV 8 (tv 4 12 16 1 0), .xorV 8 (tv 4 12 16 1 0),
  .andnV 8 (tv 4 12 16 1 0), .shlV 8 (tv 4 12 9 1 0), .shrV 8 (tv 4 12 9 1 0), .sraV 8 (tv 4 12 9 1 0), .rotV 8 (tv 4 12 9 1 0),
  .minV 8 (tv 4 12 9 1 0), .maxV 8 (tv 4 12 9 1 0), .abs 8 (tv 4 12 4 1 0), .neg 8 (tv 4 12 4 1 0), .clz 8 (tv 4 12 4 1 0), .popc 8 (tv 4 12 4 1 0),
  .cmp 8 (tv 4 12 4 1 0), .sel 8 (tv 4 12 16 1 0), .lea 8 (tv 4 12 4 1 0), .bext 8 (tv 4 12 9 1 0), .bins 8 (tv 4 12 9 1 0), .madd 8 (tv 4 12 9 1 0),
  .doti 8 (tv 4 12 4 1 0), .satn 8 (tv 4 12 4 1 0), .shuf 8 (tv 4 12 4 0 0), .fadd 8 (tv 4 12 4 1 0), .fsub 8 (tv 4 12 4 1 0),
  .fmul 8 (tv 4 12 4 1 0), .fma 8 (tv 4 12 4 1 0), .fmin 8 (tv 4 12 4 1 0), .fmax 8 (tv 4 12 4 1 0), .fsgn 8 (tv 4 12 4 1 0),
  .fcmp 8 (tv 4 12 4 1 0), .fcvt 8 (tv 4 12 4 1 0), .frnd 8 (tv 4 12 4 1 0), .fscl 8 (tv 4 12 4 1 0)]
def illFormed2 : List Instr := [
  .fcls 8 (tv 4 12 4 1 0), .frcp 8 (tv 4 12 4 1 0), .frsq 8 (tv 4 12 4 1 0), .fsqrt 8 (tv 4 12 4 1 0), .fdiv 8 (tv 4 12 4 1 0),
  .fexp2 8 (tv 4 12 4 1 0), .flog2 8 (tv 4 12 4 1 0), .fsin 8 (tv 4 12 4 1 0), .fcos 8 (tv 4 12 4 1 0), .ftanh 8 (tv 4 12 4 1 0),
  .fred 8 (tv 4 12 4 1 0), .imax 8 (tv 4 12 12 1 0), .fdot 8 (tv 4 12 4 1 0), .qnt 8 (tv 4 12 4 1 0), .qntScl 8 (tv 4 12 4 1 0),
  .dqnt 8 (tv 4 12 4 1 0), .rand 8 (tv 4 12 4 1 0), .rope 8 (tv 4 12 4 1 0), .ropeSet 8 (tv 4 12 4 1 0), .fpcset 8 (tv 4 12 4 1 0),
  .ld 8 (tm 4 3 2 1 0 0), .st 8 (tm 4 3 2 1 0 0), .lda 8 (tm 4 3 2 1 0 0), .sta 8 (tm 4 3 2 1 0 0), .movx 8 (tv 4 12 4 1 0),
  .movxs 8 (tv 4 12 4 1 0), .lnkr 8 (tv 4 12 4 1 0), .lnkw 8 (tv 4 12 4 1 0), .chbind 8 (tv 4 12 4 1 0), .chbindOff 8 (tv 4 12 4 1 0),
  .chsend 8 (tv 4 12 4 1 0), .gath 8 (tv 4 12 16 1 0), .scat 8 (tv 4 12 16 1 0), .gennew 8 (tv 4 12 4 1 0), .genq 8 (tv 4 12 4 1 0),
  .genqGran 8 (tv 4 12 4 1 0), .ldg 8 (tm 4 3 2 1 0 0), .stg 5 (tm 4 5 0 0 0 0), .atom 8 (tm 4 3 0 0 0 0), .cas 5 (tm 4 3 0 0 0 0),
  .red 8 (tm 4 3 0 0 0 0), .fence 8 (tv 4 12 4 1 0), .pref 8 (tm 4 3 0 0 0 0), .ldnc 8 (tm 4 3 2 1 0 0), .fabinv 8 (tv 4 12 4 1 0),
  .flushl 8 (tm 4 3 0 0 0 0), .invl 8 (tm 4 3 0 0 0 0), .send 8 (te 4 12 0 0)]
def illFormed3 : List Instr := [
  .sendLaunch 0 (te 4 12 0 0), .spawn 8 (te 4 12 0 0), .cwait 8 (ti 4 131077), .cwaitr 8 (tv 4 12 4 1 0), .csig 8 (ti 4 131077),
  .csigRmt 8 (ti 4 131077), .cset 8 (ti 4 131077), .cget 8 (ti 4 131077), .ctrig 8 (tv 4 12 4 1 0), .ctrigOff 8 (tv 4 12 4 1 0),
  .bar 8 (tv 4 12 4 1 0), .chkw 8 (tv 4 12 4 1 0), .get 8 (te 4 12 0 0), .put 0 (te 4 12 0 0), .tcopy 0 (te 4 12 0 0), .tgath 0 (te 4 12 0 0),
  .tscat 0 (te 4 12 0 0), .cfill 0 (te 4 12 0 0), .creplay 8 (tv 4 12 4 1 0), .layset 0 (te 4 12 0 0), .layget 0 (te 4 12 0 0),
  .laykey 0 (te 4 12 0 0), .mma 0 (te 4 12 0 0), .mmz 8 (tv 4 12 4 1 0), .wbld 0 (te 4 12 0 0), .wbsel 8 (tv 4 12 4 1 0), .accvt 0 (te 4 12 0 0),
  .sfork 8 (tv 4 12 4 1 0), .sret 8 (tv 4 12 4 1 0), .sprune 8 (tv 4 12 4 1 0), .sadv 8 (tv 4 12 4 1 0), .sactPush 8 (tv 4 12 4 1 0),
  .sactPop 8 (tv 4 12 4 1 0), .sactPeek 8 (tv 4 12 4 1 0), .spgr 0 (te 4 12 0 0), .spgw 0 (te 4 12 0 0), .scommitBegin 8 (tv 4 12 4 1 0),
  .scommitCommit 8 (tv 4 12 4 1 0), .scommitDiscard 8 (tv 4 12 4 1 0), .sstat 8 (tv 4 12 4 1 0), .ssetBind 8 (tv 4 12 4 1 0),
  .ssetPrio 8 (tv 4 12 4 1 0), .ssetModel 8 (tv 4 12 4 1 0), .ssetJoin 8 (tv 4 12 4 1 0), .ssetRun 8 (tv 4 12 4 1 0), .ssetRng 8 (tv 4 12 4 1 0),
  .ssetQueue 8 (tv 4 12 4 1 0), .ssetPen 8 (tv 4 12 4 1 0)]
def illFormed4 : List Instr := [
  .shor 8 (tv 4 12 4 1 0), .smig 0 (te 4 12 0 0), .ttreset 8 (tv 4 12 4 1 0), .ttadd 8 (tv 4 12 4 1 0), .ttmask 8 (tv 4 12 4 1 0),
  .ttpos 8 (tv 4 12 4 1 0), .ttposHdr 8 (tv 4 12 4 1 0), .ttanc 8 (tv 4 12 4 1 0), .ttpath 8 (tv 4 12 4 1 0), .ttprune 8 (tv 4 12 4 1 0),
  .jopen 8 (tv 4 12 4 1 0), .jput 8 (tv 4 12 4 1 0), .jget 8 (tv 4 12 4 1 0), .jgetClose 8 (tv 4 12 4 1 0), .psort 0 (te 4 12 0 0),
  .sdesc 8 (tv 4 12 4 1 0), .rlq 8 (tv 4 12 4 1 0), .perfr 8 (tv 4 12 4 1 0)]
def wellFormed : List Instr := wellFormed1 ++ wellFormed2 ++ wellFormed3 ++ wellFormed4
def illFormed : List Instr := illFormed1 ++ illFormed2 ++ illFormed3 ++ illFormed4

theorem test_wf_accepts : wellFormed.all Instr.wf = true := by decide +kernel
theorem test_wf_refuses : illFormed.all (fun i => !i.wf) = true := by decide +kernel

/-- Tail fields that the words below carry, each placed by R54. -/
def tV (f : BitVec 7) : TailV := { b := 3, c := 4, ty := 4, sh := 1, p := 2, pn := true, f := f }
def tB : TailB := { loff := 0x3FFFFE, slot := 9, p := 6, pn := true, hint := false }
def tM : TailM :=
  { b := 3, c := 4, sz := 3, sx := true, sc := 2, xi := true, p := 5, pn := true, ord := 2, scope := 3, hint := 1, aop := 7,
    off := 0xFFFFF0 }
def tE (f : BitVec 12) : TailE := { wk := 0x91, wt := 0x123, sk := 0x45, si := 9, b := 3, c := 4, l := 0x15, f12 := f }

/-- Do the words decode to what stands beside them? -/
def decodesTo (l : List (Code × Instr)) : Bool := l.all (fun p => match decode p.1 with | .ok i => decide (i = p.2) | .error _ => false)

theorem test_decode_control : decodesTo [
  (.zero 0x0005, .nop 5), (.two 0x8085 0xFFFFF93A, .bra 5 tB), (.two 0x8105 0xFFFFF93A, .call 5 tB), (.two 0x8185 0x06108AC1, .jmpx 5 (tV 0x41)),
  (.two 0x8205 0xFFFFF93A, .loop 5 tB), (.two 0x8285 0x06108AC1, .fetch 5 (tV 0x41)), (.zero 0x0305, .stop 5), (.zero 0x0385, .halt 5),
  (.zero 0x0405, .yield 5), (.zero 0x0485, .trap 5), (.two 0x8505 0x06108AC1, .plog 5 (tV 0x41)), (.two 0x8585 0x06108AC1, .pmov 5 (tV 0x41)),
  (.zero 0x0605, .cyc 5), (.two 0x8685 0x06108AC1, .sysr 5 (tV 0x41))] = true := by decide +kernel

theorem test_decode_integer_1 : decodesTo [
  (.one 0x4805 0x0612, .addS 5 { b := 3, c := 4, w := 2 }), (.two 0x8805 0x06108AC1, .addV 5 (tV 0x41)),
  (.one 0x4885 0x0612, .subS 5 { b := 3, c := 4, w := 2 }), (.two 0x8885 0x06108AC1, .subV 5 (tV 0x41)),
  (.one 0x4905 0x0612, .mulS 5 { b := 3, c := 4, w := 2 }), (.two 0x8905 0x06108AC1, .mulV 5 (tV 0x41)),
  (.one 0x4985 0x0612, .mulhS 5 { b := 3, c := 4, w := 2 }), (.two 0x8985 0x06108AC1, .mulhV 5 (tV 0x41)),
  (.one 0x4A05 0x0612, .divS 5 { b := 3, c := 4, w := 2 }), (.two 0x8A05 0x06108AC1, .divV 5 (tV 0x41)),
  (.one 0x4A85 0x0612, .remS 5 { b := 3, c := 4, w := 2 }), (.two 0x8A85 0x06108AC1, .remV 5 (tV 0x41)),
  (.one 0x4B05 0x0612, .andS 5 { b := 3, c := 4, w := 2 }), (.two 0x8B05 0x06108AC1, .andV 5 (tV 0x41)),
  (.one 0x4B85 0x0612, .orS 5 { b := 3, c := 4, w := 2 }), (.two 0x8B85 0x06108AC1, .orV 5 (tV 0x41)),
  (.one 0x4C05 0x0612, .xorS 5 { b := 3, c := 4, w := 2 }), (.two 0x8C05 0x06108AC1, .xorV 5 (tV 0x41)),
  (.one 0x4C85 0x0612, .andnS 5 { b := 3, c := 4, w := 2 }), (.two 0x8C85 0x06108AC1, .andnV 5 (tV 0x41)),
  (.one 0x4D05 0x0612, .shlS 5 { b := 3, c := 4, w := 2 }), (.two 0x8D05 0x06108AC1, .shlV 5 (tV 0x41)),
  (.one 0x4D85 0x0612, .shrS 5 { b := 3, c := 4, w := 2 }), (.two 0x8D85 0x06108AC1, .shrV 5 (tV 0x41))] = true := by decide +kernel

theorem test_decode_integer_2 : decodesTo [
  (.one 0x4E05 0x0612, .sraS 5 { b := 3, c := 4, w := 2 }), (.two 0x8E05 0x06108AC1, .sraV 5 (tV 0x41)),
  (.one 0x4E85 0x0612, .rotS 5 { b := 3, c := 4, w := 2 }), (.two 0x8E85 0x06108AC1, .rotV 5 (tV 0x41)),
  (.one 0x4F05 0x0612, .minS 5 { b := 3, c := 4, w := 2 }), (.two 0x8F05 0x06108AC1, .minV 5 (tV 0x41)),
  (.one 0x4F85 0x0612, .maxS 5 { b := 3, c := 4, w := 2 }), (.two 0x8F85 0x06108AC1, .maxV 5 (tV 0x41))] = true := by decide +kernel

theorem test_decode_immediates : decodesTo [
  (.two 0x9005 0x06108AC1, .abs 5 (tV 0x41)), (.two 0x9085 0x06108AC1, .neg 5 (tV 0x41)), (.two 0x9105 0x06108AC1, .clz 5 (tV 0x41)),
  (.two 0x9185 0x06108AC1, .popc 5 (tV 0x41)), (.two 0x9205 0x06108AC1, .cmp 5 (tV 0x41)), (.two 0x9285 0x06108AC1, .sel 5 (tV 0x41)),
  (.two 0x9305 0x07FFFFFE, .addi 5 { b := 3, imm := 0x1FFFFFE }), (.two 0x9385 0x89ABCDEF, .movi 5 0x89ABCDEF),
  (.four 0xD405 0x0123456789ABCDEF, .movq 5 0x0123456789ABCDEF), (.two 0x9485 0x06108AC1, .lea 5 (tV 0x41)),
  (.two 0x9505 0x06108AC1, .bext 5 (tV 0x41)), (.two 0x9585 0x06108AC1, .bins 5 (tV 0x41)), (.two 0x9605 0x06108AC1, .madd 5 (tV 0x41)),
  (.two 0x9685 0x06108AC1, .doti 5 (tV 0x41)), (.two 0x9705 0x06108AC1, .satn 5 (tV 0x41)),
  (.two 0x9785 0x06108AC1, .shuf 5 (tV 0x41))] = true := by decide +kernel

theorem test_decode_float_1 : decodesTo [
  (.two 0x9805 0x06108AC1, .fadd 5 (tV 0x41)), (.two 0x9885 0x06108AC1, .fsub 5 (tV 0x41)), (.two 0x9905 0x06108AC1, .fmul 5 (tV 0x41)),
  (.two 0x9985 0x06108AC1, .fma 5 (tV 0x41)), (.two 0x9A05 0x06108AC1, .fmin 5 (tV 0x41)), (.two 0x9A85 0x06108AC1, .fmax 5 (tV 0x41)),
  (.two 0x9B05 0x06108AC1, .fsgn 5 (tV 0x41)), (.two 0x9B85 0x06108AC1, .fcmp 5 (tV 0x41)), (.two 0x9C05 0x06108AC1, .fcvt 5 (tV 0x41)),
  (.two 0x9C85 0x06108AC1, .frnd 5 (tV 0x41)), (.two 0x9D05 0x06108AC1, .fscl 5 (tV 0x41)), (.two 0x9D85 0x06108AC1, .fcls 5 (tV 0x41)),
  (.two 0x9E05 0x06108AC1, .frcp 5 (tV 0x41)), (.two 0x9E85 0x06108AC1, .frsq 5 (tV 0x41)), (.two 0x9F05 0x06108AC1, .fsqrt 5 (tV 0x41)),
  (.two 0x9F85 0x06108AC1, .fdiv 5 (tV 0x41)), (.two 0xA005 0x06108AC1, .fexp2 5 (tV 0x41)), (.two 0xA085 0x06108AC1, .flog2 5 (tV 0x41)),
  (.two 0xA105 0x06108AC1, .fsin 5 (tV 0x41)), (.two 0xA185 0x06108AC1, .fcos 5 (tV 0x41)), (.two 0xA205 0x06108AC1, .ftanh 5 (tV 0x41)),
  (.two 0xA285 0x06108AC1, .fred 5 (tV 0x41)), (.two 0xA305 0x06108AC1, .imax 5 (tV 0x41)),
  (.two 0xA385 0x06108AC1, .fdot 5 (tV 0x41))] = true := by decide +kernel

theorem test_decode_float_2 : decodesTo [
  (.two 0xA405 0x06108A8C, .qnt 5 (tV 0x0C)), (.two 0xA405 0x06108AAC, .qntScl 5 (tV 0x2C)), (.two 0xA485 0x06108AC1, .dqnt 5 (tV 0x41)),
  (.two 0xA505 0x06108AC1, .rand 5 (tV 0x41)), (.two 0xA585 0x06108ABF, .rope 5 (tV 0x3F)), (.two 0xA585 0x06108AFF, .ropeSet 5 (tV 0x7F)),
  (.two 0xA605 0x06108AC1, .fpcset 5 (tV 0x41))] = true := by decide +kernel

theorem test_decode_paddock : decodesTo [
  (.four 0xE805 0x0611EDA647FFFFF0, .ld 5 tM), (.four 0xE885 0x0611EDA647FFFFF0, .st 5 tM), (.four 0xE905 0x0611EDA647FFFFF0, .lda 5 tM),
  (.four 0xE985 0x0611EDA647FFFFF0, .sta 5 tM), (.two 0xAA05 0x06108AC1, .movx 5 (tV 0x41)), (.two 0xAA85 0x06108AC1, .movxs 5 (tV 0x41)),
  (.two 0xAB05 0x06108AC1, .lnkr 5 (tV 0x41)), (.two 0xAB85 0x06108AC1, .lnkw 5 (tV 0x41)), (.two 0xAC05 0x06108A82, .chbind 5 (tV 0x02)),
  (.two 0xAC05 0x06108A8A, .chbindOff 5 (tV 0x0A)), (.two 0xAC85 0x06108AC1, .chsend 5 (tV 0x41)), (.two 0xAD05 0x06108AC1, .gath 5 (tV 0x41)),
  (.two 0xAD85 0x06108AC1, .scat 5 (tV 0x41)), (.two 0xAE05 0x06108AC1, .gennew 5 (tV 0x41)), (.two 0xAE85 0x06108A82, .genq 5 (tV 0x02)),
  (.two 0xAE85 0x06108A84, .genqGran 5 (tV 0x04))] = true := by decide +kernel

theorem test_decode_global : decodesTo [
  (.four 0xF005 0x0611EDA647FFFFF0, .ldg 5 tM), (.four 0xF085 0x0611EDA647FFFFF0, .stg 5 tM), (.four 0xF105 0x0611EDA647FFFFF0, .atom 5 tM),
  (.four 0xF185 0x0611EDA647FFFFF0, .cas 5 tM), (.four 0xF205 0x0611EDA647FFFFF0, .red 5 tM), (.two 0xB285 0x06108AC1, .fence 5 (tV 0x41)),
  (.four 0xF305 0x0611EDA647FFFFF0, .pref 5 tM), (.four 0xF385 0x0611EDA647FFFFF0, .ldnc 5 tM), (.two 0xB405 0x06108AC1, .fabinv 5 (tV 0x41)),
  (.four 0xF485 0x0611EDA647FFFFF0, .flushl 5 tM), (.four 0xF505 0x0611EDA647FFFFF0, .invl 5 tM),
  (.four 0xF585 0x9112345906115000, .send 5 (tE 0x000)), (.four 0xF585 0x9112345906115001, .sendLaunch 5 (tE 0x001)),
  (.four 0xF605 0x9112345906115000, .spawn 5 (tE 0x000))] = true := by decide +kernel

theorem test_decode_counters : decodesTo [
  (.two 0xB805 0x07FFFFFE, .cwait 5 { b := 3, imm := 0x1FFFFFE }), (.two 0xB885 0x06108AC1, .cwaitr 5 (tV 0x41)),
  (.two 0xB905 0x07FEFFFF, .csig 5 { b := 3, imm := 0x1FEFFFF }), (.two 0xB905 0x07018001, .csigRmt 5 { b := 3, imm := 0x1018001 }),
  (.two 0xB985 0x07FFFFFE, .cset 5 { b := 3, imm := 0x1FFFFFE }), (.two 0xBA05 0x07FFFFFE, .cget 5 { b := 3, imm := 0x1FFFFFE }),
  (.two 0xBA85 0x06108A80, .ctrig 5 (tV 0x00)), (.two 0xBA85 0x06108A81, .ctrigOff 5 (tV 0x01)), (.two 0xBB05 0x06108AC1, .bar 5 (tV 0x41)),
  (.two 0xBB85 0x06108AC1, .chkw 5 (tV 0x41))] = true := by decide +kernel

theorem test_decode_engines : decodesTo [
  (.four 0xFC05 0x9112345906115093, .get 5 (tE 0x093)), (.four 0xFC05 0x9112345906115193, .put 5 (tE 0x193)),
  (.four 0xFC05 0x9112345906115293, .tcopy 5 (tE 0x293)), (.four 0xFC05 0x9112345906115393, .tgath 5 (tE 0x393)),
  (.four 0xFC05 0x9112345906115493, .tscat 5 (tE 0x493)), (.four 0xFC05 0x9112345906115593, .cfill 5 (tE 0x593)),
  (.two 0xBC05 0x06108AB5, .creplay 5 (tV 0x35)), (.four 0xFC85 0x9112345906115093, .layset 5 (tE 0x093)),
  (.four 0xFC85 0x9112345906115193, .layget 5 (tE 0x193)), (.four 0xFC85 0x9112345906115293, .laykey 5 (tE 0x293)),
  (.four 0xFD05 0x9112345906115093, .mma 5 (tE 0x093)), (.two 0xBD05 0x06108A8D, .mmz 5 (tV 0x0D)),
  (.four 0xFD05 0x9112345906115293, .wbld 5 (tE 0x293)), (.two 0xBD05 0x06108A9D, .wbsel 5 (tV 0x1D)),
  (.four 0xFD05 0x9112345906115493, .accvt 5 (tE 0x493))] = true := by decide +kernel

theorem test_decode_streams_1 : decodesTo [
  (.two 0xBD85 0x06108A85, .sfork 5 (tV 0x05)), (.two 0xBD85 0x06108A8D, .sret 5 (tV 0x0D)), (.two 0xBD85 0x06108A95, .sprune 5 (tV 0x15)),
  (.two 0xBD85 0x06108A9D, .sadv 5 (tV 0x1D)), (.two 0xBD85 0x06108AA0, .sactPush 5 (tV 0x20)), (.two 0xBD85 0x06108AA1, .sactPop 5 (tV 0x21)),
  (.two 0xBD85 0x06108AA2, .sactPeek 5 (tV 0x22)), (.four 0xFD85 0x9112345906115593, .spgr 5 (tE 0x593)),
  (.four 0xFD85 0x9112345906115693, .spgw 5 (tE 0x693)), (.two 0xBD85 0x06108AB8, .scommitCommit 5 (tV 0x38)),
  (.two 0xBD85 0x06108AB9, .scommitDiscard 5 (tV 0x39)), (.two 0xBD85 0x06108ABA, .scommitBegin 5 (tV 0x3A)),
  (.two 0xBD85 0x06108AC5, .sstat 5 (tV 0x45)), (.two 0xBD85 0x06108AC8, .ssetBind 5 (tV 0x48)), (.two 0xBD85 0x06108AC9, .ssetPrio 5 (tV 0x49)),
  (.two 0xBD85 0x06108ACA, .ssetModel 5 (tV 0x4A)), (.two 0xBD85 0x06108ACB, .ssetJoin 5 (tV 0x4B)), (.two 0xBD85 0x06108ACC, .ssetRun 5 (tV 0x4C)),
  (.two 0xBD85 0x06108ACD, .ssetRng 5 (tV 0x4D)), (.two 0xBD85 0x06108ACE, .ssetQueue 5 (tV 0x4E)), (.two 0xBD85 0x06108ACF, .ssetPen 5 (tV 0x4F)),
  (.two 0xBD85 0x06108AD5, .shor 5 (tV 0x55)), (.four 0xFD85 0x9112345906115B93, .smig 5 (tE 0xB93)),
  (.two 0xBE05 0x06108A85, .ttreset 5 (tV 0x05))] = true := by decide +kernel

theorem test_decode_streams_2 : decodesTo [
  (.two 0xBE05 0x06108A8D, .ttadd 5 (tV 0x0D)), (.two 0xBE05 0x06108A95, .ttmask 5 (tV 0x15)), (.two 0xBE05 0x06108A9B, .ttpos 5 (tV 0x1B)),
  (.two 0xBE05 0x06108A9F, .ttposHdr 5 (tV 0x1F)), (.two 0xBE05 0x06108AA5, .ttanc 5 (tV 0x25)), (.two 0xBE05 0x06108AAD, .ttpath 5 (tV 0x2D)),
  (.two 0xBE05 0x06108AB5, .ttprune 5 (tV 0x35)), (.two 0xBE85 0x06108A85, .jopen 5 (tV 0x05)), (.two 0xBE85 0x06108A8D, .jput 5 (tV 0x0D)),
  (.two 0xBE85 0x06108A90, .jget 5 (tV 0x10)), (.two 0xBE85 0x06108A91, .jgetClose 5 (tV 0x11)),
  (.four 0xFE85 0x9112345906115393, .psort 5 (tE 0x393)), (.two 0xBE85 0x06108AA5, .sdesc 5 (tV 0x25)), (.two 0xBF05 0x06108A85, .rlq 5 (tV 0x05)),
  (.two 0xBF05 0x06108A8D, .perfr 5 (tV 0x0D))] = true := by decide +kernel

theorem test_decode_xmakel_1 : decodesTo [
  (.xm 0x00B5060B, .mkBcast { rd := 12, rs1 := 10, rs2 := 11 }), (.xm 0x02B5060B, .mkLoose { rd := 12, rs1 := 10, rs2 := 11 }),
  (.xm 0x04B5060B, .mkStopped { rd := 12, rs1 := 10, rs2 := 11 }), (.xm 0x06B5060B, .mkWaitf { rd := 12, rs1 := 10, rs2 := 11 }),
  (.xm 0x08B5060B, .mkHaltf { rd := 12, rs1 := 10, rs2 := 11 }), (.xm 0x0AB5060B, .mkLink { rd := 12, rs1 := 10, rs2 := 11 }),
  (.xm 0x00B5160B, .mkCtxnew { rd := 12, rs1 := 10, rs2 := 11 }), (.xm 0x02B5160B, .mkCtxfree { rd := 12, rs1 := 10, rs2 := 11 }),
  (.xm 0x04B5160B, .mkBind { rd := 12, rs1 := 10, rs2 := 11 }), (.xm 0x06B5160B, .mkUnbind { rd := 12, rs1 := 10, rs2 := 11 }),
  (.xm 0x08B5160B, .mkRunq { rd := 12, rs1 := 10, rs2 := 11 }), (.xm 0x0AB5160B, .mkUpret { rd := 12, rs1 := 10, rs2 := 11 }),
  (.xm 0x0CB5160B, .mkMigr { rd := 12, rs1 := 10, rs2 := 11 }), (.xm 0x0EB5160B, .mkGennew { rd := 12, rs1 := 10, rs2 := 11 }),
  (.xm 0x00B5260B, .mkCwait { rd := 12, rs1 := 10, rs2 := 11 }), (.xm 0x02B5260B, .mkCsig { rd := 12, rs1 := 10, rs2 := 11 }),
  (.xm 0x04B5260B, .mkCset { rd := 12, rs1 := 10, rs2 := 11 }), (.xm 0x06B5260B, .mkCget { rd := 12, rs1 := 10, rs2 := 11 }),
  (.xm 0x08B5260B, .mkEngw { rd := 12, rs1 := 10, rs2 := 11 }), (.xm 0x0AB5260B, .mkEngr { rd := 12, rs1 := 10, rs2 := 11 }),
  (.xm 0x00B5360B, .mkShswap { rd := 12, rs1 := 10, rs2 := 11 }), (.xm 0x02B5360B, .mkFreeze { rd := 12, rs1 := 10, rs2 := 11 }),
  (.xm 0x04B5360B, .mkThaw { rd := 12, rs1 := 10, rs2 := 11 }),
  (.xm 0x06B5360B, .mkPlbw { rd := 12, rs1 := 10, rs2 := 11 })] = true := by decide +kernel

theorem test_decode_xmakel_2 : decodesTo [
  (.xm 0x08B5360B, .mkPlbinv { rd := 12, rs1 := 10, rs2 := 11 }), (.xm 0x0AB5360B, .mkDbgrd { rd := 12, rs1 := 10, rs2 := 11 }),
  (.xm 0x0CB5360B, .mkDbgwr { rd := 12, rs1 := 10, rs2 := 11 }),
  (.xm 0x0A00100B, .mkUpretReturn { rd := 0, rs1 := 0, rs2 := 0 })] = true := by decide +kernel

/-- Xmakel instructions with a field they do not use, MK.UPRET without a handle, events of a die, a core, a context or a slot that is not there. -/
theorem test_wf_refuses_hart : ([
  .mkStopped { rd := 5, rs1 := 1, rs2 := 0 }, .mkWaitf { rd := 5, rs1 := 1, rs2 := 1 }, .mkCsig { rd := 1, rs1 := 1, rs2 := 1 },
  .mkUpret { rd := 5, rs1 := 0, rs2 := 1 }, .mkUpretReturn { rd := 5, rs1 := 0, rs2 := 0 }, .mkShswap { rd := 5, rs1 := 1, rs2 := 0 },
  .contextBind 12 0, .contextBind 0 96, .agingStep 0 96 0, .chunkLand 12 0 0 0 false, .gangTimeout 0 0 64, .gangStart 12 0, .shootdown 12 0,
  .sliceExpiry 12 0, .homeRead (.slot 0 0 32), .cacheFill (.hart 12 0) none 0, .tableWalk (.slot 0 96 0), .droveDispatch 12 0, .postRecord 12] : List Instr).all (fun i => !i.wf) = true := by decide +kernel
/-- The worked lines of chapters 04, 07, 11, 12, 13, 14 and 16. -/
theorem test_decode_examples : decodesTo [
  (.two 0x8080 0x0424, .bra 0 { tb 1 1 with p := 1 }), (.two 0x9705 0x8804, .satn 5 (tv 0 0 4 1 4)), (.two 0x8806 0x0A144801, .addV 6 (tv 5 5 2 1 1)),
  (.two 0x9203 0x0C144805, .cmp 3 (tv 6 5 2 1 5)), (.two 0x9287 0x0C144803, .sel 7 (tv 6 5 2 1 3)), (.zero 0x0380, .halt 0),
  (.four 0xFC80 0x10004000, .layset 0 (te 8 0 4 0)), (.four 0xFC80 0x18005000, .layset 0 (te 12 0 5 0)),
  (.four 0xFC00 0x0000006100004205, .tcopy 0 { te 0 0 4 0x205 with sk := 6, si := 1 }), (.four 0xFD00 0x0000004100001200, .wbld 0 { te 0 0 1 0x200 with sk := 4, si := 1 }),
  (.two 0xBD00 0x1A, .wbsel 0 (tv 0 0 0 0 0x1A)), (.two 0xBD84 0x040C0000, .sfork 4 (tv 2 3 0 0 0)),
  (.four 0xFD89 0x0000003108200600, .spgw 9 { te 4 8 0 0x600 with sk := 3, si := 1 }), (.two 0xBD8A 0x04000010, .sprune 10 (tv 2 0 0 0 0x10)),
  (.two 0xBE85 0x020C0000, .jopen 5 (tv 1 3 0 0 0)), (.two 0xBD8D 0x1414004B, .ssetJoin 13 (tv 10 5 0 0 0x4B)), (.two 0xB800 0x00100001, .cwait 0 (ti 0 0x100001)),
  (.two 0xBD89 0x04100008, .sret 9 (tv 2 4 0 0 8))] = true := by decide +kernel
/-- A reserved major, a tail length its major does not have, a reserved funct3, a standard word. -/
theorem test_decode_refuses :
    (match decode (.zero 0x0700), decode (.zero 0x0500), decode (.xm 0x0000400B), decode (.xm 0x00000013) with
     | .error (.reservedMajor 0x0E), .error (.tailLength 0x0A 0), .error (.custom0 _), .error (.standard _) => true
     | _, _, _, _ => false) = true := by decide +kernel

/-! ## Witnesses: states and operands that meet the hypotheses of the statements -/

/-- R52's worked line: MOVI w5 1000, ADD w6 w5 w5, STOP. -/
def exLine : Line :=
  0x3E80A1400000000000000000000000000000000000000000000000000000000000000000000000000000000000000000000000000000300480693851A00
/-- Slot 0 executes that line, and its turn comes. -/
def sRun : State :=
  { onSet { a0 [] with slots := [(0, { mode := .stray, ix := 0, line := some (0x10000, exLine) })] } with sched := [.run (.slot 0 0 0)] }

theorem witness_SlotTurnRunsDecoded : sRun.turn = .run (.slot 0 0 0) ∧ sRun.boot = 5 ∧ (sRun.core 0 0).failed = false ∧
    (sRun.core 0 0).halted = false ∧ (onTurn sRun (.slot 0 0 0)).env? = some e0 ∧ lineNH exLine = 3 ∧ lineOk exLine = true ∧
    slotLine (onTurn sRun (.slot 0 0 0)) e0 = .ok (onTurn sRun (.slot 0 0 0), exLine) ∧
    decodesTo [(lineCode exLine 1, .movi 5 1000)] = true := by
  refine ⟨rfl, rfl, by decide +kernel, by decide +kernel, by decide +kernel, by decide +kernel, by decide +kernel, rfl, by decide +kernel⟩

/-- Core 0's hart at a word in the save area: MK.STOPPED a2. -/
def sHart (w : Nat) : State :=
  let s := State.reset.setAct 0 0 (saveWrite ({} : SetState) 0x1000 4 w)
  { s.setHart 0 0 { s.hart 0 0 with pc := 0x1000 } with sched := [.run (.hart 0 0)] }

theorem witness_HartAndEventTurns :
    (let s := sHart (2 * 2 ^ 25 + 12 * 2 ^ 7 + 0x0B)
     s.turn = .run (.hart 0 0) ∧ s.boot = 5 ∧ (s.core 0 0).failed = false ∧ (s.hart 0 0).wfi = false ∧
     (match hartWord (onTurn s (.hart 0 0)) 0 0 with | .ok w => decide (w = 0x0400060B) && (hartInstr w).isSome | .error _ => false) = true) ∧
    (let s := sHart 0x00310093
     s.turn = .run (.hart 0 0) ∧ s.boot = 5 ∧ (s.core 0 0).failed = false ∧ (s.hart 0 0).wfi = false ∧
     (match hartWord (onTurn s (.hart 0 0)) 0 0 with | .ok w => decide (w = 0x00310093) && (hartInstr w).isNone | .error _ => false) = true ∧
     (match step s with | .next t => decide ((t.hart 0 0).xr 1 = 3 ∧ (t.hart 0 0).pc = 0x1004) | _ => false) = true) ∧
    (let s : State := { State.reset with sched := [.event (.rateWindow 3)] }
     s.turn = .event (.rateWindow 3) ∧ s.boot = 5 ∧ isEvent (.rateWindow 3) = true) := by decide +kernel

/-- C.ADDI sp, -16; C.LD s1 + 0; C.JR ra; the parcel 0 is no instruction (RISC-V's compressed encodings). -/
theorem test_compressed :
    rvcExpand 0x1141 = some 0xFF010113 ∧ rvcExpand 0x6088 = some 0x0004B503 ∧ rvcExpand 0x8082 = some 0x00008067 ∧
    rvcExpand 0 = none := by decide +kernel

/-- FDIV.S 1 / 3 rounds to 0x3EAAAAAB and raises NX (IEEE 754-2019). -/
theorem test_hart_fdiv :
    (match rvRegisters 0x182081D3 4 0 { mstatus := 0x2000, f := [(1, 0xFFFFFFFF3F800000), (2, 0xFFFFFFFF40400000)] } with
     | some h => decide (h.fr 3 = 0xFFFFFFFF3EAAAAAB ∧ h.fcsr = 1 ∧ h.pc = 4) | none => false) = true := by decide +kernel

/-- VADD.VV on four 32-bit elements: sums wrap, and the element past vl stays under an undisturbed tail. -/
theorem test_hart_vadd :
    (let h : Hart := { mstatus := 0x200, csrs := [(0xC20, 2), (0xC21, 0x10)],
                       v := [(2, 0x0000000900000005FFFFFFFF), (4, 0x000000070000000600000002), (6, 0x77 <<< 64)] }
     match rvRegisters 0x02220357 4 0 h with
     | some h => decide (vget h 32 6 0 = 1 ∧ vget h 32 6 1 = 11 ∧ vget h 32 6 2 = 0x77) | none => false) = true := by
  decide +kernel

theorem witness_StepKeepsMemoryForm :
    (let s : State := { State.reset with mem := [⟨5, 7⟩], sched := [.cc 0 0] }
     decide (memWf s.mem = true ∧ memWf s.host = true ∧ memWf s.pool = true) &&
       match step s with | .next t => decide ((t.core 0 0).cyc = 1) | _ => false) = true := by decide +kernel

/-- FADD's register 4 above a workspace of four registers: rank 4 of R71 stops it. -/
def sSmall : State := onSet { a0 [] with ctxs := [(0, { c0 with wsz := 4 })] }
theorem witness_ChecksComeFirst : sSmall.env? = some e0 ∧ ∃ u, (Instr.fadd 8 (tv 4 12 9 1 0)).use? = some u ∧
    ctxChecks sSmall e0 u = .error (.fault { code := 0x03 }) := ⟨by decide +kernel, _, rfl, rfl⟩

/-- Register 5 of context 0 and register 5 of context 1, which lies elsewhere; a live workspace generation. -/
theorem witness_RegistersReadWrite : ((a0 []).ctx 0).wgen ≠ 0 ∧ ({ c0 with wp := 0x4000 } : Ctx).gran 5 ≠ ((a0 []).ctx 0).gran 5 ∧
    (let a : SetState := { a0 [reg 3 9] with ctxs := [(0, { c0 with strict := true })] }
     (a.ctx 0).bound 5 = false ∧ (a.ctx 0).strict = true ∧ granLive a.pad ((a.ctx 0).gran 5) (a.ctx 0).wgen = false ∧
     granLive a.pad ((a.ctx 0).gran 3) (a.ctx 0).wgen = true) ∧ c0.wsz.toNat ≤ 128 ∧
    ({ c0 with chan := 4096 } : Ctx).bound 120 = true ∧
    held (a0 [reg 3 9]) c0 (c0.gran 3) = none ∧ granSeen (a0 [reg 3 9]) c0 (c0.gran 3) = some 9 ∧ granSeen (a0 []) c0 (c0.gran 3) = none ∧
    (let a : SetState := { a0 [] with slots := [(0, { mode := .stray, ix := 0, beat := some { left := 1, regs := [(523, some 6)] } })], pad := [(523, { tag := 1, data := 9, bad := true })] }
     held a c0 523 = some (some 6) ∧ granSeen a c0 523 = some 6 ∧ okB (regRead a 0 3) 6 = true) ∧
    (tget {} [(523, ({ tag := 1, data := 9, bad := true } : Gran))] 523).bad = true := by decide +kernel

theorem witness_PredicatedGroupWrite : ((a0 []).ctx 0).wgen ≠ 0 ∧ 8 ≤ tyBits 4 ∧ tyBits 4 % 8 = 0 ∧ tyBits 0 = 8 := by decide +kernel

/-- Every Makel row's well-formed term passes the checks of ranks 3 and 4 on the small machine; register 4 holds 7, register 12 holds 3. -/
def s1 : State := s0 [reg 4 7, reg 12 3]
theorem witness_Ready : wellFormed.all (fun i => readyB i s1 []) = true := by decide +kernel
theorem witness_Ready_prop : ∀ i ∈ wellFormed, Ready i s1 e0 [] :=
  fun i hi => readyB_sound (List.all_eq_true.mp witness_Ready i hi)
theorem witness_Reads : Reads s1 e0 4 7 ∧ Reads s1 e0 12 3 ∧ ReadsGrp s1 e0 1 4 7 ∧ ReadsGrp s1 e0 1 12 3 ∧ ReadsGrp s1 e0 0 4 7 ∧
    Reads s1 e0 8 0 ∧ ReadsGrp s1 e0 1 8 0 ∧ (predRead (s1.act 0 0) (s1.ctx e0) 0).testBit 0 = true :=
  ⟨okB_sound (by decide +kernel), okB_sound (by decide +kernel), okB_sound (by decide +kernel), okB_sound (by decide +kernel),
   okB_sound (by decide +kernel), okB_sound (by decide +kernel), okB_sound (by decide +kernel), by decide +kernel⟩

/-- A popped channel register: register 120 bound to tag 5, with one packet. -/
def sChan : State := onSet { a0 [] with ctxs := [(0, { c0 with chan := 0x1005 })], chq := [(0, [9])] }
theorem witness_Ready_channel : readyB (.addi 8 (ti 120 1)) sChan [120] = true ∧ okB (regRead (sChan.act 0 0) 0 120) 9 = true := by
  decide +kernel

theorem witness_ControlFlow :
    [.nop 0, .bra 0 (tb 1 1), .call 8 (tb 1 1), .jmpx 0 (tv 4 0 0 0 0), .loop 4 (tb 0x3FFFFF 1), .fetch 0 (tv 4 0 0 0 0),
      .halt 0, .halt 4].all (fun i => readyB i s1 []) = true ∧
    (s1.act 0 0).post.all (fun p => !(p.2.issuer.ix = 0 && !p.2.issuer.hart && p.2.issuer.inc = (s1.ctx e0).inc)) = true ∧
    (let h := ctxHandle 0 0 1 2
     let s := onSet { a0 [reg 4 h] with ctxs := [(0, c0), (1, { wp := 0x4000, wsz := 16, inc := 2, state := .held })] }
     readyB (.halt 4) s [] = true ∧ okB (regRead (s.act 0 0) 0 4) (BitVec.ofNat 128 h) = true ∧
     handleIx (s.act 0 0) 0 0 (fld (BitVec.ofNat 128 h) 31 0) = some 1 ∧ ((s.act 0 0).ctx 1).state = .held ∧
     ((s.act 0 0).ctx 1).dom = (s.ctx e0).dom ∧ ((s.act 0 0).ctx 1).r1.size = 0 ∧ lastStore (s.core 0 0) 0 1 = 0) := by decide +kernel

theorem witness_StopHerds : readyB (.stop 0) s1 [] = true := by decide +kernel
theorem witness_TrapFaults : readyB (.trap 9) s1 [] = true ∧ readyB (.trap 127) s1 [] = true := by decide +kernel
/-- A READY context of priority 4 waits in the run queue; with an empty queue YIELD is a NOP. -/
def sQueue : State := onSet { a0 [] with ctxs := [(0, c0), (1, { state := .ready, prio := 4, eprio := 4 })], runq := [1] }
theorem witness_YieldLeaves : readyB (.yield 0) sQueue [] = true ∧ e0.mode = .stray ∧
    (sQueue.act 0 0).runq.any (fun j => decide (((sQueue.act 0 0).ctx j).eprio.toNat ≤ (sQueue.ctx e0).prio.toNat)) = true ∧
    readyB (.yield 0) s1 [] = true ∧ (s1.act 0 0).runq = [] := by decide +kernel
theorem witness_PredicateOps : readyB (.plog 3 (tv 1 2 0 0 4)) s1 [] = true ∧ readyB (.pmov 8 (tv 3 0 0 0 0)) s1 [] = true ∧
    readyB (.pmov 3 (tv 4 0 0 0 1)) s1 [] = true ∧ okB (regRead (s1.act 0 0) 0 4) 7 = true := by decide +kernel

/-- Slot 1 holds context 1, whose register 3 is linked to; register 4 names slot 1. -/
def sLink : State := onSet { a0 [reg 4 1, reg 8 1] with
  ctxs := [(0, c0), (1, { wp := 0x4000, wsz := 16, wgen := 2, state := .bound })], slots := [(0, { mode := .stray, ix := 0 }), (1, { mode := .herded, ix := 1 })] }
theorem witness_SpecialsLinksChannels : readyB (.cyc 8) s1 [] = true ∧ readyB (.sysr 8 (tv 0 0 0 0 12)) s1 [] = true ∧
    readyB (.lnkr 8 (tv 4 3 0 0 0)) sLink [] = true ∧ readyB (.lnkw 8 (tv 4 3 0 0 0)) sLink [] = true ∧
    okB (regRead (sLink.act 0 0) 0 4) 1 = true ∧ linkTarget (sLink.act 0 0) 1 = some 1 ∧ 3 < ((sLink.act 0 0).ctx 1).wsz.toNat ∧
    padBad (sLink.act 0 0).pad 2 (16 * ((sLink.act 0 0).ctx 1).gran 3) 1 = none ∧
    readyB (.chbind 8 (tv 4 0 0 0 2)) s1 [] = true ∧ tagTaken (s1.act 0 0) 0 2 7 = false ∧
    readyB (.chbind 8 (tv 4 0 0 0 2)) (onSet { a0 [reg 4 5] with ctxs := [(0, { c0 with chan := 0x1005 })] }) [] = true ∧
    tagTaken { a0 [] with ctxs := [(0, { c0 with chan := 0x1005 })] } 0 2 5 = true ∧
    readyB (.chbindOff 8 (tv 0 0 0 0 8)) s1 [] = true ∧ readyB (.chsend 0 (tv 4 12 0 0 0)) s1 [] = true ∧
    fld (7 : W128) 18 12 ≤ 95 ∧ fld (7 : W128) 22 19 ≤ 11 := by decide +kernel

/-- The page at 0x100000 with every right, translated to HBM; its first four lines in the core's cache portion, the first in the die's
fabric cache. -/
def fa0 : Nat := mkFa 0 0 3 0 0x100000
def plb0 : PlbEntry := { v := true, r := true, w := true, x := true, e := true, k := true, pcnt := 1, base := 0x100000 }
def withPage (s : State) : State :=
  let s := s.setCore 0 0 { s.core 0 0 with plb := [(0, plb0)] }
  s.setDie 0 { s.die 0 with tlb := [(16, { psz := 0, fa := fa0 })], fab := [(0x100000, (fa0, 5))] }
def sGof (a : SetState) : State :=
  withPage (onSet { a with lines := (List.range 4).map (fun i => (fa0 + 64 * i, { va := 0x100000 + 64 * i, data := 7, dirty := false })) })
/-- Register 4 points at that page. -/
def sG : State := sGof (a0 [reg 4 0x100000, reg 8 1, reg 9 2])
def ag0 : Agent := .slot 0 0 0

theorem witness_MessagesIssue : readyB (.send 0 (te 4 12 0 0)) s1 [] = true ∧ readyB (.spawn 0 (te 4 12 0 0)) s1 [] = true ∧
    fld (7 : W128) 89 88 = 0 ∧ fld (7 : W128) 111 105 ≤ 95 ∧ fld (7 : W128) 115 112 ≤ 11 ∧ okB (payload (s1.act 0 0) 0 12 1) 3 = true ∧
    freePost (s1.act 0 0) = some 0 ∧ readyB (.sendLaunch 0 (te 4 0 0 1)) sG [] = true ∧
    okB (regRead (sG.act 0 0) 0 4) 0x100000 = true ∧
    (match recordPieces sG (agentOf e0) 0x100000 (List.range 16) with | .ok ps => ps.length == 16 | .error _ => false) = true ∧
    freePost (sG.act 0 0) = some 0 := by decide +kernel

theorem witness_IntegerElements : (wellFormed.filter (fun i => (intOp i).isSome)).length = 32 ∧
    readyB (.shlV 8 (tv 4 12 4 1 1)) s1 [] = true := ⟨by decide +kernel, by decide +kernel⟩
/-- An ADD of four registers takes four turns: the first reads and holds its sources, the last writes; a write between them is not seen (R91, R178). -/
theorem test_beats :
    (let go := fun (s : State) => (after (.addV 16 (tv 4 12 4 3 0)) s).getD s
     let s := s0 [reg 4 7, reg 12 3]
     let s := go s
     decide ((s.slotOf e0).beat.map (·.left) = some 3) && readyB (.addV 16 (tv 4 12 4 3 0)) s [] && okB (grpRead (s.act 0 0) 0 3 4) 7 &&
     (let u := s.setAct 0 0 (regWrite (s.act 0 0) 0 4 100 allBytes)
      let u := go (go (go u))
      decide ((u.slotOf e0).beat = none ∧ regRaw (u.act 0 0) (u.ctx e0) 16 = 10))) = true := by decide +kernel
theorem witness_IntegerUnaryCompare :
    [.abs 8 (tv 4 0 4 1 1), .neg 8 (tv 4 0 4 1 0), .clz 8 (tv 4 0 4 1 1), .popc 8 (tv 4 0 4 1 0), .madd 8 (tv 4 12 4 1 0),
      .cmp 0 (tv 4 12 4 1 6), .sel 8 (tv 4 12 4 1 0)].all (fun i => readyB i s1 []) = true := by decide +kernel
theorem witness_ImmediatesFieldsLanes :
    [.addi 8 (ti 4 5), .movi 8 5, .movq 8 5, .lea 8 (tv 4 12 4 0 3), .bext 8 (tv 4 12 4 1 0), .bins 8 (tv 4 12 4 1 0), .doti 8 (tv 4 12 0 1 1),
      .satn 8 (tv 4 0 4 1 0), .satn 8 (tv 4 0 4 0 3), .shuf 8 (tv 4 12 4 1 0)].all (fun i => readyB i s1 []) = true := by decide +kernel
theorem witness_ExactBeforeRounding : ratOf (.fin false 3 0) = some 3 ∧ ratOf (.fin true 1 2) = some (-4) := by
  decide +kernel
theorem witness_FloatElements : (wellFormed.filter (fun i => (fpOp i).isSome)).length = 18 ∧
    (wellFormed.filter (fun i => (fpOp i).isSome)).all (fun i => readyB i s1 []) = true := by decide +kernel
theorem witness_ScaleCompareReduce :
    [.fscl 8 (tv 4 12 9 1 0), .fscl 8 (tv 4 12 9 1 1), .fcmp 0 (tv 4 12 9 1 0), .fpcset 8 (tv 4 0 0 0 1), .fred 8 (tv 4 0 9 1 1),
      .imax 8 (tv 4 12 9 1 0), .imax 8 (tv 4 12 9 1 1), .fdot 8 (tv 4 12 10 1 0)].all (fun i => readyB i s1 []) = true := by decide +kernel

/-- Stream 0 of die 0 is IDLE and bound to the context; register 4 names it. -/
def str0 : Stream := { st := .idle, dom := 0, jg := noHandle }
def sStr (x : Stream) (l : Sparse Gran) : State :=
  let s := onSet { a0 (reg 4 0 :: l) with ctxs := [(0, { c0 with stream := 0 })] }
  s.setDie 0 { s.die 0 with streams := [(0, x)] }
theorem witness_ConversionsDrawsRotary :
    convMode 0 1 ≠ 5 ∧ readyB (.fcvt 8 (tv 4 0 4 1 0x29)) s1 [] = true ∧
    [.fcvt 8 (tv 4 12 0x0A 1 0x69), .qnt 8 (tv 4 12 0 1 9), .dqnt 8 (tv 4 12 9 1 0), .qntScl 8 (tv 4 0 0 0 0x29), .rand 8 (tv 4 12 9 1 0),
      .rand 8 (tv 4 12 9 1 2), .rope 8 (tv 4 12 9 1 0), .ropeSet 0 (tv 4 0 5 1 0x41)].all (fun i => i.wf && readyB i s1 []) = true ∧
    (let s := sStr str0 []
     readyB (.rand 8 (tv 0 0 9 1 1)) s [] = true ∧ (s.pend (agentOf e0)).fwd = none ∧ s.streamAway (s.ctx e0).stream = false ∧
     s.streamOf (s.ctx e0).stream = some (0, 0) ∧ streamError s 0 0 false = none ∧ (s.stream 0 0).st ≠ .migrating ∧
     readyB (.fcvt 8 (tv 4 12 0x0A 1 0x69)) s [] = true ∧ drawn s e0 = 0 ∧ convMode 0 3 = 5 ∧ (BitVec.ofNat 128 (2 ^ 127)).getLsbD 127 = true ∧
     (let u := sStr str0 [reg 12 (2 ^ 127)]
      readyB (.fcvt 8 (tv 4 12 0x0A 1 0x69)) u [] = true ∧ okB (regRead (u.act 0 0) 0 12) (BitVec.ofNat 128 (2 ^ 127)) = true)) := by decide +kernel

/-- Register 4 points into the context's workspace region; register 12 holds small indices. -/
def sPad : State := s0 [reg 4 0x20C0, reg 12 1]
theorem witness_PaddockAccess :
    (let t := { tm 4 3 0 0 0 0 with p := 1 }
     mEnabled (s1.act 0 0) (s1.ctx e0) t = [] ∧ readyB (.ld 8 t) s1 [] = true ∧ readyB (.st 8 t) s1 [] = true) ∧
    (let t := tm 4 5 0 0 0 0
     mEnabled (sPad.act 0 0) (sPad.ctx e0) t = [0, 1] ∧ okB (mEa (sPad.act 0 0) 0 t) 0x20C0 = true ∧
     readyB (.ld 8 t) sPad [] = true ∧ okB (ldstCheck (sPad.act 0 0) (sPad.ctx e0) false 0x20C0 16 [0, 1]) 1 = true ∧
     readyB (.st 8 t) sPad [] = true ∧ okB (dataRegs (sPad.act 0 0) 0 8 [0, 1]) [(0, 0), (1, 0)] = true ∧
     okB (ldstCheck (sPad.act 0 0) (sPad.ctx e0) true 0x20C0 16 [0, 1]) 1 = true) ∧
    readyB (.movx 8 (tv 4 12 0 1 0)) s1 [] = true ∧ okB (regsRead (s1.act 0 0) 0 19 1) 0 = true ∧
    readyB (.movxs 4 (tv 12 12 0 1 0)) s1 [] = true ∧ okB (grpRead (s1.act 0 0) 0 1 12) 3 = true ∧
    readyB (.gath 8 (tv 4 12 4 1 2)) sPad [] = true ∧
    (List.range 4).filter (fun j => (predRead (sPad.act 0 0) (sPad.ctx e0) 0).testBit (j * 32 / 8) != false) = [0, 1, 2, 3] ∧
    [0, 1, 2, 3].all (fun j => okB (elemRead (sPad.act 0 0) 0 12 32 j) (if j = 0 then 1 else 0) &&
      okB (padRd (sPad.act 0 0) (sPad.ctx e0) (0x20C0 + (if j = 0 then 4 else 0)) (0x20C0 + (if j = 0 then 4 else 0)) 4) (if j = 0 then 0 else 0x20C0) &&
      okB (padCheck (sPad.act 0 0) (sPad.ctx e0) true (0x20C0 + (if j = 0 then 4 else 0)) (0x20C0 + (if j = 0 then 4 else 0)) 4) 1 &&
      okB (elemRead (sPad.act 0 0) 0 8 32 j) 0) = true ∧
    readyB (.scat 8 (tv 4 12 4 1 2)) sPad [] = true ∧
    readyB (.gennew 8 (tv 0 0 0 0 2)) s1 [] = true ∧ ((s1.ctx e0).region 2).2.1 = 0 ∧ readyB (.gennew 8 (tv 0 0 0 0 0)) (s0 []) [] = true ∧
    allocStalls { ((s0 []).core 0 0) with next := 5 } = false ∧ readyB (.genq 8 (tv 0 0 0 0 1)) s1 [] = true ∧
    readyB (.genqGran 8 (tv 4 0 0 0 4)) sPad [] = true ∧ (sPad.ctx e0).regionOf 0x20C0 1 = some 0 := by decide +kernel

theorem witness_PaddockFaults :
    (let t := tm 4 2 0 0 0 1
     readyB (.ld 8 t) sPad [] = true ∧ (sPad.slotOf e0).beat = none ∧
     mEnabled (sPad.act 0 0) (sPad.ctx e0) t = [0] ∧ okB (mEa (sPad.act 0 0) 0 t) 0x20C1 = true ∧ 0x20C1 % 4 ≠ 0) ∧
    (let t := tm 4 2 0 0 0 0x10000
     okB (mEa (sPad.act 0 0) 0 t) 0x120C0 = true ∧ (sPad.ctx e0).regionOf 0x120C0 4 = none ∧ readyB (.ld 8 t) sPad [] = true) ∧
    (let s := onSet { a0 [reg 4 0x20C0] with locks := [{ space := 0, lo := 0x20C2, hi := 0x20C2, w := true, owner := .post 0, seq := 0 }] }
     readyB (.ld 8 (tm 4 2 0 0 0 0)) s [] = true ∧ okB (mEa (s.act 0 0) 0 (tm 4 2 0 0 0 0)) 0x20C0 = true ∧
     (s.ctx e0).regionOf 0x20C0 4 = some 0 ∧ lockedByte (s.act 0 0) 0 false 0x20C0 4 = some 0x20C2) ∧
    (let s := onSet { a0 [reg 4 0x2100] with ctxs := [(0, { c0 with strict := true })] }
     readyB (.ld 8 (tm 4 2 0 0 0 0)) s [] = true ∧ okB (mEa (s.act 0 0) 0 (tm 4 2 0 0 0 0)) 0x2100 = true ∧ (s.ctx e0).regionOf 0x2100 4 = some 0 ∧
     lockedByte (s.act 0 0) 0 false 0x2100 4 = none ∧ (s.ctx e0).strict = true ∧ staleAt (s.act 0 0).pad 1 0x2100 4 = some 0x2100) := by decide +kernel
theorem witness_PaddockReadAfterWrite : (1 : BitVec 10) ≠ 0 := by decide

/-- What the retagging of an access leaves. -/
def retagged (s : State) : State := [0].foldl (fun s k => retagLine s ag0 (0x100000 + 16 * k)) s
theorem witness_GlobalLoadsStores :
    (let t := tm 4 3 0 0 0 0
     mEnabled (sG.act 0 0) (sG.ctx e0) t = [0] ∧ okB (mEa (sG.act 0 0) 0 t) 0x100000 = true ∧
     readyB (.ldg 8 t) sG [] = true ∧ okB (loadChecks sG ag0 0x100000 8 [0]) () = true ∧ okB (loadPieces (retagged sG) ag0 0x100000 8 [0]) [(0, 7)] = true ∧
     readyB (.ldg 8 { t with ord := 4, scope := 1 }) sG [] = true ∧ (sG.core 0 0).sb = [] ∧
     readyB (.ldnc 8 t) sG [] = true ∧ okB (ldncChecks sG ag0 0x100000 [0]) () = true ∧ okB (ldncPieces sG ag0 0x100000 8 [0]) [(0, 5)] = true ∧
     readyB (.stg 8 t) sG [] = true ∧ okB (dataRegs (sG.act 0 0) 0 8 [0]) [(0, 1)] = true ∧
     okB (storeAddrs sG ag0 false 0x100000 8 [0]) [(0, fa0)] = true ∧ piecesOf 8 [(0, fa0)] [(0, 1)] = [(fa0, [1, 0, 0, 0, 0, 0, 0, 0])] ∧
     sbPlaces [(fa0, [1, 0, 0, 0, 0, 0, 0, 0])] ≤ sbRoom (sG.core 0 0)) ∧
    (let t := tm 4 3 0 0 2 0
     readyB (.red 8 t) sG [] = true ∧ mOn (sG.act 0 0) (sG.ctx e0) t 0 = true ∧ okB (regRead (sG.act 0 0) 0 8) 1 = true ∧
     okB (storeAddrs sG ag0 true 0x100000 8 [0]) [(0, fa0)] = true ∧ faClass fa0 = 3) ∧
    (let t := { tm 4 3 0 0 0 0 with p := 1 }
     mEnabled (sG.act 0 0) (sG.ctx e0) t = [] ∧ [.ldg 8 t, .ldnc 8 t, .stg 8 t, .red 8 { t with aop := 2 }].all (fun i => readyB i sG []) = true) := by
  decide +kernel
/-- A load by 0x110000 of a line that the core holds under 0x100000 retags its copy and completes (R405). -/
theorem test_retag :
    (let s := sGof (a0 [reg 4 0x110000])
     let s := s.setCore 0 0 { s.core 0 0 with plb := [(0, { plb0 with pcnt := 2 })] }
     let s := s.setDie 0 { s.die 0 with tlb := [(16, { psz := 0, fa := fa0 }), (17, { psz := 0, fa := fa0 })] }
     match exec (.ldg 8 (tm 4 3 0 0 0 0)) s with
     | .next u => decide ((tfind (u.act 0 0).lines fa0).map (·.va) = some 0x110000 ∧ regRaw (u.act 0 0) (u.ctx e0) 8 = 7)
     | _ => false) = true := by decide +kernel

/-- The old value of the atomic has come back. -/
def sAtom : State := sG.setPend ag0 { val := [(fa0, 9)] }
theorem witness_Atomics : 0 < 4 ∧ 5 < 2 ^ (8 * 4) ∧
    readyB (.atom 8 (tm 4 3 0 0 2 0)) sAtom [] = true ∧ okB (atomicValue sAtom ag0 0x100000 8 (.atom 2) 1 0) 9 = true ∧
    readyB (.cas 8 (tm 4 3 0 0 0 0)) sAtom [] = true ∧ okB (regRead (sAtom.act 0 0) 0 9) 2 = true ∧
    okB (atomicValue sAtom ag0 0x100000 8 .cas 2 1) 9 = true ∧
    readyB (.atom 8 { tm 4 3 0 0 2 0 with p := 1 }) sAtom [] = true ∧ readyB (.cas 8 { tm 4 3 0 0 0 0 with p := 1 }) sAtom [] = true := by
  decide +kernel

theorem witness_FencesAndLines : readyB (.fence 0 (tv 0 0 0 0 0x0C)) sG [] = true ∧ readyB (.fence 0 (tv 0 0 0 0 0x02)) sG [] = true ∧
    (sG.core 0 0).sb = [] ∧ (sG.pend ag0).ask = .idle ∧
    (let s := sG.setPend ag0 { ask := .fence 3 }
     readyB (.fence 0 (tv 0 0 0 0 0x0E)) s [] = true ∧ (s.pend (agentOf e0)).ask = .fence 3 ∧ (s.core 0 0).sb = []) ∧
    readyB (.pref 0 (tm 4 3 0 0 0 0)) sG [] = true ∧ readyB (.flushl 0 (tm 4 6 0 0 0 0)) sG [] = true ∧
    okB (lineTarget sG ag0 0x100000) (some fa0) = true ∧ homeFree sG fa0 = true ∧ readyB (.invl 0 (tm 4 6 0 0 0 0)) sG [] = true ∧
    readyB (.flushl 0 { tm 4 6 0 0 0 0 with p := 1 }) sG [] = true ∧ readyB (.fabinv 0 (tv 0 0 0 0 3)) sG [] = true ∧
    readyB (.fabinv 0 (tv 0 0 0 0 4)) sG [] = true := by decide +kernel

/-- Counter 1 holds 7 or has overflowed; the context waits for it. -/
def sCnt (c : Counter) (x : Ctx) : State := onSet { a0 [reg 4 1, reg 12 5] with counters := [(1, c)], ctxs := [(0, x)] }
theorem witness_CounterOps :
    readyB (.cwait 0 (ti 0 0x20005)) (sCnt { value := 7 } c0) [] = true ∧
    readyB (.cwait 0 (ti 0 0x20005)) (sCnt { value := 4 } { c0 with satisfied := true, wait := some (.counter 1 5 false) }) [] = true ∧
    readyB (.cwait 0 (ti 0 0x20005)) (sCnt { value := 4, ovf := true } c0) [] = true ∧
    readyB (.cwait 0 (ti 0 0x20005)) (sCnt { value := 4, ovf := true } { c0 with ovfe := true }) [] = true ∧
    readyB (.cwaitr 0 (tv 4 12 0 0 1)) (sCnt { value := 5 } c0) [] = true ∧ readyB (.csig 0 (ti 0 0x2FFFF)) (sCnt { value := 5 } c0) [] = true ∧
    (let s := sCnt { value := 0xFFFF } { c0 with ovfe := true }
     readyB (.csig 0 (ti 0 0x20001)) s [] = true ∧ lastStore (s.core 0 0) 0 (s.ctx e0).inc = 0 ∧
     signalOverflows ((s.act 0 0).counter 1) 1 = true ∧ signalOverflows ((s.act 0 0).counter 1) (-1) = false) ∧
    readyB (.csigRmt 0 (ti 4 0x30001)) s1 [] = true ∧ readyB (.cset 0 (ti 0 0x20007)) s1 [] = true ∧ readyB (.cget 8 (ti 0 0x30000)) s1 [] = true ∧
    okB (regRead (s1.act 0 0) 0 4) 7 = true ∧ fld (7 : W128) 18 12 ≤ 95 ∧ fld (7 : W128) 22 19 ≤ 11 ∧ lastStore (s1.core 0 0) 0 (s1.ctx e0).inc = 0 ∧
    sendsAhead s1 0 0 { cls := 0, src := senderOf s1 e0, pkg := 0, die := 0, core := 0, body := .signal 1 1 7 none } = false ∧
    -- with an own store yet to perform
    (let s := s1.setCore 0 0 { s1.core 0 0 with sb := [{ seq := 3, ix := 0, inc := 1, va := 0, pieces := [(0, [1])], op := .store, dom := 0 }] }
     lastStore (s.core 0 0) 0 (s.ctx e0).inc = 3 ∧ readyB (.csig 0 (ti 0 0x2FFFF)) s [] = true ∧ readyB (.csigRmt 0 (ti 4 0x30001)) s [] = true ∧
     readyB (.cset 0 (ti 0 0x20007)) s [] = true) := by
  decide +kernel

def trg : Trigger := { hip := 0x40, thr := 5 }
theorem witness_TriggersChunksBarriers :
    readyB (.ctrig 8 (tv 4 12 0 0 0)) s1 [] = true ∧ fld (3 : W128) 31 28 = 0 ∧ ((s1.act 0 0).counter 0).trig = none ∧
    (let s := onSet { a0 [] with counters := [(0, { trig := some trg })] }
     readyB (.ctrig 8 (tv 4 12 0 0 0)) s [] = true ∧ ((s.act 0 0).counter 0).trig = some trg ∧ readyB (.ctrigOff 8 (tv 0 12 0 0 1)) s [] = true) ∧
    readyB (.chkw 8 (tv 4 12 0 0 6)) s1 [] = true ∧ readyB (.chkw 8 (tv 5 12 0 0 3)) s1 [] = true ∧
    (let x := { c0 with launch := some 1, lco := 0 }
     let s := onSet { a0 [] with ctxs := [(0, x)] }
     readyB (.bar 0 (tv 0 0 0 0 2)) s [] = true ∧ (s.ctx e0).wait = none ∧ lastStore (s.core 0 0) 0 1 = 0 ∧
     phaseFull (s.setCtx e0 { x with phases := [(2, 1)] }) 1 2 (unitOf 2 0) 1 = true ∧
     readyB (.bar 0 (tv 0 0 0 0 2)) (onSet { a0 [] with ctxs := [(0, { x with wait := some (.bar 2 1), satisfied := true })] }) [] = true) := by
  decide +kernel

/-! ### Commands -/

/-- Some value: the call goes on. -/
def okAny {α : Type} (r : Res α) : Bool := match r with | .ok _ => true | .error _ => false
theorem okAny_sound {α : Type} {r : Res α} (h : okAny r = true) : ∃ v, r = .ok v := by
  unfold okAny at h
  split at h
  · exact ⟨_, rfl⟩
  · cases h
/-- A record: base, four extents, four strides, SOFF, format, FK and space, V set. -/
def rec512 (base e0 e1 e2 e3 s0 s1 s2 s3 soff fmt fk space : Nat) : BitVec 512 :=
  BitVec.ofNat 512 (base + e0 * 2 ^ 64 + e1 * 2 ^ 80 + e2 * 2 ^ 96 + e3 * 2 ^ 112 + s0 * 2 ^ 128 + s1 * 2 ^ 160 + s2 * 2 ^ 192 +
    s3 * 2 ^ 224 + soff * 2 ^ 256 + fmt * 2 ^ 325 + fk * 2 ^ 330 + space * 2 ^ 331 + 2 ^ 511)
def recA : BitVec 512 := rec512 0x4000 4 4 1 1 1 4 0 0 0 5 0 0
def recB : BitVec 512 := rec512 0x5000 4 4 1 1 1 4 0 0 0 5 0 0
def recW : BitVec 512 := rec512 0x6000 64 32 1 1 1 64 0 0 0 5 0 0
def recX : BitVec 512 := rec512 0x8000 64 64 1 1 1 64 0 0 0 9 1 0
def recM : BitVec 512 := rec512 0x6000 32 16 1 1 1 32 0 0 0 5 0 0
def recG : BitVec 512 := rec512 0x100000 64 1 1 1 1 0 0 0 0 5 0 3
/-- A region of 0xC000 bytes at 0x4000, and records 1 to 6. -/
def cmdCtx : Ctx := { c0 with r1 := { base := 0x400, size := 0xC00, gen := 1 } }
def sCmd (l : Sparse Gran) (h : Sparse WHalf) : State :=
  sGof { a0 l with ctxs := [(0, cmdCtx)], halves := h, layouts := [(1, { bits := recA, conf := 9 }), (2, { bits := recB }), (3, { bits := recW }),
    (4, { bits := recX }), (5, { bits := recM }), (6, { bits := recG })] }
def el (b c : BitVec 7) (l : BitVec 6) (f : BitVec 12) : TailE := te b c l f
def valsB (_ : TailE) (b c : Nat) : Vals := { b := BitVec.ofNat 128 b, c := BitVec.ofNat 128 c }
def regsC : List (Nat × Gran) := [reg 4 0x4000, reg 5 0x400000000000100000, reg 6 0x400000000000004000, reg 7 0x8000, reg 12 0x100000, reg 14 (32 + 16 * 2 ^ 14 + 5 * 2 ^ 21),
  reg 15 0x104000, reg 16 0x104004]
def sC : State := sCmd regsC [(0, { valid := true, mf := 5, kw := 32, size := 16384 })]
def copyPlan (len : Nat) : Plan := { op := .copy, src := some (linearWalk 3 0x100000 len), dst := some (linearWalk 0 0x4000 len) }
theorem witness_CommandIssues :
    (let w := whoOf sC e0
     let p := copyPlan 64
     okB (localOk w.x p.src) () && okB (alsoOk w.x p.src p.also) () && okB (localOk w.x p.dst) () && okB (overlapOk p.src p.dst) () &&
     okAny (globalLook sC w.a p.src p.dst p.also) && okB (endOk p.word) () && decide (freePost (sC.act 0 0) = some 0) &&
     decide (((sC.act 0 0).port p.port).shadowCmd = none ∧ (sC.act 0 0).postFrozen = false) &&
     decide ((sC.act 0 0).locks.length + (p.locks (.post 0) (sC.act 0 0).seq).length ≤ 32)) = true := by decide +kernel
theorem witness_get : (let t := el 5 4 0 0
    readyB (.get 0 t) sC [] && okB (readVals (sC.act 0 0) 0 t true true false) (valsB t 0x400000000000100000 0x4000) &&
    okAny (issuePlan (whoOf sC e0) { op := .copy, src := some (linearWalk 3 0x100000 64), dst := some (linearWalk 0 0x4000 64)}
      t (valWords t 0xFC00 (valsB t 0x400000000000100000 0x4000)) sC) && chunkOk none (linearWalk 0 0x4000 64)) = true := by
  decide +kernel
theorem witness_put : (let t := el 6 12 0 0x100
    readyB (.put 0 t) sC [] && okB (readVals (sC.act 0 0) 0 t true true false) (valsB t 0x400000000000004000 0x100000) &&
    okAny (issuePlan (whoOf sC e0) { op := .copy, src := some (linearWalk 0 0x4000 64), dst := some (linearWalk 3 0x100000 64)}
      t (valWords t 0xFC00 (valsB t 0x400000000000004000 0x100000)) sC)) = true := by decide +kernel
theorem witness_tcopy : (let t := el 0 0 1 0x202
    readyB (.tcopy 0 t) sC [] && okB (readVals (sC.act 0 0) 0 t false false false) {} && recV recA && recV recB && decide (recSpace recA ≠ 2) &&
    decide ((recWalk recA 1).e = (recWalk recB 2).e ∧ (recWalk recA 1).count = (recWalk recB 2).count) && chunkOk (recCm recB) (recWalk recB 2) &&
    okAny (issuePlan (whoOf sC e0) (recPlan .copy (some (recWalk recA 1)) recB (recWalk recB 2) none) t (valWords t 0xFC00 {}) sC)) = true := by
  decide +kernel
/-- Index lists of four one-byte indices at 0x8000. -/
theorem witness_gather : ([false, true].all (fun scat =>
    let t := el 7 0 1 (if scat then 0x402 else 0x302)
    let v := valsB t 0x8000 0
    let x := recWalk recA 1
    let y := recWalk recB 2
    readyB (if scat then .tscat 0 t else .tgath 0 t) sC [] && okB (readVals (sC.act 0 0) 0 t true false false) v &&
    decide (x.e = y.e ∧ x.extOf 0 = y.extOf 0 ∧ x.extOf 2 = 1 ∧ y.extOf 3 = 1 ∧ y.extOf 1 ≤ 256) &&
    okB (localOk cmdCtx (some x)) () && okB (localOk cmdCtx (some y)) () &&
    okB (indexList (sC.act 0 0) cmdCtx 0x8000 1 4) [0, 0, 0, 0] &&
    okAny (issuePlan (whoOf sC e0) (recPlan (if scat then .scatter [0, 0, 0, 0] else .gather [0, 0, 0, 0]) (some x) recB y none) t
      (valWords t 0xFC00 v) sC))) = true := by decide +kernel
theorem witness_cfill : (let t := el 7 0 1 0x500
    let v := valsB t 0x8000 0
    readyB (.cfill 0 t) sC [] && okB (readVals (sC.act 0 0) 0 t true false false) v && chunkOk (recCm recA) (recWalk recA 1) &&
    okAny (issuePlan (whoOf sC e0) (recPlan (.fill v.b) none recA (recWalk recA 1) none) t (valWords t 0xFC00 v) sC)) = true := by
  decide +kernel
def sHeld (dom : BitVec 12) : State :=
  sGof { a0 [reg 4 (replayToken 0 0 2 5 0)] with post := [(0, { cxlHeld := some (0, 5), engine := some (0, 2, false), issuer := { dom := dom } })] }
theorem witness_creplay :
    (readyB (.creplay 8 (tv 4 0 0 0 0x30)) (sHeld 0) [] && readyB (.creplay 8 (tv 4 0 0 0 0x31)) (sHeld 0) [] &&
    decide ((heldEntry (sHeld 0) 0 0 (replayToken 0 0 2 5 0)).map (fun p => (p.1, p.2.issuer.dom)) = some (0, 0)) &&
    readyB (.creplay 8 (tv 4 0 0 0 0x30)) (sHeld 3) [] &&
    decide ((heldEntry (sHeld 3) 0 0 (replayToken 0 0 2 5 0)).map (fun p => (p.1, p.2.issuer.dom)) = some (0, 3)) &&
    readyB (.creplay 8 (tv 4 0 0 0 0x30)) sC [] && (heldEntry sC 0 0 0x4000).isNone) = true := by decide +kernel
/-- The first 64 bytes of a record in registers 20 to 23, and in the region at 0x4000. -/
def sLay : State := sCmd ([reg 4 0x4000, reg 9 5, reg 10 0] ++ (List.range 4).map (fun k => reg (20 + k) (fld recA (128 * k + 127) (128 * k))) ++
  (List.range 4).map (fun k => (1024 + k, { tag := 1, data := BitVec.ofNat 128 (fld recA (128 * k + 127) (128 * k)) }))) []
theorem witness_layouts :
    (readyB (.layset 0 (el 20 0 1 0)) sLay [] && okB (regsRead (sLay.act 0 0) 0 20 4) recA.toNat && recordOk recA &&
    readyB (.layset 0 (el 4 0 1 1)) sLay [] && okB (padRd (sLay.act 0 0) cmdCtx 0x4000 0x4000 64) recA.toNat &&
    readyB (.layget 20 (el 0 0 1 0x100)) sLay [] && readyB (.layget 8 (el 0 0 1 0x101)) sLay [] && readyB (.layget 8 (el 0 0 1 0x103)) sLay [] &&
    -- the key of a paddock record, of no record, key 0, of a global record without and with its key
    readyB (.laykey 8 (el 9 0 1 0x200)) sLay [] && readyB (.laykey 8 (el 9 0 9 0x200)) sLay [] && readyB (.laykey 8 (el 10 0 1 0x200)) sLay [] &&
    readyB (.laykey 8 (el 9 0 6 0x200)) sLay [] && recV recG && decide ((recWalk recG 6).space = 3 ∧ (recWalk recA 1).space ≠ 3) &&
    !recV ((sLay.act 0 0).layout 9).bits &&
    (let w := recWalk recG 6
     let s := sLay.setDie 0 { sLay.die 0 with keys := [(5, (0, 1))] }
     decide ((sLay.die 0).keyFor 5 0 = none) && ((s.die 0).keyFor 5 0).isSome && okB (keyPages s ag0 (pagesOf w.lo w.len)) true) &&
    readyB (.rlq 8 (tv 4 10 0 0 0)) sLay []) = true := by decide +kernel

/-! ### Matrix arrays -/

/-- Half 0 holds an image of 32 rows of format 5; register 14 holds the control word of an MMA of 32 by 16. -/
theorem witness_MatrixUnit :
    (let t := tm 5 3 0 0 0 0
     let s := sCmd [reg 5 0x4000, reg 8 1] []
     decide (mEnabled (s.act 0 0) (s.ctx e0) t = [0]) && okB (mEa (s.act 0 0) 0 t) 0x4000 && readyB (.lda 8 t) s [] && readyB (.sta 8 t) s [] &&
     decide (ldaLocked (s.act 0 0) false 0x4000 8 = none ∧ lockedByte (s.act 0 0) 1 true 0x4000 8 = none ∧ wordBad (s.act 0 0).accBad 0x4000 8 = none) && okB (dataRegs (s.act 0 0) 0 8 [0]) [(0, 1)] &&
     readyB (.lda 8 { t with sx := true }) s [] && decide (mEnabled (s.act 0 0) (s.ctx e0) { t with p := 1 } = []) &&
     readyB (.lda 8 { t with p := 1 }) s [] && readyB (.sta 8 { t with p := 1 }) s []) = true := by decide +kernel
/-- The control word of an MMA, alone and as the member of a gang of two. -/
def ctlOf (gs : Nat) : W128 := BitVec.ofNat 128 (32 + 16 * 2 ^ 14 + 5 * 2 ^ 21 + gs * 2 ^ 26)
def sMma (ctl : W128) : State := sCmd [reg 14 ctl.toNat] [(0, { valid := true, mf := 5, kw := 32, size := 16384 })]
/-- The locks of an MMA on tile 0 and what its issue leaves. -/
def mmaLocksOf (s : State) (ctl : W128) : List Lock := mmaLocks (s.act 0 0).seq 0 0 16384 false (some (recWalk recM 5)) (aScales (recWalk recM 5) ctl)
def mmaPlaced (s : State) (ctl : W128) : State := s.setAct 0 0 (placeMatrix (s.act 0 0)
  { op := .mma 0 0 false ctl 5 32 (some (recWalk recM 5)), issuer := issuerOf s e0, wk := 0, wt := 0, sk := 0, si := 0, seq := (s.act 0 0).seq, after := 0 }
  (mmaLocksOf s ctl) (portWords (tailBits (el 14 0 5 0)) 0xFD00 ctl.toNat 0 0))
theorem witness_mma : ([ctlOf 0, ctlOf 1].all (fun ctl =>
    let s := sMma ctl
    let a := s.act 0 0
    let y := recWalk recM 5
    readyB (.mma 0 (el 14 0 5 0)) s [] && okB (readVals a 0 (el 14 0 5 0) true false false) (valsB (el 14 0 5 0) ctl.toNat 0) &&
    decide ((s.ctx e0).gangFault = none ∧ (s.ctx e0).gangDone = false ∧ (s.ctx e0).wait ≠ some .gang) && decide ((gangUnit (ctlGs ctl) 0).1 = 0) &&
    mmaOk ctl 0 (a.half 0) && aRecOk recM y ctl && okB (localOk (s.ctx e0) (some y)) () && okB (alsoOk (s.ctx e0) (some y) (aScales y ctl)) () &&
    decide (y.space = 0 ∧ (a.port 1).shadowCmd = none ∧ a.locks.length + (mmaLocksOf s ctl).length ≤ 32) &&
    readyB (.mma 0 (el 14 0 5 0)) (s.setCtx e0 { s.ctx e0 with gangDone := true }) []) &&
   decide (ctlGs (ctlOf 0) = 0 ∧ ctlGs (ctlOf 1) = 1) &&
   -- the first core of a pair waits, the second forms the gang
   (let s := sMma (ctlOf 1)
    match arriveGang (mmaPlaced s (ctlOf 1)) 0 0 (ctlOf 1) false 5 (s.act 0 0).seq with
    | some (_, formed) => !formed
    | none => false) &&
   (let s := sMma (ctlOf 1)
    match arriveGang (mmaPlaced (s.setAct 0 1 (s.act 0 0)) (ctlOf 1)) 0 0 (ctlOf 1) false 5 (s.act 0 0).seq with
    | some (u, _) => (match arriveGang (u.setAct 0 1 (u.act 0 0)) 0 1 (ctlOf 1) false 5 (s.act 0 0).seq with | some (_, formed) => formed | none => false)
    | none => false)) = true := by decide +kernel
theorem witness_matrixOthers :
    (readyB (.mmz 3 (tv 0 0 0 0 8)) sC [] && readyB (.mmz 0 (tv 18 0 0 0 9)) sC [] && okB (regRead (sC.act 0 0) 0 18) 0 &&
    decide ((1#128 <<< 3 : W128) = 8 ∧ fld (8 : W128) 127 16 = 0) &&
    decide ((sC.act 0 0).locks.length + (tileRuns 8).length ≤ 32 ∧ ((sC.act 0 0).port 1).shadowCmd = none) &&
    readyB (.wbsel 0 (tv 0 0 0 0 0x18)) sC [] && readyB (.wbsel 0 (tv 0 0 0 0 0x1A)) sC [] && readyB (.wbsel 0 (tv 0 0 0 0 0x1B)) sC []) = true := by decide +kernel
theorem witness_wbld :
    (let t := el 0 0 3 0x200
     let x := recWalk recW 3
     let p := imagePlanes x.fmt (x.extOf 1)
     readyB (.wbld 0 t) sC [] && wbldOk recW x && decide (p.2.1 + p.2.2 = 0) &&
     okAny (issuePlan (whoOf sC e0) { op := .wbld 0, src := some x, dst := some (linearWalk 2 0 (p.1 + p.2.1 + p.2.2)), port := 2, also := none } t
       (portWords (tailBits t) 0xFD00 0 0 0) sC)) = true := by decide +kernel
theorem witness_accvt :
    (let t := el 18 0 4 0x400
     let x := recWalk recX 4
     readyB (.accvt 0 t) sC [] && okB (readVals (sC.act 0 0) 0 t true false false) {} && accvtRecOk recX x 0 && chunkOk (recCm recX) x &&
     okB (localOk cmdCtx (some x)) () &&
     okAny (issuePlan (whoOf sC e0) { recPlan (.accvt 0 false 0 0 (whoOf sC e0).satm (BitVec.ofNat 2048 0)) none recX x none with
       more := [(1, 0, 0x4000, false)] } t (portWords (tailBits t) 0xFD00 0 0 0) sC)) = true := by decide +kernel

/-! ### Streams -/

/-- Stream 0 with the context bound to it; registers: 4 the handle 0, 5 no handle, 6 a handle of no stream, 12 a SFORK word without a queue,
13 one with a misaligned queue, 14 the number 1, 20 to 23 a record. -/
def regsS : List (Nat × Gran) := [reg 4 0, reg 5 0xFFFFFFFF, reg 6 9, reg 12 0xFFFFFFFF, reg 13 (0x20 * 2 ^ 64 + 0xFFFFFFFF), reg 14 1,
  reg 15 0x500000002, reg 16 0x300000]
/-- Three pools of 64 frames and 64 nodes. -/
def pools : Sparse W64 := (List.range 3).flatMap (fun t => [(0x20 * t, 0), (0x20 * t + 8, 64), (0x20 * t + 0x10, 0x400000), (0x20 * t + 0x18, 64)])
def sS (x : Stream) : State :=
  let s := withPage (sStr x regsS)
  s.setDie 0 { s.die 0 with spw := pools, frames := [(5, { refs := 1 })] }
def sAway (dom : BitVec 12) (st : StSt) : State := sS { str0 with dom := dom, st := st }
def servesB (s : State) (h : BitVec 32) : Bool :=
  decide (lastStore (s.core 0 0) 0 (s.ctx e0).inc = 0) && !s.streamAway ((s.pend ag0).fwd.getD h) &&
  decide (s.streamOf ((s.pend ag0).fwd.getD h) = some (0, 0) ∧ streamError s 0 0 false = none) && decide ((s.stream 0 0).dom = (s.ctx e0).dom ∧ (s.stream 0 0).st ≠ .migrating) &&
  !(s.stream 0 0).posting
def posted (s : State) (st : Nat) : State := s.setPend ag0 { ask := .post, status := some st }
theorem witness_StreamLife :
    (let s := sS str0
     -- no such stream, one whose descriptor is in error, another domain's, a migrating one
     readyB (.sprune 8 (tv 4 0 0 0 16)) (sS { str0 with bad := true }) [] && (streamError (sS { str0 with bad := true }) 0 0 false).isSome &&
     decide ((sS { str0 with bad := true }).streamOf 0 = some (0, 0)) &&
     readyB (.sprune 8 (tv 6 0 0 0 16)) s [] && readyB (.shor 8 (tv 6 0 0 0 80)) s [] && decide (s.streamOf 9 = none ∧ s.streamAway 9 = false) &&
     readyB (.sprune 8 (tv 4 0 0 0 16)) (sAway 3 .idle) [] && decide ((sAway 3 .idle).streamOf 0 = some (0, 0) ∧ ((sAway 3 .idle).stream 0 0).dom ≠ 0) &&
     readyB (.sprune 8 (tv 4 0 0 0 16)) (sAway 0 .migrating) [] && decide (((sAway 0 .migrating).stream 0 0).st = .migrating) &&
     -- forks
     readyB (.sfork 8 (tv 5 12 0 0 0)) s [] && readyB (.sfork 8 (tv 4 12 0 0 0)) s [] && readyB (.sfork 8 (tv 5 13 0 0 0)) s [] &&
     okB (queueFa s e0 0 0 0) (some 0) && okB (queueFa s e0 0 0x20 0) none && servesB s 0 &&
     decide ((0xFFFFFFFF : BitVec 32) = noHandle ∧ (0 : BitVec 32) ≠ noHandle ∧ (s.stream 0 0).wpins = 0) &&
     (let x := forkChild s 0 0
      match entryUp s 0 x.croot with | .ok u => (match entryUp u 0 x.pen with | .ok _ => true | .error _ => false) | .error _ => false) &&
     (let s := (sS { str0 with croot := entryOf 5 }).setDie 0 { (sS str0).die 0 with streams := [(0, { str0 with croot := entryOf 5 })], frames := [(5, { refs := 2 ^ 32 - 1 })] }
      servesB s 0 && readyB (.sfork 8 (tv 4 12 0 0 0)) s [] &&
      match entryUp s 0 (forkChild s 0 0).croot with | .ok _ => false | .error _ => true) &&
     -- posts, the cursor
     readyB (.sprune 8 (tv 4 0 0 0 16)) s [] && readyB (.sret 8 (tv 4 12 0 0 8)) (posted s 0) [] && readyB (.sret 8 (tv 4 12 0 0 9)) (posted s 3) [] &&
     readyB (.sret 8 (tv 4 12 0 0 8)) s [] && readyB (.sret 8 (tv 6 12 0 0 8)) (posted s 0) [] && readyB (.sadv 8 (tv 6 12 0 0 24)) (posted s 3) [] &&
     decide ((posted s 0).streamOf 9 = none ∧ (s.stream 0 0).jg = noHandle) &&
     readyB (.sadv 8 (tv 4 12 0 0 24)) (posted s 0) [] && decide ((posted s 0).streamOf (((posted s 0).pend ag0).fwd.getD 0) = some (0, 0)) &&
     ([{ str0 with layers := 0 }, { str0 with layers := 4 }, { str0 with layers := 1, hor := 2 }, { str0 with layers := 1, hor := 1 }].all
       (fun x => servesB (sS x) 0 && readyB (.sadv 8 (tv 4 12 0 0 24)) (sS x) [])) &&
     -- queues of no, two and four records
     ([str0, { str0 with aqb := BitVec.ofNat 64 fa0, aqn := 1 }, { str0 with aqb := BitVec.ofNat 64 fa0, aqn := 1, aqt := 1 },
       { str0 with aqb := BitVec.ofNat 64 fa0, aqn := 1, aqt := 2 }].all (fun x => servesB (sS x) 0 && readyB (.sactPush 8 (tv 4 20 0 0 32)) (sS x) [] &&
         okB (regsRead ((sS x).act 0 0) 0 20 4) 0 && readyB (.sactPop 8 (tv 4 20 0 0 33)) (sS x) [] && readyB (.sactPeek 8 (tv 4 20 0 0 34)) (sS x) []))) = true := by
  decide +kernel

theorem witness_StreamSettings :
    (let s := sS str0
     let sp := { str0 with spec := true, oroot := entryOf 6, croot := entryOf 5, pen := entryOf 5, penc := entryOf 5 }
     let on := fun (x : Stream) => let u := sS x; u.setDie 0 { u.die 0 with frames := [(5, { refs := 2 }), (6, { refs := 1 })] }
     let lenW := 64
     -- SPGR, SPGW, SMIG of no stream, SMIG to its own die, PSORT
     ([(6, 0x500, 1), (6, 0x600, 1)].all (fun (b, f, st) =>
       let t := el b 17 0 f
       let v := valsB t 9 0
       okB (readVals (s.act 0 0) 0 t true true false) v && okB ((issueSpg (f = 0x600) t (whoOf s e0) v s).map Prod.snd) st)) &&
     readyB (.spgr 8 (el 6 17 0 0x500)) s [] && readyB (.spgw 8 (el 6 17 0 0x600)) s [] &&
     (let t := el 4 18 0 0xB00
      let s := s.setAct 0 0 (regWrite (s.act 0 0) 0 18 (0x100000 * 2 ^ 64) allBytes)
      readyB (.smig 8 t) s [] && okB ((issueSmig t (whoOf s e0) { b := 0, c := 0x100000 * 2 ^ 64 } s).map Prod.snd) 6 &&
      okB (readVals (s.act 0 0) 0 t true true false) { b := 0, c := 0x100000 * 2 ^ 64 }) &&
     (let b := 0x4000 + 4 * 2 ^ 20
      let c := 0x5000 + 2 * 2 ^ 20
      let t := el 4 5 0 0x300
      let s := sCmd [reg 4 b, reg 5 c] []
      readyB (.psort 0 t) s [] && okB (readVals (s.act 0 0) 0 t true true false) (valsB t b c) && psortLegal (BitVec.ofNat 128 b) (BitVec.ofNat 128 c) &&
      okAny (issuePlan (whoOf s e0) { op := .psort 0x4000 4 2 0x5000 0, src := some (linearWalk 0 0x4000 16), dst := some (linearWalk 0 0x5000 24) } t
        (valWords t 0xFE80 (valsB t b c)) s)) &&
     -- SCOMMIT
     servesB (on sp) 0 && servesB s 0 && decide (((on sp).stream 0 0).wpins = 0 ∧ ((on sp).stream 0 0).spec = true) &&
     (streamError s 0 0 true).isNone && (streamError (on sp) 0 0 true).isNone &&
     (let lost := { on sp with memBad := [0x50000] }
      servesB lost 0 && readyB (.scommitBegin 8 (tv 4 0 0 0 58)) lost [] && readyB (.scommitCommit 8 (tv 4 0 0 0 56)) lost [] &&
      readyB (.scommitDiscard 8 (tv 4 0 0 0 57)) lost [] && (streamError lost 0 0 true).isSome) &&
     ([on sp, s].all (fun s => readyB (.scommitBegin 8 (tv 4 0 0 0 58)) s [] && readyB (.scommitCommit 8 (tv 4 0 0 0 56)) s [] &&
       readyB (.scommitDiscard 8 (tv 4 0 0 0 57)) s [])) &&
     (match entryUp s 0 str0.pen with | .ok u => (match allocFrame u 0 true with | .ok _ => true | .error _ => false) | .error _ => false) &&
     (match installAll 0 (nodeEntries (on sp) 0 sp.oroot) (on sp) sp.croot with | .ok _ => true | .error _ => false) && decide (lenW = 64)) = true := by
  decide +kernel
theorem witness_StreamFields :
    (let s := sS str0
     let sp := sS { str0 with spec := true, st := .ready }
     readyB (.ssetBind 8 (tv 5 0 0 0 72)) s [] && readyB (.ssetBind 8 (tv 4 0 0 0 72)) s [] &&
     ([s, sp].all (fun s => servesB s 0 && okB (regRead (s.act 0 0) 0 14) 1 && okB (regRead (s.act 0 0) 0 15) 0x500000002 && okB (regRead (s.act 0 0) 0 16) 0x300000 &&
       okB (regRead (s.act 0 0) 0 18) 0 &&
       readyB (.ssetPrio 8 (tv 4 14 0 0 73)) s [] && readyB (.ssetModel 8 (tv 4 14 0 0 74)) s [] && readyB (.ssetModel 8 (tv 4 15 0 0 74)) s [] &&
       readyB (.ssetJoin 8 (tv 4 14 0 0 75)) s [] && readyB (.ssetRun 8 (tv 4 14 0 0 76)) s [] && readyB (.ssetRun 8 (tv 4 18 0 0 76)) s [] &&
       readyB (.ssetRng 8 (tv 4 12 0 0 77)) s [] && readyB (.ssetQueue 8 (tv 4 18 0 0 78)) s [] && readyB (.ssetPen 8 (tv 4 18 0 0 79)) s [] &&
       readyB (.ssetPen 8 (tv 4 14 0 0 79)) s [] && readyB (.shor 8 (tv 4 0 0 0 80)) s [] && readyB (.shor 8 (tv 4 14 0 0 81)) s [] &&
       readyB (.sstat 8 { tv 4 0 0 0 64 with c := 8 }) s [] && readyB (.sstat 8 (tv 4 3 0 0 64)) s [] && readyB (.sstat 8 (tv 6 0 0 0 64)) s [])) &&
     (let u := s.setDie 0 { s.die 0 with dq := [((s.stream 0 0).entry, [(0, 7)])] }
      servesB u 0 && readyB (.ssetPrio 8 (tv 4 14 0 0 73)) u [] && decide ((tget [] (u.die 0).dq (u.stream 0 0).entry).find? (fun y => decide (y.1 = 0)) = some (0, 7))) &&
     -- SSTAT: a descriptor in error, the counts of a die that is not there
     (let u := sS { str0 with bad := true }
      readyB (.sstat 8 (tv 4 3 0 0 64)) u [] && decide (u.streamOf 0 = some (0, 0)) && (streamError u 0 0 false).isSome) &&
     readyB (.sstat 8 { tv 5 0 0 0 64 with c := 8 }) s [] && decide (¬(hDie noHandle < 12) ∧ s.streamAway noHandle = false) &&
     decide ((tget [] (s.die 0).dq (s.stream 0 0).entry) = [] ∧ s.streamOf 9 = none) && okB (queueFa s e0 0 0 0) (some 0) && okB (queueFa s e0 0 0x20 0) none &&
     (match allocFrame s 0 false with | .ok _ => true | .error _ => false) && readyB (.sstat 8 (tv 4 3 0 0 64)) (sAway 3 .idle) []) = true := by decide +kernel

/-! ### Token trees -/

/-- Tree 0: a root, two nodes below it, one below node 1; register 4 names node 1, 12 node 3 and depth 2, 13 a place in the region. -/
def tree0 : Tree := { cnt := 4, base := 7, nodes := [(0, (0, 0, 50)), (1, (0, 1, 51)), (2, (0, 1, 52)), (3, (1, 2, 53))] }
def sTree : State :=
  sGof { a0 [reg 4 1, reg 5 (3 + 2 * 256), reg 6 9, reg 7 (1 + 3 * 256), reg 12 3, reg 13 0x4000] with ctxs := [(0, cmdCtx)], trees := [(0, tree0), (1, { cnt := 256, base := 7, nodes := [] })] }
theorem witness_TokenTrees :
    (!treeHeld (sTree.act 0 0) 0 && readyB (.ttreset 8 (tv 4 0 0 0 0)) sTree [] && readyB (.ttadd 8 (tv 4 0 0 0 8)) sTree [] &&
     readyB (.ttadd 8 (tv 6 0 0 0 8)) sTree [] && readyB (.ttadd 8 (tv 4 0 0 0 9)) sTree [] &&
     ([4, 5, 6, 7].all (fun b => readyB (.ttprune 8 (tv b 13 0 0 0x30)) sTree [])) &&
     decide (((sTree.act 0 0).tree 0).cnt = 4 ∧ ((sTree.act 0 0).tree 1).cnt = 256 ∧ ((sTree.act 0 0).tree 0).depth 3 = 2 ∧ ((sTree.act 0 0).tree 0).bv = false) &&
     okAny (padWr (sTree.act 0 0) cmdCtx 0x4000 0x4000 3 (elems 8 (((sTree.act 0 0).tree 0).path 3) 3)) &&
     [.ttmask 8 (tv 4 0 0 0 0x10), .ttpos 8 (tv 4 0 0 1 0x18), .ttposHdr 8 (tv 0 0 0 0 0x1C), .ttanc 8 (tv 4 12 0 0 0x20), .ttanc 1 (tv 4 12 0 0 0x24),
       .ttpath 8 (tv 4 0 0 1 0x28), .ttpath 8 (tv 4 0 0 1 0x2C)].all (fun i => i.wf && readyB i sTree [])) = true := by decide +kernel
/-- TTRESET of a bound tree, and to the handle in bits 95:64 of register 5: of no stream, of another domain's, another die's and a migrating one, and of the stream bound. -/
def sBindTree (h : Nat) (x : Stream) (tr : Tree) : State :=
  let s := sStr x [reg 4 (h * 2 ^ 64)]
  let s := s.setDie 1 { s.die 1 with streams := [(0, x)] }
  s.setAct 0 0 { s.act 0 0 with trees := [(0, tr)] }
theorem witness_TreeBinding :
    (let bound : Tree := { tree0 with bv := true, strm := 0 }
     (let s := sBindTree 0 str0 bound
      readyB (.ttreset 8 (tv 4 0 0 0 0)) s [] && !treeHeld (s.act 0 0) 0 && ((s.act 0 0).tree 0).bv &&
      (match ttBind s e0 0 none with | .ok _ => true | .error _ => false)) &&
     ([(9, str0), (0, { str0 with dom := 3 }), (0x2000, str0), (0, { str0 with st := .migrating }), (0, str0)].all (fun (h, x) =>
       let s := sBindTree h x tree0
       readyB (.ttreset 8 (tv 4 0 0 0 4)) s [] && !s.streamAway (BitVec.ofNat 32 h) && decide (lastStore (s.core 0 0) 0 (s.ctx e0).inc = 0))) &&
     decide ((sBindTree 9 str0 tree0).streamOf 9 = none ∧ (sBindTree 0 str0 tree0).streamOf 0 = some (0, 0) ∧
       (sBindTree 0x2000 str0 tree0).streamOf 0x2000 = some (1, 0)) &&
     (match ttBind (sBindTree 0 str0 tree0) e0 0 (some 0) with | .ok _ => true | .error _ => false) &&
     ((sTree.act 0 0).tree 0).cnt ≤ 9) = true := by decide +kernel

/-! ### Join groups -/

/-- Group 0 of the die is open with room for five posts; register 4 names it, 5 no group, 6 a die that is not there, 12 to 17 the words of JOPEN. -/
def grp0 : Group := { st := .open, op := 0, count := 5 }
def sJoin (gs : Sparse Group) : State :=
  let s := withPage (onSet (a0 [reg 4 0, reg 5 9, reg 6 0x18000, reg 8 (5 * 2 ^ 32), reg 9 (5 * 2 ^ 32 + 2 ^ 56), reg 10 (5 * 2 ^ 32 + 2 ^ 56 + 9 * 2 ^ 64), reg 12 0x100000,
    reg 13 0x20, reg 14 (5 * 2 ^ 32 + 4 * 2 ^ 60), reg 20 (0x4000 + 4 * 2 ^ 20), reg 21 3, reg 22 9]))
  s.setDie 0 { s.die 0 with groups := gs }
theorem witness_JoinGroups :
    (let s := sJoin [(0, grp0)]
     let full := sJoin ((List.range 1024).map (fun i => (i, grp0)))
     -- a root group, a child, a child of no group; a destination that is misaligned
     [8, 9, 10, 14].all (fun b => jopenLegal (BitVec.ofNat 128 (regRaw (s.act 0 0) (s.ctx e0) b).toNat) 0x100000 && readyB (.jopen 8 (tv b 12 0 0 0)) s []) &&
     okB (recordLines s e0 0x100000 32) (some [fa0]) && okB (recordLines s e0 0x20 32) none && readyB (.jopen 8 (tv 8 13 0 0 0)) s [] &&
     decide (parentOk s 0 0 0 0 = true ∧ parentOk s 9 0 0 0 = false ∧ s.streamAway 0 = false ∧ s.streamAway 9 = false) &&
     decide ((s.group 0 0).st ≠ .free ∧ (s.group 0 1).st = .free) &&
     readyB (.jopen 8 (tv 8 12 0 0 0)) full [] &&
     readyB (.jput 8 (tv 4 12 0 0 8)) (posted s 0) [] && readyB (.jput 8 (tv 4 12 0 0 8)) (posted s 3) [] && readyB (.jput 8 (tv 6 12 0 0 8)) s [] &&
     decide (11 < hDie 0x18000 ∨ s.unreachable (hPkg 0x18000) = true) && decide ((s.pend ag0).ask ≠ .post) &&
     readyB (.jget 8 (tv 4 0 0 0 0x10)) s [] && readyB (.jget 8 (tv 5 0 0 0 0x10)) s [] && readyB (.jgetClose 8 (tv 4 0 0 0 0x11)) s [] &&
     readyB (.jgetClose 8 (tv 5 0 0 0 0x11)) s [] && decide (s.groupOf 0 = some (0, 0) ∧ s.groupOf 9 = none) &&
     decide (hDie 0 = 0 ∧ hPkg 0 = s.pkg.toNat) && readyB (.jget 8 (tv 4 0 0 0 0x10)) (posted s 0) [] && readyB (.jgetClose 8 (tv 4 0 0 0 0x11)) (posted s 0) [] &&
     (let u := sJoin [(0, { grp0 with bad := true })]
      readyB (.jget 8 (tv 4 0 0 0 0x10)) u [] && (u.group 0 0).bad)) = true := by decide +kernel
theorem witness_groupsFull : ∀ j, j < 1024 → ((sJoin ((List.range 1024).map (fun i => (i, grp0)))).group 0 j).st ≠ .free := by
  intro j hj
  have h : ((sJoin ((List.range 1024).map (fun i => (i, grp0)))).group 0 j) = tget {} ((List.range 1024).map (fun i => (i, grp0))) j := by
    generalize (List.range 1024).map (fun i => (i, grp0)) = gs
    rfl
  have h2 : ∀ l : List Nat, j ∈ l → tfind (l.map (fun i => (i, grp0))) j = some grp0 := by
    intro l
    induction l with
    | nil => intro h; cases h
    | cons k t ih =>
      intro h
      simp only [List.map_cons, tfind]
      by_cases hk : j = k
      · simp [hk]
      · rw [if_neg hk]
        exact ih ((List.mem_cons.mp h).resolve_left hk)
  rw [h, tget, h2 _ (List.mem_range.mpr hj)]
  decide
theorem witness_Sampling :
    (let s := sCmd [reg 4 (0x4000 + 4 * 2 ^ 20), reg 5 3, reg 6 9, reg 12 0] []
     readyB (.sdesc 8 (tv 4 12 0 0 0x20)) s [] && okB (padRd (s.act 0 0) cmdCtx 0x4000 0x4000 16) 0 && readyB (.perfr 8 (tv 5 0 0 0 8)) s [] &&
     readyB (.perfr 8 (tv 5 0 0 0 9)) s [] && readyB (.perfr 8 (tv 6 0 0 0 8)) s []) = true := by decide +kernel

/-! ## Results: expected values worked out by hand from the rules -/

/-- Registers 4, 12 and 8 hold x, y and z. -/
def sR (x y z : Nat) : State := s0 [reg 4 x, reg 12 y, reg 8 z]
def res (i : Instr) (x y : Nat) : Option Nat := regAfter i (sR x y 0) 8
/-- A form V instruction over one register: type and F. -/
def v1 (ty : BitVec 5) (f : BitVec 7) : TailV := tv 4 12 ty 1 f
/-- R166: wraps, clamps, high halves, R44's corners, shift amounts taken mod w; the other elements are 0 op 0. -/
theorem test_integer_binary :
    res (.addV 8 (v1 4 0)) 0xFFFFFFFF 2 = some 1 ∧ res (.addV 8 (v1 4 1)) 0x7FFFFFFF 1 = some 0x7FFFFFFF ∧ res (.addV 8 (v1 1 1)) 200 100 = some 255 ∧
    res (.subV 8 (v1 4 0)) 1 2 = some 0xFFFFFFFF ∧ res (.subV 8 (v1 1 1)) 3 5 = some 0 ∧ res (.mulV 8 (v1 2 0)) 0x100 0x101 = some 0x100 ∧
    res (.mulhV 8 (v1 0 0)) 0x80 0x80 = some 0x40 ∧ res (.mulhV 8 (v1 5 0)) 0xFFFFFFFF 2 = some 1 ∧
    res (.divV 8 (tv 4 12 4 0 0)) 0xFFFFFFF9 2 = some 0xFFFFFFFD ∧ res (.divV 8 (tv 4 12 5 0 0)) 7 0 = some 0xFFFFFFFF ∧
    res (.remV 8 (v1 4 0)) 0xFFFFFFF9 2 = some 0xFFFFFFFF ∧ res (.remV 8 (v1 5 0)) 7 0 = some 7 ∧
    res (.shlV 8 (v1 4 0)) 1 33 = some 2 ∧ res (.shlV 8 (tv 4 5 4 1 1)) 3 0 = some 0x60 ∧ res (.shrV 8 (v1 4 0)) 0x80000000 31 = some 1 ∧
    res (.sraV 8 (v1 4 0)) 0x80000000 31 = some 0xFFFFFFFF ∧ res (.rotV 8 (v1 4 0)) 0x80000001 1 = some 3 := by decide +kernel
theorem test_integer_logic :
    res (.andV 8 (v1 4 0)) 0xC 0xA = some 8 ∧ res (.orV 8 (v1 4 0)) 0xC 0xA = some 0xE ∧ res (.xorV 8 (v1 4 0)) 0xC 0xA = some 6 ∧
    res (.andnV 8 (v1 4 0)) 0xC 0xA = some 4 ∧ res (.minV 8 (v1 4 0)) 0xFFFFFFFF 2 = some 0xFFFFFFFF ∧ res (.minV 8 (v1 5 0)) 0xFFFFFFFF 2 = some 2 ∧
    res (.maxV 8 (v1 4 0)) 0xFFFFFFFF 2 = some 2 ∧ res (.abs 8 (tv 4 0 4 1 0)) 0x80000000 0 = some 0x80000000 ∧ res (.abs 8 (tv 4 0 4 1 1)) 0x80000000 0 = some 0x7FFFFFFF ∧
    res (.neg 8 (tv 4 0 4 1 0)) 5 0 = some 0xFFFFFFFB ∧ res (.neg 8 (tv 4 0 5 1 1)) 5 0 = some 0 ∧ res (.clz 8 (tv 4 0 4 0 0)) 1 0 = some 31 ∧
    res (.clz 8 (tv 4 0 4 0 1)) 8 0 = some 3 ∧ res (.popc 8 (tv 4 0 4 1 0)) 0xFF 0 = some 8 ∧
    regAfter (.madd 8 (v1 4 0)) (sR 3 5 7) 8 = some 22 := by decide +kernel
/-- R171 to R176: -1 sign-extended, MOVI zero-extended, an index scaled, a signed field and its place, four products, an element and a zero. -/
theorem test_immediates_fields :
    res (.addi 8 (ti 4 0x1FFFFFF)) 1 0 = some 0 ∧ res (.movi 8 0xFFFFFFFF) 0 0 = some 0xFFFFFFFF ∧ res (.movq 8 0x8000000000000000) 0 0 = some 0x8000000000000000 ∧
    res (.lea 8 (tv 4 12 4 0 3)) 0x1000 0xFFFFFFFE = some 0xFF0 ∧ res (.bext 8 (tv 4 12 4 1 0)) 0xF0 0x404 = some 0xFFFFFFFF ∧ res (.bext 8 (tv 4 12 5 1 0)) 0xF0 0x404 = some 0xF ∧
    regAfter (.bins 8 (tv 4 12 4 1 0)) (sR 5 0x404 0xFFFF) 8 = some 0xFF5F ∧ regAfter (.doti 8 (tv 4 12 0 1 0)) (sR 0x01020304 0x010101FF 10) 8 = some 12 ∧
    res (.shuf 8 (tv 4 12 4 1 0)) (11 + 22 * 2 ^ 32) (1 + 0x80000000 * 2 ^ 32) = some (22 + 11 * 2 ^ 64 + 11 * 2 ^ 96) := by decide +kernel
/-- The worked line of chapter 07. -/
theorem test_narrow_compare_select :
    res (.satn 8 (tv 4 0 4 1 4)) 0xFFFDDD20000222E0FFFFFFFD000003E8 0 = some 0x80007FFFFFFF00FA ∧
    res (.addV 8 (tv 4 4 2 1 1)) 0x80007FFFFFFF00FA 0 = some 0x80007FFFFFFE01F4 ∧
    predAfter (.cmp 3 (tv 4 12 2 1 5)) (sR 0x80007FFFFFFE01F4 0x80007FFFFFFF00FA 0) 3 = some 3 ∧
    regAfter (.sel 8 (tv 4 12 2 1 3)) (s0 [reg 4 0x80007FFFFFFE01F4, reg 12 0x80007FFFFFFF00FA, prd 1 0 3]) 8 = some 0x80007FFFFFFF01F4 := by decide +kernel
/-- F32: 1.5 + 2.25, 1.5 - 2.25, 1.5 * 2, 1 / 0 and 1 / 2, the square root of 4, 2.5 to the nearest even, 10 as a sum, a comparison. -/
theorem test_floats :
    res (.fadd 8 (v1 9 0)) 0x3FC00000 0x40100000 = some 0x40700000 ∧ res (.fsub 8 (v1 9 0)) 0x3FC00000 0x40100000 = some 0xBF400000 ∧
    res (.fmul 8 (v1 9 0)) 0x3FC00000 0x40000000 = some 0x40400000 ∧ res (.fdiv 8 (tv 4 12 9 0 0)) 0x3F800000 0 = some 0x7F800000 ∧
    res (.fdiv 8 (tv 4 12 9 0 0)) 0x3F800000 0x40000000 = some 0x3F000000 ∧ regAfter (.fma 8 (v1 9 0)) (sR 0x40000000 0x40400000 0x3F800000) 8 = some 0x40E00000 ∧
    res (.fsqrt 8 (tv 4 0 9 1 0)) 0x40800000 0 = some 0x40000000 ∧ res (.fcvt 8 (tv 4 0 4 1 9)) 0x40200000 0 = some 2 ∧
    res (.fred 8 (tv 4 0 9 1 0)) 0x4080000040400000400000003F800000 0 = some 0x41200000 ∧ predAfter (.fcmp 3 (tv 4 12 9 0 2)) (sR 0x3F800000 0x40000000 0) 3 = some 0xF := by
  decide +kernel
/-- Division by zero leaves DZ, 0 / 0 NV, in %fpc. -/
theorem test_float_flags :
    (after (.fdiv 8 (tv 4 12 9 0 0)) (sR 0x3F800000 0 0)).map (fun t => fld (t.ctx e0).fpc 4 0) = some 8 ∧
    (after (.fdiv 8 (tv 4 12 9 0 0)) (sR 0 0 0)).map (fun t => fld (t.ctx e0).fpc 4 0) = some 16 := by decide +kernel
/-- FCODE and FADDR: the trap's own IP, ILLEGAL_OP for a reserved condition and a misaligned group, WSBOUND past WSZ (R61, R62, R109, R177). -/
theorem test_faults :
    faultAfter (.trap 5) (sR 0 0 0) = some (0x14, 0x10001) ∧ faultAfter (.trap 127) (sR 0 0 0) = some (0x13, 0x10001) ∧
    faultAfter (.cmp 3 (tv 4 12 2 1 7)) (sR 0 0 0) = some (2, 0x10001) ∧ faultAfter (.addV 7 (tv 4 12 4 2 0)) (sR 0 0 0) = some (2, 0x10001) ∧
    (faultAfter (.addV 8 (tv 4 12 4 1 0)) (onSet { a0 [] with ctxs := [(0, { c0 with wsz := 12 })] })).map (·.1) = some wsbound := by decide +kernel
/-- CALL leaves NextIP in its register and goes to LOFF lines on; LOOP counts down; PMOV and PLOG act on predicates; CSIG and CGET on a counter. -/
theorem test_control_predicates :
    (after (.call 8 (tb 2 3)) (sR 0 0 0)).map (fun t => ((t.ctx e0).ip.toNat, (regRaw (t.act 0 0) (t.ctx e0) 8).toNat)) = some (0x10083, 0x10002) ∧
    (after (.loop 8 (tb 0 1)) (sR 0 0 2)).map (fun t => ((t.ctx e0).ip.toNat, (regRaw (t.act 0 0) (t.ctx e0) 8).toNat)) = some (0x10001, 1) ∧
    (after (.loop 8 (tb 0 1)) (sR 0 0 1)).map (fun t => ((t.ctx e0).ip.toNat, (regRaw (t.act 0 0) (t.ctx e0) 8).toNat)) = some (0x10002, 0) ∧
    regAfter (.pmov 8 (tv 0 0 0 0 0)) (sR 0 0 0) 8 = some 0xFFFFFFFFFFFFFFFF ∧
    (after (.csig 0 (ti 0 0x2FFFF)) (sCnt { value := 5 } c0)).map (fun t => ((t.act 0 0).counter 1).value.toNat) = some 4 := by decide +kernel
/-- LD and ST of 8 bytes at the region; a store out of every region faults LOCAL_RANGE with its address. -/
theorem test_paddock :
    (let s := sCmd [reg 4 0x4000, reg 5 0x20000, reg 8 0x1122334455667788] []
     (after (.st 8 (tm 4 3 0 0 0 8)) s).map (fun t => padBytes (t.act 0 0).pad 1 0x4008 8) = some 0x1122334455667788 ∧
     faultAfter (.st 8 (tm 5 3 0 0 0 0)) s = some (4, 0x20000) ∧ (faultAfter (.st 8 (tm 4 3 0 0 0 4)) s).map (·.1) = some alignFault) := by decide +kernel
theorem test_paddock_load :
    regAfter (.ld 8 (tm 4 3 0 0 0 8)) (onSet { a0 [reg 4 0x4000] with ctxs := [(0, cmdCtx)], pad := reg 4 0x4000 :: [(1024, { tag := 1, data := 9 * 2 ^ 64 + 7 })] }) 8 = some 9 ∧
    regAfter (.ld 8 (tm 4 3 0 0 0 8)) (onSet { a0 [] with ctxs := [(0, cmdCtx)], pad := [reg 4 0x4000, (1024, { tag := 5, data := 9 * 2 ^ 64 })] }) 8 = some 0 := by decide +kernel
/-- A word placed where the next step fetches it is the instruction that runs: TRAP 5. -/
theorem test_step :
    (match step (State.reset.withFetchWord 16 0x0485) with
     | .next t => decide ((t.tick, ((t.act 0 0).ctx 0).state, ((t.act 0 0).ctx 0).fcode, ((t.act 0 0).ctx 0).faux) = (1, .parked, 0x14, 5))
     | _ => false) = true := by decide +kernel

/-! ### The shepherd hart -/

/-- The turn of hart 0 of core 0 with registers `xs`, in mode `m`, over an active set. -/
def sHrt (md : Mode) (xs : List (Nat × W64)) (a : SetState) : State :=
  let s := withPage (State.reset.setAct 0 0 { a with lines := [(fa0, { va := 0x100000, data := 7, dirty := false })], saveGen := 2 })
  { s.setHart 0 0 { x := xs, mode := md, pc := 0x1000 } with cur := .hart 0 0 }
def hr (rd rs1 rs2 : BitVec 5) : RType := { rd := rd, rs1 := rs1, rs2 := rs2 }
def hartReadyB (least : Mode) (r : RType) (u : RUse) (s : State) : Bool :=
  decide (s.cur = .hart 0 0 ∧ (s.hart 0 0).wfi = false ∧ least.rank ≤ (s.hart 0 0).mode.rank) && rOnly r u
/-- The instruction goes on to `t`. -/
def goesB (i : Instr) (s t : State) : Bool := match exec i s with | .next u => decide (u = t) | _ => false
def all3 : RUse := { rd := true, rs1 := true, rs2 := true }

theorem witness_XmakelPrivilege :
    (let s := sHrt .u [] {}
     xmOp (.mkShswap (hr 5 0 0)) = some (.m, hr 5 0 0, { rd := true }) ∧ s.cur = .hart 0 0 ∧ (s.hart 0 0).wfi = false ∧
     (s.hart 0 0).mode.rank < Mode.m.rank ∧ xmOp (.mkStopped (hr 5 1 0)) = some (.u, hr 5 1 0, { rd := true }) ∧
     rOnly (hr 5 1 0) { rd := true } = false) := by
  decide +kernel
/-- Traps to the lower and to the higher level. -/
theorem witness_HartTraps :
    (let s := sHrt .u [] {}
     let s := s.setHart 0 0 { s.hart 0 0 with medeleg := 4 }
     (s.hart 0 0).mode ≠ .m ∧ (s.hart 0 0).medeleg.getLsbD 2 = true ∧ (s.hart 0 0).medeleg.getLsbD 5 = false) := by decide +kernel

/-- Context 0 herded on slot 0, context 1 parked on slot 1, slot 2 empty; the block line of one instruction at 0x100000 in the fabric cache. -/
def sFlock (v w : W64) (sl : Slot) : State :=
  let s := sHrt .u [(6, v), (7, w)] {
    ctxs := [(0, { cmdCtx with fcode := 3 }), (1, { c0 with state := .parked, slot := 1 })]
    slots := [(0, sl), (1, { mode := .parked, ix := 1 })]
    pad := [reg 4 7] }
  s.setDie 0 { s.die 0 with fab := [(0x100000, (fa0, 0xC00))] }
def rF : RType := hr 5 6 7
def herded0 : Slot := { mode := .herded, ix := 0 }
theorem witness_FlockInstructions :
    (let s := sFlock 0x100000 3 herded0
     let one := fun (v : W64) => sFlock v 0 herded0
     hartReadyB .u rF all3 s && hartReadyB .u (hr 5 0 0) { rd := true } s && hartReadyB .u (hr 5 6 0) { rd := true, rs1 := true } s &&
     okB (codeLine s (.hart 0 0) 0x100000) 0xC00 && decide (lineNH 0xC00 ≠ 0) && lineBLK 0xC00 && decide (lastHartStore (s.core 0 0) = 0 ∧ (s.core 0 0).halted = false) &&
     inMode (s.act 0 0) .herded 0 && waitfAcquired (s.core 0 0) 3 &&
     ([0, 1].all (fun i => inMode (s.act 0 0) .empty i || inMode (s.act 0 0) .herded i || inMode (s.act 0 0) .parked i)) &&
     decide ((s.core 0 0).halting = none) && drained (s.act 0 0) 0 && decide (linkTarget (s.act 0 0) 0 = some 0 ∧ linkTarget (s.act 0 0) 1 = some 1) &&
     -- MK.LINK: register 4 read and written, a descriptor word, a predicate read and written
     ([0x80, 0x20080, 0x8080, 0x10000, 0x10020, 0x18000, 0x38000].all (fun v =>
       hartReadyB .u rF all3 (one v) && decide (v.toNat < 2 ^ 18))) &&
     goesB (.mkLink rF) (one 0x80) (hartGoesOn (one 0x80) 0 0 rF 7) &&
     goesB (.mkStopped (hr 5 0 0)) s (hartGoesOn s 0 0 (hr 5 0 0) 0x200000001) &&
     goesB (.mkWaitf (hr 5 6 0)) (one 3) (hartGoesOn (one 3) 0 0 (hr 5 6 0) 2) && goesB (.mkHaltf (hr 5 6 0)) (one 2) (hartGoesOn (one 2) 0 0 (hr 5 6 0) 0)) = true := by
  decide +kernel

/-- Contexts: 0 in state `st` with generation 1, 1 of another domain; the hart's registers 6 and 7. -/
def sCtx (v w : W64) (x : Ctx) (sl : Slot) : State :=
  sHrt .u [(6, v), (7, w)] { ctxs := [(0, x), (1, { c0 with dom := 3 })], slots := [(0, sl)] }
def hdl (ix : Nat) : W64 := BitVec.ofNat 64 (ctxHandle 0 0 ix 1)
def heldC : Ctx := { c0 with state := .held }
def readyC : Ctx := { c0 with state := .ready, r1 := {} }
theorem witness_ContextNew :
    (let w : W64 := 0x8080 + 128 * 0x100000
     let s := sCtx 0x10001 w heldC {}
     let k := s.core 0 0
     hartReadyB .u rF all3 s && decide (128 ≤ fld w 19 0 ∧ w.toNat < 2 ^ 37 ∧ fld w 19 0 % 64 = 0 ∧ fld w 30 20 = 128) &&
     placeFree k 0x8000 (128 + 16 * 128) && decide (freeIx k.act = some 2) && (createWait k [(0x8000, 128 + 16 * 128)]).isNone &&
     (let full := s.setAct 0 0 { k.act with ctxs := (List.range 64).map (fun i => (i, heldC)) }
      decide (freeIx (full.act 0 0) = none) && placeFree (full.core 0 0) 0x8000 (128 + 16 * 128))) = true := by decide +kernel
theorem witness_ContextHandles :
    ([(hdl 2, 1), (hdl 1, 5), (0x100000000, 4)].all (fun (v, n) =>
      let s := sCtx v 1 heldC {}
      (match handleArg s 0 0 v with | .error m => m == n | .ok _ => false) &&
      hartReadyB .u (hr 5 6 0) { rd := true, rs1 := true } s && hartReadyB .u rF all3 s &&
      goesB (.mkCtxfree (hr 5 6 0)) s (hartGoesOn s 0 0 (hr 5 6 0) (BitVec.ofNat 64 n)) && goesB (.mkMigr rF) s (hartGoesOn s 0 0 rF (BitVec.ofNat 64 n)))) = true := by
  decide +kernel
/-- Held, ready, bound and parked contexts; the second operand of each instruction. -/
theorem witness_ContextInstructions :
    ([heldC, readyC, { c0 with slot := 0 }, { c0 with state := .parked }, { readyC with pin := true }].all (fun x =>
      [0, 1, 0x20002, 0x10005, 0x30005, 95].all (fun w =>
        let s := sCtx (hdl 0) w x { mode := .parked, ix := 0 }
        (match handleArg s 0 0 (hdl 0) with | .ok ix => ix == 0 | .error _ => false) && hartReadyB .u rF all3 s)) &&
     (let s := sCtx (hdl 0) 3 heldC {}
      goesB (.mkBind rF) s (hartGoesOn (s.setAct 0 0 (((s.act 0 0).setCtx 0 { heldC with state := .bound, eprio := 4, slot := 3 }).setSlot 3
        { mode := .herded, ix := 0 })) 0 0 rF 0)) &&
     (let s := sCtx (hdl 0) 1 readyC {}
      unboundChan readyC && noScratch readyC && movesFit (s.act 0 0) readyC && storesGone (s.core 0 0) 0 1 && (freeIx (s.core 0 1).act).isSome && !(movePlaces (s.core 0 1) 128).isEmpty &&
      (moveRoom ({ s.core 0 1 with act := { ctxs := (List.range 64).map (fun i => (i, heldC)) } }) 128 0).isNone) &&
     (let s := sCtx (hdl 0) 2 { heldC with r2 := { base := 0x500, size := 4, gen := 1 } } {}
      (match gennewRegion (s.core 0 0) 0 0 32 with | .ok _ => true | .error _ => false) && decide ((heldC.region 1).2.1 = 0)) &&
     (let s := sCtx 0 1 { c0 with state := .parked } { mode := .parked, ix := 0 }
      let t := sCtx 0 1 { c0 with state := .parked, dom := 3 } { mode := .parked, ix := 0 }
      hartReadyB .u rF all3 s && decide (((s.act 0 0).slot 0).mode = .parked ∧ ((s.act 0 0).ctx 0).dom = (s.core 0 0).dom) &&
      decide (((t.act 0 0).ctx 0).dom ≠ (t.core 0 0).dom)) &&
     (let s := sHrt .u [] { upBusy := true }
      hartReadyB .u (hr 0 0 0) {} s && (s.act 0 0).upBusy && !((sHrt .u [] {}).act 0 0).upBusy)) = true := by decide +kernel
/-- A place is there: whichever the free value picks, it is one. -/
theorem movePlace_isSome {k : Core} {w n : Nat} (h : (movePlaces k w).isEmpty = false) : ∃ wp, movePlace k w n = some wp := by
  unfold movePlace
  rw [if_neg (by simp [h])]
  have h0 : 0 < (movePlaces k w).length := by
    cases hl : movePlaces k w with
    | nil => rw [hl] at h; cases h
    | cons => simp
  exact ⟨_, List.getElem?_eq_getElem (Nat.mod_lt _ h0)⟩

theorem witness_HartSystem :
    (let on := fun (md : Mode) (v w : W64) (a : SetState) => sHrt md [(6, v), (7, w)] a
     let two : RUse := { rs1 := true, rs2 := true }
     let one : RUse := { rd := true, rs1 := true }
     let r2 := hr 0 6 7
     let r1 := hr 5 6 0
     let waits := fun (t : State) => t.setHart 0 0 { t.hart 0 0 with busy := true }
     -- counters
     (let s := on .u 3 7 { counters := [(3, { value := 7, ovf := true })] }
      hartReadyB .u rF all3 s && goesB (.mkCwait rF) s (hartGoesOn s 0 0 rF 7) && goesB (.mkCget r1) s (hartGoesOn s 0 0 r1 0x10007) &&
      hartReadyB .u r2 two s && decide (lastHartStore (s.core 0 0) = 0) && hartReadyB .u r1 one s) &&
     (let s := on .u 3 8 {}
      goesB (.mkCwait rF) s (waits (s.setAct 0 0 { s.act 0 0 with hwait := some (3, 8) })) && goesB (.mkCset r2) s (hartGoesOn (s.setAct 0 0 (setSet (s.act 0 0) 3 8)) 0 0 r2 0)) &&
     -- ports
     (let s := on .u 0x201 9 { ports := [(1, { active := [(0, 5)] })] }
      hartReadyB .u r1 one s && goesB (.mkEngr r1) s (hartGoesOn s 0 0 r1 5) && decide (((on .u 4 9 {}).act 0 0).port 0 = {})) &&
     (let s := on .u 4 9 {}
      hartReadyB .u r2 two s && goesB (.mkEngw r2) s (hartGoesOn (s.setAct 0 0 ((s.act 0 0).setPort 0 { shadow := [(1, 9)] })) 0 0 r2 0)) &&
     -- a GET of 64 bytes at 0x100000 to the save area, committed by its first word
     (let t := el 5 4 0 0
      let x := valWords t 0xFC00 (valsB t 0x400000000000100000 0x600)
      let s := on .u 0x100 (BitVec.ofNat 64 (tailBits t)) { ports := [(0, { shadow := tset 0 x 0 0 })] }
      let s' := s.setAct 0 0 ((s.act 0 0).setPort 0 { shadow := x })
      hartReadyB .u r2 two s && match commit s' 0 0 0 with | .ok (u, n) => n == 0 && (u.act 0 0).hgang.isNone | .error _ => false) &&
     -- the hart's gang has formed and its command is done
     (let g : HartGang := { pc := 0x1000, n := 0, fault := false, done := true }
      let s := on .u 4 9 { hgang := some g }
      hartReadyB .u r2 two s && goesB (.mkEngw r2) s (hartGoesOn (s.setAct 0 0 { s.act 0 0 with hgang := none }) 0 0 r2 0)) &&
     -- sets
     (let s := on .m 0 0 {}
      let did := s.setCore 0 0 { s.core 0 0 with swap := .done }
      let busy := on .m 0 0 { ctxs := [(0, c0)], slots := [(0, { mode := .stray, ix := 0 })] }
      hartReadyB .m (hr 5 0 0) { rd := true } s && swapReady (s.core 0 0) && !(s.core 0 0).preq && !swapReady (busy.core 0 0) &&
      goesB (.mkShswap (hr 5 0 0)) did (hartGoesOn (did.setCore 0 0 { did.core 0 0 with swap := .none }) 0 0 (hr 5 0 0) 0) &&
      goesB (.mkShswap (hr 5 0 0)) busy (hartGoesOn busy 0 0 (hr 5 0 0) 2) &&
      goesB (.mkShswap (hr 5 0 0)) s (waits (s.setCore 0 0 { s.core 0 0 with swap := .draining }))) &&
     -- freezes and thaws
     (let a : SetState := { ctxs := [(0, { c0 with state := .frozen }), (3, { inc := 1 })] }
      ([(hdl 0, 0), (hdl 2, 0), (hdl 3, 0), (0, 1), (3, 2), (0, 3)].all (fun ((v, w) : W64 × W64) => agentArg w.toNat v && hartReadyB .s rF all3 (on .s v w a) &&
        hartReadyB .m rF all3 (on .m v w a))) && decide (handleIx a 0 0 (hdl 0).toNat = some 0 ∧ handleIx a 0 0 (hdl 2).toNat = none) &&
      goesB (.mkFreeze rF) (on .s (hdl 2) 0 a) (hartGoesOn (on .s (hdl 2) 0 a) 0 0 rF 1) && goesB (.mkThaw rF) (on .m 0 1 a) (hartGoesOn (on .m 0 1 a) 0 0 rF 2) &&
      decide (handleIx a 0 0 (hdl 3).toNat = some 3 ∧ (a.ctx 3).state = .free ∧ (3, 0) ∉ ((on .s 3 2 a).die 0).engFrz) &&
      goesB (.mkFreeze rF) (on .s (hdl 3) 0 a) (hartGoesOn (on .s (hdl 3) 0 a) 0 0 rF 2) && goesB (.mkFreeze rF) (on .s 0 3 a) (hartGoesOn (on .s 0 3 a) 0 0 rF 7) &&
      (let s := on .m (hdl 0) 0 {}
       let s := s.setCore 0 0 { s.core 0 0 with shd := a }
       goesB (.mkThaw rF) s (hartGoesOn s 0 0 rF 2)) &&
      (let s := on .m (hdl 0) 0 a
       goesB (.mkThaw rF) s (hartGoesOn (s.setAct 0 0 (thawCtx (s.act 0 0) 0)) 0 0 rF 0))) &&
     -- PLB
     ([(0x100000840, 0x120000), (0, 0), (1, 5), (2, 3)].all (fun ((v, w) : W64 × W64) => hartReadyB .s r2 two (on .s v w {}))) &&
     (let s := on .s 0x100E000C1 0x120000 {}
      let en : PlbEntry := { v := true, dom := 1, r := true, w := true, x := true, e := false, k := false, psz := 0, pcnt := 1, base := 0x120000 }
      goesB (.mkPlbw r2) s (hartGoesOn (s.setCore 0 0 { s.core 0 0 with plb := tset {} (s.core 0 0).plb 1 en }) 0 0 r2 0)) &&
     (let s := on .s 0 0 {}
      goesB (.mkPlbinv r2) s (hartGoesOn (s.setCore 0 0 { s.core 0 0 with plb := [] }) 0 0 r2 0)) &&
     -- debug
     (let a : SetState := { pad := [(3, { tag := 5, data := 9 * 2 ^ 64 + 8 })] }
      let dbg := fun (v w : W64) => { on .m v w a with debug := true }
      ([(0x30, 8), (0x100030, 9), (0x200030, 5), (0x400030, 0)].all (fun ((v, x) : W64 × W64) => hartReadyB .m r1 one (dbg v 0) && hartReadyB .m r2 two (dbg v 1) &&
        goesB (.mkDbgrd r1) (dbg v 0) (hartGoesOn (dbg v 0) 0 0 r1 x)))) &&
     -- own registers
     (let s := on .s 0 0 {}
      hartReadyB .s noRegs {} s && decide ((s.act 0 0).cache = 4) && goesB (.mkSplitWrite 4) s (hartGoesOn s 0 0 noRegs 0) &&
      goesB (.mkSlicePack 0x8000000000000000) s (hartGoesOn (s.setCore 0 0 { s.core 0 0 with pack := true }) 0 0 noRegs 0) &&
      goesB (.mkSplitWrite 8) s (hartGoesOn (s.setAct 0 0 { s.act 0 0 with cache := 8 }) 0 0 noRegs 0))) = true := by decide +kernel

/-- An access of `2 ^ z` bytes at register 6. -/
def acc (op : HartOp) (z : BitVec 2) : HartAccess := { op := op, fp := false, rd := 5, rs1 := 6, rs2 := 7, imm := 0, size := z, aq := false, rl := false }
theorem witness_HartMemory :
    (let on := fun (v : W64) => sHrt .u [(6, v), (7, 9)] { pad := [(64, { tag := 2, data := 0x1122334455667788 })] }
     decide ((s1.env?) = some e0) && decide ((on 0x400).cur = .hart 0 0 ∧ ((on 0x400).hart 0 0).wfi = false) &&
     goesB (.custom0Reserved 0x7F00000B) (on 0) ((on 0).hartTrap 0 0 false 2 0x7F00000B) &&
     -- the save area, the hole, two lines, a misaligned atomic
     goesB (.hartMemoryAccess (acc (.load false) 3)) (on 0x400) (hartGoesOn (on 0x400) 0 0 { noRegs with rd := 5 } 0x1122334455667788) &&
     goesB (.hartMemoryAccess (acc (.load false) 0)) (on 0x400) (hartGoesOn (on 0x400) 0 0 { noRegs with rd := 5 } 0xFFFFFFFFFFFFFF88) &&
     goesB (.hartMemoryAccess (acc (.load true) 0)) (on 0x400) (hartGoesOn (on 0x400) 0 0 { noRegs with rd := 5 } 0x88) &&
     goesB (.hartMemoryAccess (acc .store 3)) (on 0x1FF8) (hartGoesOn ((on 0x1FF8).setAct 0 0 (saveWrite ((on 0x1FF8).act 0 0) 0x1FF8 8 9)) 0 0 noRegs 0) &&
     goesB (.hartMemoryAccess (acc .store 3)) (on 0x2000) ((on 0x2000).hartTrap 0 0 false 7 0x2000) &&
     goesB (.hartMemoryAccess (acc (.load false) 3)) (on 0xFFFF8) ((on 0xFFFF8).hartTrap 0 0 false 5 0xFFFF8) &&
     goesB (.hartMemoryAccess (acc (.load false) 3)) (on 0x43C) ((on 0x43C).hartTrap 0 0 false 4 0x43C) &&
     goesB (.hartMemoryAccess (acc .lr 3)) (on 0x404) ((on 0x404).hartTrap 0 0 false 6 0x404) &&
     -- a load and a store of the virtual space
     ([acc (.load false) 3, acc .store 3].all (fun x => decide (hartUnit (on 0x100000) 0 0 x 0x100000 = none) && okAny (hartGlobal 0 0 x 0x100000 (on 0x100000)))) &&
     goesB (.hartMemoryAccess (acc (.load false) 3)) (on 0x100000) (match hartGlobal 0 0 (acc (.load false) 3) 0x100000 (on 0x100000) with
       | .ok t => hartGoesOn t 0 0 noRegs 0 | .error _ => on 0) &&
     decide (fld ((on 0).hart 0 0).mstatus 14 13 = 0) &&
     -- fences
     goesB (.hartFence .fenceI) (on 0) (hartGoesOn ((on 0).setDie 0 { (on 0).die 0 with fab := [] }) 0 0 noRegs 0) && decide (((on 0).core 0 0).sb = []) &&
     (let s := (on 0).setPend (.hart 0 0) { ask := .fence 3 }
      decide ((s.pend (.hart 0 0)).ask = .fence 3 ∧ (s.core 0 0).sb = []))) = true := by decide +kernel
/-- An interrupt of the supervisor's software, the pre-emption request, and an upcall. -/
theorem witness_HartInterrupts :
    (let up : Upcall := { kind := 1, slot := 2, acc := 3, handle := 4, faddr := 5, token := 6 }
     let s := sHrt .u [(5, 0x55)] { upq := [up], upEn := true, upVec := 0x4000 }
     let p := s.setCore 0 0 { s.core 0 0 with preq := true, hart := { s.hart 0 0 with mie := 0x80000 } }
     let f := s.setCore 0 0 { s.core 0 0 with act := { s.act 0 0 with fmask := 1 }, hart := { s.hart 0 0 with mie := 0x10000 } }
     decide (nextInterrupt (f.core 0 0) = some 16 ∧ (f.core 0 0).swap ≠ .done) && goesB (.localInterrupt 0 0) f (f.hartTrap 0 0 true 16 0) &&
     decide (nextInterrupt (p.core 0 0) = some 19 ∧ (p.core 0 0).swap ≠ .done) && decide (nextInterrupt (s.core 0 0) = none) &&
     decide ((s.hart 0 0).mode = .u ∧ (s.act 0 0).upEn = true ∧ (s.act 0 0).upBusy = false ∧ (s.act 0 0).saveGen ≠ 0) &&
     (match exec (.upcallEntry 0 0) s with
      | .next t => decide ((t.hart 0 0).pc = 0x100000 ∧ saveRead (t.act 0 0) 0x408 8 = 0x55 ∧ saveRead (t.act 0 0) 0x418 4 = 0x030201)
      | _ => false) &&
     (match exec (.localInterrupt 0 0) p with
      | .next t => (t.core 0 0).stopped && decide ((t.hart 0 0).mcause = 0x8000000000000013)
      | _ => false)) = true := by decide +kernel

/-! ### The thread engine's steps -/

/-- Core 0 with active set `a`, arrivals `l`, and a packet `b` from core 2 of domain `dom` that has arrived for it. -/
def sEv (a : SetState) (l : List Arrival) (ps : List Packet) : State :=
  let s := withPage (State.reset.setAct 0 0 { a with saveGen := 2 })
  { s.setCore 0 0 { s.core 0 0 with arr := l } with net := ps }
def pktOf (dom : BitVec 12) (b : Payload) : Packet :=
  { id := 0, cls := 1, src := { core := 2, ix := 0, inc := 1, dom := dom, entry := some 0 }, pkg := 0, die := 0, core := 0, body := b }
/-- A header: handler 0x10001, one body word, priority 2, domain `dom`. -/
def hdr (hip dom : Nat) : W128 := BitVec.ofNat 128 (hip + 2 * 2 ^ 90 + dom * 2 ^ 93)
def goes (i : Instr) (s : State) (f : State → Bool) : Bool := match exec i s with | .next u => f u | _ => false
def frameSet : SetState := { frames := [(0, 0x8080)] }
theorem witness_Messages :
    (let msg := fun (dom : Nat) => pktOf 0 (.message (hdr 0x10001 dom) 0xABCD 5)
     let s := sEv frameSet [] [msg 0]
     let full := sEv frameSet (List.replicate 16 (.msg (hdr 1 0) 0 0)) [msg 0]
     let foreign := sEv frameSet [] [msg 3]
     decide ((s.ready 0).isSome) && (s.die 0).permits none 0 && !(s.die 0).permits none 3 && arrivalRoom (s.core 0 0) && !arrivalRoom (full.core 0 0) &&
     goesB (.messageArrival 0) s (endEntry ((s.dropPkt 0).setCore 0 0 { s.core 0 0 with arr := [.msg (hdr 0x10001 0) 0xABCD 5] }) (msg 0).src true) &&
     goesB (.messageArrival 0) full full &&
     goesB (.messageArrival 0) foreign (violation (endEntry (foreign.dropPkt 0) (msg 3).src false) (msg 3).src 0 0 0) &&
     -- a task in the frame at 0x8080: IP, priority, registers 0 and 4
     (let t := sEv frameSet [.msg (hdr 0x10001 0) 0xABCD 5] []
      decide (freeIx (t.act 0 0) = some 0 ∧ freeFrame (t.act 0 0) = some (0, 0x8080) ∧ (t.core 0 0).next ≠ 0) &&
      (createWait (t.core 0 0) [(0x8080 - 128, 640)]).isNone && decide (fld (hdr 0x10001 0) 56 0 ≠ 0) &&
      (match arrivalTask (t.core 0 0) (.msg (hdr 0x10001 0) 0xABCD 5) with | some (some (b, _)) => b | _ => false) &&
      match exec (.messageCreate 0 0) t with
      | .next u => let x := (u.act 0 0).ctx 0
                   decide (x.ip = 0x10001 ∧ x.prio = 2 ∧ x.state = .ready ∧ x.wsz = 32 ∧ regRaw (u.act 0 0) x 0 = 0xABCD ∧
                     regRaw (u.act 0 0) x 4 = 5 ∧ regRaw (u.act 0 0) x 7 = 0)
      | _ => false)) = true := by decide +kernel
theorem witness_TriggersMailbox :
    (let trig := fun (pl : Bool) => { hip := 0x40, arg := 9, prio := 1, eprio0 := 4, pending := true, fired := 7, placed := pl : Trigger }
     let s := sEv { frameSet with counters := [(3, { trig := some (trig false) })] } [] []
     let p := sEv { frameSet with counters := [(3, { trig := some (trig true) })] } [.trigger 3] []
     decide (nextTrigger (s.act 0 0) = some 3) && goesB (.triggerTaskCreate 0 0 3) s (s.setCore 0 0 { s.core 0 0 with
       act := (s.act 0 0).setCounter 3 { trig := some (trig true) }, arr := [.trigger 3] }) &&
     (match frameCreate (p.core 0 0) 0x40 4 0 noHandle [(0, 9), (1, 0x30007)] with | some (b, _) => b | none => false) &&
     (match exec (.triggerTaskCreate 0 0 3) p with
      | .next u => let x := (u.act 0 0).ctx 0
                   decide (((u.act 0 0).counter 3).trig = none ∧ x.ip = 0x40 ∧ x.prio = 4 ∧ regRaw (u.act 0 0) x 1 = 0x30007 ∧ (u.core 0 0).arr = [])
      | _ => false) &&
     -- no handler: entry 0 of the mailbox
     (let m := sEv frameSet [.msg (hdr 0 0) 0xABCD 5] []
      decide ((m.core 0 0).hart.resv = none ∧ (m.act 0 0).saveGen ≠ 0 ∧ (m.act 0 0).mbox = 0 ∧ mailValid (m.act 0 0) 0 = 0) &&
      match exec (.mailboxDelivery 0 0) m with
      | .next u => decide (saveRead (u.act 0 0) 0x800 16 = (hdr 0 0).toNat ∧ saveRead (u.act 0 0) 0x810 8 = 0xABCD ∧ (u.act 0 0).mbox = 1)
      | _ => false) &&
     (let m := sEv { frameSet with counters := [(3, { trig := some { trig true with hip := 0 } })] } [.trigger 3] []
      decide (mailValid (m.act 0 0) 0 = 0) && decide ((((m.act 0 0).counter 3).trig.map (·.hip)) = some 0))) = true := by decide +kernel
theorem witness_ChannelsSignals :
    (let on := fun (q : List W128) (dom : BitVec 12) (tag : Nat) => sEv { ctxs := [(0, { c0 with chan := BitVec.ofNat 104 (4096 + tag) })], chq := [(0, q)] } []
       [pktOf dom (.channel 0x123 9 7)]
     decide (tagBinding ((on [] 0 0x123).act 0 0) 0x123 = some (0, 0) ∧ tagBinding ((on [] 0 0x124).act 0 0) 0x123 = none) && decide (((on [] 0 0x123).ready 0).isSome) &&
     goesB (.channelPacketArrival 0) (on [1, 2, 3, 4] 0 0x123) (on [1, 2, 3, 4] 0 0x123) &&
     (match exec (.channelPacketArrival 0) (on [1] 0 0x123) with | .next u => decide (chQueue (u.act 0 0) 0 0 = [1, 9] ∧ u.net = []) | _ => false) &&
     (match exec (.channelPacketArrival 0) (on [] 0 0x124) with | .next u => decide (tget 0 (u.core 0 0).perf 1 = 1 ∧ u.net = []) | _ => false) &&
     goesB (.channelPacketArrival 0) (on [] 3 0x123) (violation ((on [] 3 0x123).dropPkt 0) (pktOf 3 (.channel 0x123 9 7)).src 0 0 7) &&
     (let s := sEv {} [] [pktOf 0 (.signal 5 3 0 none)]
      (match remoteUpd (s.dropPkt 0) 0 0 0 (.signal 5 3) with | some t => goesB (.counterSignalPacket 0) s t && decide (((t.act 0 0).counter 5).value = 3) | none => false)) &&
     (let s := sEv {} [] [pktOf 3 (.signal 5 3 7 none)]
      (remoteUpd (s.dropPkt 0) 0 0 3 (.signal 5 3)).isNone && goesB (.counterSignalPacket 0) s (violation (s.dropPkt 0) (pktOf 3 (.signal 5 3 7 none)).src 0 0 7))) = true := by
  decide +kernel
theorem witness_SendBindAge :
    (let q : PostEntry := { op := .send false (BitVec.ofNat 128 (0x10001 + 1 * 2 ^ 105)) 9, captured := true, met := true, issuer := { ix := 0, inc := 1 } }
     let s := sEv { post := [(2, q)] } [] []
     entryClear (s.core 0 0) q && decide (q.engine = none) &&
     (match exec (.messageSend 0 0 2) s with | .next u => u.net.map (fun p => (p.die, p.core, p.cls)) == [(0, 1, 1)] | _ => false) &&
     -- binding: a slot in BINDING, an empty slot and a queue
     (let b := sEv { ctxs := [(0, { c0 with herd := true })], slots := [(4, { mode := .binding, ix := 0 })] } [] []
      match exec (.contextBind 0 0) b with | .next u => decide (((u.act 0 0).slot 4).mode = .herded ∧ ((u.act 0 0).ctx 0).herd = false) | _ => false) &&
     (let b := sEv { ctxs := [(5, { c0 with state := .ready, age := 3 })], runq := [5] } [] []
      match exec (.contextBind 0 0) b with
      | .next u => decide (((u.act 0 0).slot 0) = { mode := .binding, ix := 5 } ∧ ((u.act 0 0).ctx 5).state = .bound ∧ (u.act 0 0).runq = [])
      | _ => false) &&
     (let g := sEv { ctxs := [(5, { c0 with state := .ready, age := 65537 })], runq := [5] } [] []
      match exec (.agingStep 0 0 5) g with | .next u => decide (((u.act 0 0).ctx 5).eprio = 3 ∧ ((u.act 0 0).ctx 5).age = 1) | _ => false) &&
     -- the shadow set ages, a stopped flock binds nothing, a launch record joins its queue
     (let g := sEv {} [] []
      let g := g.setCore 0 0 { g.core 0 0 with shd := { ctxs := [(5, { c0 with state := .ready, age := 65536 })], runq := [5] } }
      decide (((g.act 0 0).ctx 5).state ≠ .ready) && goes (.agingStep 0 0 5) g (fun u => decide (((u.core 0 0).shd.ctx 5).eprio = 3))) &&
     (let b := sEv { ctxs := [(0, { c0 with herd := true })], slots := [(4, { mode := .binding, ix := 0 })], fmask := 1 } [] []
      let b := b.setCore 0 0 { b.core 0 0 with stopped := true }
      (b.core 0 0).halted && goes (.contextBind 0 0) b (fun u => decide (((u.act 0 0).slot 4).mode = .empty ∧ ((u.act 0 0).ctx 0).state = .ready))) &&
     (let l := sEv { post := [(2, { q with op := .launch 5 })] } [] []
      entryClear (l.core 0 0) { q with op := .launch 5 } && decide ((l.die 0).lrecs.length < 16) &&
      goes (.messageSend 0 0 2) l (fun u => decide ((u.die 0).lrecs = [(5, 0, 0)])))) = true := by
  decide +kernel

/-! ### Memory behind the accesses -/

/-- The hart's access `q` is under way at core 0; directory entries `dir` and store buffer `sb`. -/
def sMem (q : Ask) (dir : Sparse DirEntry) (sb : List SbEntry) : State :=
  let s := withPage { State.reset with cur := ag0 }
  let s := s.setDie 0 { s.die 0 with dir := dir }
  (s.setCore 0 0 { s.core 0 0 with sb := sb }).setPend ag0 { ask := q }
def faFar : Nat := mkFa 0 1 3 0 0x100000
def stE (op : AccOp) (fa : Nat) : SbEntry := { seq := 1, ix := 0, inc := 1, va := 0x100000, pieces := [(fa, [5])], op := op, dom := 0 }
theorem witness_Reads_home :
    (let s := sMem (.line 0x100000 fa0) [] []
     let far := sMem (.line 0x100000 faFar) [] []
     let known := far.setDie 0 { far.die 0 with proxy := [(faFar, { data := 3 })] }
     let kept := sMem (.keep 0x100000 fa0 7) [] []
     decide (faPkg fa0 = s.pkg.toNat ∧ faDie fa0 = 0 ∧ faDie faFar = 1) && homeFree s fa0 && homeFree far faFar &&
     decide ((tfind (far.die 0).proxy faFar).isNone ∧ (tfind (known.die 0).proxy faFar).isSome) &&
     goes (.homeRead ag0) s (fun t => decide ((t.pend ag0).ask = .fill 0x100000 fa0 0 true ∧ (t.dirOf fa0).ptrs = [.core 0])) &&
     goes (.proxyMiss ag0 none) known (fun t => decide ((t.pend ag0).ask = .fill 0x100000 faFar 3 true)) &&
     goes (.proxyMiss ag0 none) far (fun t => decide ((t.dirOf faFar).ptrs = [.proxy 0])) &&
     goesB (.keeperPost ag0) kept (kept.setPend ag0 { ask := .fill 0x100000 fa0 7 false }) &&
     decide (lineValue kept fa0 = 0 ∧ keeperRoom kept fa0 = 0) && dirFits s fa0 && proxyRoom (far.die 0) faFar &&
     (let k := sMem (.keep 0x100000 fa0 0) [] []
      let k := k.setAct 0 (4 * homeSlice fa0) { ctxs := [(0, { c0 with pin := true })] }
      let k := k.setDie 0 { k.die 0 with keepers := [(homeSlice fa0, 8)] }
      decide (lineValue k fa0 = 0 ∧ keptCount k fa0 < keeperRoom k fa0 ∧ homeFree k fa0 = true) &&
      goes (.keeperPost ag0) k (fun t => decide ((t.dirOf fa0).kept = [.core 0] ∧ (t.pend ag0).ask = .fill 0x100000 fa0 0 true))) &&
     mayInstall s 0 0x100000 fa0 && decide (s.badWord fa0 64 = none) &&
     goes (.cacheFill ag0 none 0) (sMem (.fill 0x100000 fa0 7 false) [] []) (fun t => decide (t.pend ag0 = { got := [(fa0, 7)], ask := .reply })) &&
     (let f := sMem (.fill 0x100000 fa0 7 true) [] []
      decide ((tfind (f.act 0 0).lines fa0).isNone ∧ (f.act 0 0).lines.length < cacheRoom (f.core 0 0)) &&
      goes (.cacheFill ag0 none 0) f (fun t => decide ((tfind (t.act 0 0).lines fa0).map (·.data) = some 7))) &&
     goes (.fabricCacheFill ag0 none) (sMem (.fab 0x100040 (fa0 + 64)) [] []) (fun t => decide (tfind (t.die 0).fab 0x100040 = some (fa0 + 64, 0))) &&
     goes (.loadReply ag0) (sMem .reply [] []) (fun t => decide ((t.pend ag0).ask = .idle)) &&
     (let t := sG.setPend ag0 { ask := .reply, load := some (8, tm 4 3 0 0 0 0, false) }
      decide ((t.core 0 0).halted = false) && goes (.loadReply ag0) t (fun u => decide (regRaw (u.act 0 0) ((u.act 0 0).ctx 0) 8 = 7)))) = true := by decide +kernel
theorem witness_Writes_home :
    (let p := sMem .idle [(fa0, { st := .p, ptrs := [.core 1, .core 0], pendAck := [.core 1], ovf := true, keeperAck := true, kept := [.core 3] })] []
     let u := sMem .idle [(fa0, { st := .p, ovf := true, keeperAck := true })] []
     let w := sMem .idle [(fa0, { st := .s, ptrs := [.core 0, .core 5] })] [stE .store fa0]
     decide ((p.dirOf fa0).st = .p ∧ (.core 1) ∈ (p.dirOf fa0).pendAck ∧ (p.dirOf fa0).keeperAck = true) && decide ((u.dirOf fa0).kept = []) &&
     goes (.invalidation fa0 (.core 1)) p (fun t => decide ((t.dirOf fa0).ptrs = [.core 0] ∧ (t.dirOf fa0).pendAck = [])) &&
     goes (.keeperInvalidate fa0) p (fun t => decide ((t.dirOf fa0).kept = [])) &&
     goes (.keeperComplete fa0) u (fun t => decide ((t.dirOf fa0).ovf = false ∧ (t.dirOf fa0).keeperAck = false)) &&
     decide (storeLines w (stE .store fa0) = [fa0] ∧ homeFree w fa0 = true) &&
     goes (.homeWrite 0 0) w (fun t => decide ((t.dirOf fa0).st = .p ∧ (t.dirOf fa0).pendAck = [.core 5])) &&
     -- a store performs in memory, in host memory, in the counter window
     (let s := sMem .idle [(fa0, { st := .p })] [{ stE .store fa0 with atHome := true }]
      decide ((s.dirOf fa0).pendAck = [] ∧ s.unreachable (faPkg fa0) = false) && goes (.storePerform 0 0) s (fun t => decide ((t.core 0 0).sb = [] ∧
        memRead t.mem fa0 1 = 5 ∨ (t.act 0 0).lines.length = 1))) &&
     (let h := mkFa 0 0 6 0 8
      let s := sMem .idle [] [stE .store h]
      let s := s.setDie 0 { s.die 0 with ctl := [(0x71010, 0xFC000000), (0x71018, 0x4000)] }
      match hostBus s h with
      | some b => goes (.storePerform 0 0) s (fun t => decide (memRead t.host b 1 = 5))
      | none => decide (windowRec (s.die 0) = 0)) &&
     (let c := mkFa 0 0 4 0 0x100018
      let s := sMem .idle [] [stE .store c]
      let g := sMem .idle [] [stE (.red 2) c]
      storePermitted s (stE .store c) && goes (.counterWindowSet 0 0) s (fun t => decide (((t.act 0 0).counter 3).value = 5)) &&
      goes (.counterWindowSignal 0 0) g (fun t => decide ((t.core 0 0).sb = [])))) = true := by decide +kernel
theorem witness_Atomics_home :
    (let x : Acc := { op := .atom 0, fa := fa0, size := 8, v := 5, dom := 0 }
     let r : Acc := { op := .load, fa := mkFa 0 0 0 0 0x4000, size := 8, dom := 0 }
     let c : Acc := { op := .load, fa := mkFa 0 0 4 0 0x100018, size := 8, dom := 0 }
     let s := sMem (.atomic x) [] []
     let on := fun (y : Acc) (a : SetState) => (sMem (.remote y) [] []).setAct 0 0 a
     homeFree s fa0 && decide ((s.core 0 0).sb = []) && goes (.atomicAtHome ag0) s (fun t => decide ((t.pend ag0).ask = .idle ∧ (t.pend ag0).val = [(fa0, 0)])) &&
     -- the remote agent: an address of a context's region, one of none, another domain's
     goes (.remotePaddockAccess ag0) (on r { ctxs := [(0, cmdCtx)], pad := [(1024, { tag := 1, data := 9 })] }) (fun t => decide ((t.pend ag0).val = [(r.fa, 9)])) &&
     goes (.remotePaddockAccess ag0) (on r {}) (fun t => decide ((t.pend ag0).ans = .remote r.fa)) &&
     (match remoteAt (on { r with dom := 3 } {}) { r with dom := 3 } with | .refused d k => d == 0 && k == 0 | _ => false) &&
     goes (.remotePaddockAccess ag0) (on { r with dom := 3 } { ctxs := [(0, c0)], slots := [(0, { mode := .stray, ix := 0 })] }) (fun t => (t.core 0 0).frz) &&
     (let s := (sMem (.counter c) [] []).setAct 0 0 { counters := [(3, { value := 7 })] }
      decide (windowCounter c.fa = some 3 ∧ logicalOf (s.die 0) 0 = some 0 ∧ s.setFor 0 0 0 = some false) &&
      goes (.counterWindowRead ag0) s (fun t => decide ((t.pend ag0).val = [(c.fa, 7)]))) &&
     goes (.hostAtomicCompletion ag0 0 true) (sMem (.hostAtomic x) [] []) (fun t => decide ((t.pend ag0).ans = .remote fa0)) &&
     (let h : Acc := { x with op := .atom 1, fa := mkFa 0 0 6 0 8 }
      let u := sMem (.hostAtomic h) [] []
      let u := u.setDie 0 { u.die 0 with ctl := [(0x71010, 0xFC000000), (0x71018, 0x4000)] }
      match hostBus u h.fa with
      | some b => goes (.hostAtomicCompletion ag0 7 false) u (fun t => decide ((t.pend ag0).val = [(h.fa, 7)] ∧ memRead t.host b 8 = 5))
      | none => decide (windowRec (u.die 0) = 0)) &&
     decide (s.badWord fa0 8 = none ∧ (s.pend ag0).seq = none) && (padBad [] 1 0x4000 8).isNone) = true := by decide +kernel

/-- Tables at 0x200000 of HBM: the directory entry of domain 0, its list of one range, and five levels down to the page 0x100000. -/
def hbm (off : Nat) : Nat := mkFa 0 0 3 0 off
def tables : Mem :=
  [(0x200000, hbm 0x240000 + 2 ^ 64 + 2 ^ 127, 16), (0x240000, 0x10 + 2 ^ 48 + 31 * 2 ^ 64, 16), (0x300000, hbm 0x310000 + 1, 8), (0x310000, hbm 0x320000 + 1, 8),
    (0x320000, hbm 0x320100 + 1, 8), (0x320100, hbm 0x320200 + 1, 8), (0x320280, fa0 + 3, 8)].foldl (fun m x => memWrite m (hbm x.1) x.2.2 x.2.1) []
def sTab (q : Ask) : State :=
  let s := { State.reset with mem := tables }
  (s.setDie 0 { s.die 0 with ddir := BitVec.ofNat 64 (hbm 0x200000), root := BitVec.ofNat 64 (hbm 0x300000) }).setPend ag0 { ask := q }
theorem witness_Translation :
    (let s := sTab (.plb 0x100000)
     let none := sTab (.plb 0x200000)
     let broken := { s with mem := memWrite s.mem (hbm 0x240000) 16 (0x10 + 2 ^ 48 + 2 ^ 70) }
     goes (.plbRefill ag0) s (fun t => decide (tget {} (t.core 0 0).plb 16 = plb0)) && goes (.plbRefill ag0) none (fun t => decide ((t.pend ag0).ans = .noRange 0x200000)) &&
     goes (.plbRefill ag0) broken (fun t => decide ((t.die 0).malf = 1 ∧ (t.pend ag0).ans = .noRange 0x100000)) &&
     goes (.tableWalk ag0) (sTab (.walk 0x100000)) (fun t => decide ((t.die 0).tlb = [(16, { psz := 0, fa := fa0 })])) &&
     goes (.tableWalk ag0) (sTab (.walk 0x110000)) (fun t => decide ((t.pend ag0).ans = .noPage 0x110000)) &&
     (let w := sTab (.walk 0x100000)
      goes (.tableWalk ag0) { w with mem := memWrite w.mem (hbm 0x320280) 8 (fa0 + 7) } (fun t => decide ((t.die 0).malf = 1))) &&
     -- every entry matched, entry 20 the longest ago
     (let k := { s.core 0 0 with plb := (List.range 64).map (fun i => (i, plb0)), plbUse := ((List.range 64).filter (fun i => decide (16 ≤ i ∧ i ≠ 20))) ++ [20] }
      decide (refillSlot k = 20) && (List.range 64).all (fun q => decide (q < 16) || ((tget {} k.plb q).v && k.plbUse.contains q)))) = true := by decide +kernel
theorem witness_Shootdown :
    (let s := sMem .idle [] []
     let busy := s.setDie 0 { s.die 0 with shoot := 0x8000000000000010 }
     (s.die 0).shoot.getLsbD 63 = false ∧ (busy.die 0).shoot.getLsbD 63 = true ∧
     goesB (.shootdown 0 5) busy busy = true ∧ goes (.shootdown 0 5) s (fun t => decide ((t.die 0).shoot = 5)) = true ∧
     goes (.shootdown 0 0xC000000000000010) s (fun t => decide ((t.die 0).shoot.getLsbD 63 = false)) = true ∧ goes (.shootdown 0 0x8000000000000010) s (fun t => decide ((t.die 0).tlb = [] ∧ (t.die 0).fab = [])) = true ∧
     goes (.shootdownComplete 0) busy (fun t => decide ((t.die 0).shoot = 0x10)) = true ∧
     (busy.die 0).cores.all (fun q => !shootBusy (busy.die 0).shoot q.2) = true) := by decide +kernel

/-! ### The engines and the matrix arrays -/

/-- Entry 2 copies 64 bytes from 0x4000 to 0x5000. -/
def cp : PostEntry :=
  { op := .copy, src := some (linearWalk 0 0x4000 64), dst := some (linearWalk 0 0x5000 64), captured := true, met := true, issuer := { ix := 0, inc := 1 }, sk := 5, si := 1 }
def sEng (q : PostEntry) : State := sEv { ctxs := [(0, cmdCtx)], post := [(2, q)], pad := [(1024, { tag := 1, data := 9 })] } [] []
def busyE : Option (Nat × Nat × Bool) := some (0, 0, false)
theorem witness_EngineSteps :
    (let s := sEng cp
     let keyed := { cp with src := some { linearWalk 3 0x100000 64 with key := 5, pages := [(16, fa0)] } }
     let run := sEng { cp with engine := busyE }
     let over1 := { cp with engine := busyE, landed := [0], ended := true }
     -- ports
     goes (.commandCapture 0 0 0) (sEv { ports := [(0, { shadow := [(0, 5)], shadowCmd := some 2 })] } [] []) (fun t => decide (((t.act 0 0).port 0).activeCmd = some 2)) &&
     goes (.commandCapture 0 0 0) (sEv { ports := [(0, { activeCmd := some 2 })], post := [(2, { cp with captured := false })] } [] [])
       (fun t => decide ((tfind (t.act 0 0).post 2).map (·.captured) = some true)) &&
     -- dispatch, a missing key
     entryClear (s.core 0 0) cp && hazardFree (s.act 0 0) 2 cp && cp.op.byChunks && decide (keyMissing s 0 cp = none ∧ (engineFor s 0 0 cp).2.2 = false) &&
     goes (.commandDispatch 0 0 2) s (fun t => decide ((tfind (t.act 0 0).post 2).map (·.engine) = some busyE)) &&
     decide (keyMissing (sEng keyed) 0 keyed = some 0x100000) && goes (.commandDispatch 0 0 2) (sEng keyed) (fun t => (t.act 0 0).postFrozen) &&
     -- chunks
     chunkReady run (run.core 0 0) { cp with engine := busyE } 0 && (match moveChunk run 0 0 cp (linearWalk 0 0x5000 64) 0 with | .ok _ => true | .error _ => false) &&
     goes (.chunkLand 0 0 2 0 false) run (fun t => decide (padBytes (t.act 0 0).pad 1 0x5000 8 = 9 ∧ (tfind (t.act 0 0).post 2).map (·.landed) = some [0])) &&
     goes (.chunkLand 0 0 2 0 true) run (fun t => decide ((tfind (t.act 0 0).post 2).map (fun p => tget 0 p.retries 0) = some 1)) &&
     goes (.chunkLand 0 0 2 0 true) (sEng { cp with engine := busyE, retries := [(0, 3)] }) (fun t => (t.act 0 0).postFrozen) &&
     -- ends
     over1.done && goes (.completionMessage 0 0 2) (sEng { over1 with dk := 4, di := 2 }) (fun t => decide (((t.act 0 0).counter 4).value = 2)) &&
     goes (.completionMessage 0 0 2) (sEng { over1 with signalled := true }) (fun t => decide ((tfind (t.act 0 0).post 2).map (·.handled) = some true)) &&
     goes (.completionMessage 0 0 2) (sEng { over1 with signalled := true, handled := true }) (fun t => decide ((tfind (t.act 0 0).post 2).isNone ∧ ((t.act 0 0).counter 5).value = 1)) &&
     goes (.completionMessage 0 0 2) (sEng { cp with op := .launch 0, ended := true }) (fun t => decide ((tfind (t.act 0 0).post 2).isNone)) &&
     -- an SMIG; ends on another core, with a handler, at a package that cannot be reached
     (let g := { cp with op := .smig 7 0 3 0x40 0x100000 }
      entryClear (s.core 0 0) g && goes (.commandDispatch 0 0 2) (sEng g) (fun t => decide (t.migs.length = 1))) &&
     (let r := { over1 with dk := 4, di := 2, endCore := 1 }
      let u := sEng r
      (remoteUpd (u.setAct 0 0 { u.act 0 0 with post := tins (u.act 0 0).post 2 { r with signalled := true } }) 0 1 0 (.signal 4 2)).isSome &&
      goes (.completionMessage 0 0 2) u (fun t => decide (((t.act 0 1).counter 4).value = 2))) &&
     (let r := { over1 with signalled := true, hip := 0x40 }
      arrivalRoom ((sEng r).core 0 0) && goes (.completionMessage 0 0 2) (sEng r) (fun t => decide ((t.core 0 0).arr.length = 1 ∧ (tfind (t.act 0 0).post 2).map (·.handled) = some true))) &&
     (let r := { over1 with di := 2, endPkg := 0xFFF }
      endLost (sEng r) r && (failAddr (sEng r) 0 0 r).isSome && goes (.commandFail 0 0 2) (sEng r) (fun t => decide ((tfind (t.act 0 0).post 2).isNone))) &&
     -- a chunk that fails: a range of no page
     (let bad := { cp with engine := busyE, src := some (linearWalk 3 0x900000 64) }
      let u := sEng { bad with src := some { linearWalk 3 0x900000 64 with pages := [(0x90, mkFa 0 0 6 0 0)] } }
      match failAddr u 0 0 { bad with src := some { linearWalk 3 0x900000 64 with pages := [(0x90, mkFa 0 0 6 0 0)] } } with
      | some _ => goes (.commandFail 0 0 2) u (fun t => decide ((tfind (t.act 0 0).post 2).isNone ∧ tget 0 (t.core 0 0).perf 2 = 1))
      | none => false) &&
     -- the pool does not present a chunk
     (let far := { cp with engine := busyE, src := some { linearWalk 3 0x900000 64 with pages := [(0x90, mkFa 0 0 5 0 0)] } }
      (poolAddr [] far 0).isSome && goes (.cxlNotPresent 0 0 2) (sEng far) (fun t => decide ((tfind (t.act 0 0).post 2).map (·.cxlHeld) = some (some (0, 0))))) &&
     goes (.psortComplete 0 0 2) (sEng { cp with op := .psort 0x4000 4 2 0x5000 7 }) (fun t => decide ((tfind (t.act 0 0).post 2).isNone))) = true := by decide +kernel

/-- Command 7: an MMA of one row of one element (format 10, whole numbers), of gang `g`. -/
def ctl1 : W128 := BitVec.ofNat 128 (1 + 2 ^ 14 + 10 * 2 ^ 21)
def mc (st : Bool) (gr : Nat) (g : Option Nat) : MCmd :=
  { op := .mma 0 3 false ctl1 10 1 (some { linearWalk 0 0x4000 1 with fmt := 10, ext := [1, 1, 1, 1], str := [1, 1, 0, 0] })
    issuer := { ix := 0, inc := 1 }, wk := 0, wt := 0, sk := 5, si := 1, seq := 7, after := 0, gang := g, started := st, groups := gr }
def sMat (m : MCmd) : State :=
  sEv { ctxs := [(0, cmdCtx)], pad := [(1024, { tag := 1, data := 9 })], mcmds := [(7, m)], ports := [(1, { activeCmd := some 7 })], halves := [(0, { valid := true, mf := 10, kw := 1, size := 64 })] } [] []
def zCmd (st : Bool) : MCmd := { mc st 0 none with op := .mmz 8 }
theorem witness_MatrixSteps :
    (let s := sMat (mc false 0 none)
     decide (activeMatrix (s.act 0 0) = some (7, mc false 0 none)) && matrixClear (s.core 0 0) 7 (mc false 0 none) && decide ((s.die 0).capped = false) &&
     goes (.mmaStart 0 0) s (fun t => decide ((tfind (t.act 0 0).mcmds 7).map (·.started) = some true)) &&
     (let u := sMat (mc true 0 none)
      (match mmaOf u 0 0 (mc true 0 none) with | some x => decide (x.total = 1) | none => false) &&
      goes (.mmaGroupLand 0 0) u (fun t => decide ((tfind (t.act 0 0).mcmds 7).map (·.groups) = some 1))) &&
     goes (.mmaComplete 0 0) (sMat (mc true 1 none)) (fun t => decide ((tfind (t.act 0 0).mcmds 7).isNone ∧ ((t.act 0 0).counter 5).value = 1)) &&
     matrixClear ((sMat (zCmd false)).core 0 0) 7 (zCmd false) && goes (.mmzStart 0 0) (sMat (zCmd false)) (fun t => decide ((tfind (t.act 0 0).mcmds 7).map (·.started) = some true)) &&
     goes (.mmzComplete 0 0) (sMat (zCmd true)) (fun t => decide ((tfind (t.act 0 0).mcmds 7).isNone)) &&
     -- gangs
     (let g : Gang := { quad := 0, gs := 1, tag := 0, members := [0], formed := true, ctl := ctl1, z := false, bmf := 10 }
      let u := sMat (mc false 0 (some 4))
      let u := u.setDie 0 { u.die 0 with gangs := [(4, g)] }
      g.members.all (gangReady u 0 4) && goes (.gangStart 0 4) u (fun t => decide ((tfind (t.act 0 0).mcmds 7).map (·.started) = some true)) &&
      (let w := u.setAct 0 0 { u.act 0 0 with ctxs := [(0, { cmdCtx with wait := some .gang, gangWait := 65536 })] }
       let w := w.setDie 0 { w.die 0 with gangs := [(4, { g with formed := false })] }
       decide ((w.core 0 0).gangto.toNat ≤ ((w.act 0 0).ctx 0).gangWait) &&
       goes (.gangTimeout 0 0 0) w (fun t => decide (((t.act 0 0).ctx 0).gangFault = some (BitVec.ofNat 8 gangTimeoutCode) ∧ (tfind (t.act 0 0).mcmds 7).isNone)))) &&
     -- all members of a gang complete at once; the hart's arrival times out
     (let g : Gang := { quad := 0, gs := 1, tag := 0, members := [0], formed := true, ctl := ctl1, z := false, bmf := 10 }
      let u := sMat (mc true 1 (some 4))
      let u := u.setDie 0 { u.die 0 with gangs := [(4, g)] }
      g.members.all (mmaLanded u 0) && goes (.mmaComplete 0 0) u (fun t => decide ((tfind (t.act 0 0).mcmds 7).isNone ∧ (t.die 0).gangs = [])) &&
      (let hm := { mc false 0 (some 4) with issuer := { hart := true } }
       let w := sMat hm
       let w := w.setDie 0 { w.die 0 with gangs := [(4, { g with formed := false })] }
       let w := w.setAct 0 0 { w.act 0 0 with hgang := some { pc := 0x1000, n := 7, wait := 65536 } }
       decide ((waitingArrival (w.die 0) (w.act 0 0) (fun i q => decide (i = 7) && q.issuer.hart)).map (·.1) = some 4 ∧ (w.core 0 0).gangto.toNat ≤ 65536) &&
       goes (.gangTimeout 0 0 64) w (fun t => decide (((t.act 0 0).hgang.map (·.fault)) = some true ∧ (t.die 0).gangs = [])))) &&
     -- a half's image again: a record of one row at 0x4000 of the paddock
     (let r : HalfReplay := { src := some { linearWalk 3 0x100000 64 with pages := [(16, fa0)] }, size := 64 }
      let h : WHalf := { valid := true, mf := 10, kw := 1, size := 64, src := r.src, replay := some r }
      let u := sEv { ctxs := [(0, cmdCtx)], halves := [(0, h)] } [] []
      let keyed := { r with src := some { linearWalk 3 0x100000 64 with key := 5, pages := [(16, fa0)] } }
      decide (keyMissing u 0 (replayEntry 0 r) = none ∧ keyMissing u 0 (replayEntry 0 keyed) ≠ none) &&
      decide (((u.act 0 0).half 0).replay = some r ∧ ((u.act 0 0).half 1).replay = none) &&
      (match reload u 0 0 (replayEntry 0 r) (linearWalk 2 (halfBase 0) 64) (List.range (replayEntry 0 r).chunks) with | .ok _ => true | .error _ => false) &&
      goes (.weightReplayComplete 0 0 0 false) u (fun t => ((t.act 0 0).half 0).replay.isNone) &&
      goes (.weightReplayComplete 0 0 0 true) u (fun t => ((t.act 0 0).half 0).replay.isNone && decide (tget 0 (t.core 0 0).perf 2 = 1)))) = true := by
  decide +kernel

/-! ### Launches -/

/-- A record of `n`-bit width from fields: byte offset and value. -/
def recBytes (l : List (Nat × Nat)) : Nat := (l.map (fun p => p.2 * 2 ^ (8 * p.1))).sum
def pk (l : List (Nat × Nat)) : BitVec 2048 := BitVec.ofNat 2048 (recBytes l)
/-- Partition 1: cores 0 to 3, domain 0. -/
def part1 : BitVec 512 := BitVec.ofNat 512 (15 * 2 ^ 416 + 2 ^ 316)
/-- A launch of image 3 in partition 1: shape 1 1 1 1 1 1, no parameters; GLOAD, REPLAY and PATCH of graph 2; REGISTER of image 3. -/
def pLaunch : BitVec 2048 := pk [(0, 1), (3, 1), (4, 3), (8, 1), (0xA, 1), (0xC, 1), (0xE, 1), (0x10, 1), (0x12, 1), (1, 1)]
def pGload : BitVec 2048 := pk [(0, 2), (3, 1), (4, 2), (0x18, 0x100000), (0x2E, 1)]
def pReplay : BitVec 2048 := pk [(0, 3), (3, 1), (4, 2)]
def pPatch : BitVec 2048 := pk [(0, 4), (3, 1), (4, 2), (0x16, 4), (0x40, 0x11223344)]
def pPatchX : BitVec 2048 := pk [(0, 4), (3, 1), (4, 2), (0x16, 4), (0x2E, 1), (0x40, 0x11223344)]
def pReg : BitVec 2048 := pk [(0, 5), (4, 3), (0x18, 0x100000)]
def img0 : BitVec 1024 := BitVec.ofNat 1024 (recBytes [(0, 0x4C454B4D), (4, 1), (0x10, 32), (0x24, 0x80), (0x28, 0x40)])
def sLau (mem : Mem) (gs : Sparse Graph) (aper : List (Nat × (BitVec 2048 × Bool))) : State :=
  let s := sTab .idle
  let s := { s with mem := mem, graphs := gs, aper := aper, images := [(3, { va := 0x100000, hdr := img0 })] }
  let s := s.setDie 0 { s.die 0 with parts := [(1, part1)], ctl := [(0x70008, 2), (0x70010, 1)] }
  s.setAct 0 0 { s.act 0 0 with part := some 1 }
def hs0 : PktSrc := .host 0 0 0
def sPk (w : BitVec 2048) (gs : Sparse Graph) : State := sLau tables gs [(0, (w, false))]
def tookB (s : State) (w : BitVec 2048) : Bool := match takePacket s hs0 w false with | .took _ d r => d == 0 && r.src.isHost | _ => false
theorem witness_LaunchPackets :
    (fnLen (sPk pLaunch []) 0 0 && !fnFrozen (sPk pLaunch []) 0 0 && [pLaunch, pGload, pReplay, pPatch, pReg].all (fun w => packetOk w true && tookB (sPk w []) w) &&
     !packetOk (pk [(0, 9)]) true && tookB (sPk (pk [(0, 9)]) []) (pk [(0, 9)]) && decide (tfind (sPk pLaunch []).aper 5 = none) &&
     decide (unbound (sPk pLaunch []) { src := .host 0 0 } 1 = none ∧ unbound (sPk pLaunch []) { src := .host 0 0 } 4 = some (0, 0)) &&
     goes (.launchPacket hs0 pReplay false) (sPk pLaunch []) (fun t => decide (t.aper.length = 1)) &&
     -- LAUNCH of an image that is there, and of none
     goes (.launchPacket hs0 pLaunch false) (sPk pLaunch []) (fun t => decide (t.launches.length = 1 ∧ t.aper = [])) &&
     goes (.launchPacket hs0 (pLaunch ||| 0x400000000) false) (sPk (pLaunch ||| 0x400000000) []) (fun t => decide (t.launches = [])) &&
     -- REPLAY and PATCH of a graph of one node, and of none
     (let g : Graph := { nodes := [{ rcd := pLaunch }] }
      let full : Graph := { g with queue := List.replicate 8 (0, {}) }
      goes (.replayPacket hs0 pReplay false) (sPk pReplay [(66, g)]) (fun t => decide ((tget {} t.graphs 66).queue.length = 1)) &&
      goes (.replayPacket hs0 pReplay false) (sPk pReplay [(66, full)]) (fun t => decide ((tget {} t.graphs 66).queue.length = 8)) &&
      goes (.replayPacket hs0 pReplay false) (sPk pReplay []) (fun t => decide (t.graphs = [])) &&
      goes (.patchPacket hs0 pPatch false) (sPk pPatch []) (fun t => decide (t.graphs = [])) &&
      -- REPLAY and PATCH in a domain the partition does not have, a node that is not there, one that is not inline
      !((sPk pReplay []).die 0).permits (some 1) 3 && ((sPk pReplay []).die 0).permits (some 1) 0 && replayFirst (sPk pReplay [(66, g)]) hs0 pReplay &&
      (let g : Graph := { nodes := [{ rcd := 1 }] }
       !pInl 1 && goes (.patchPacket hs0 pPatch false) (sPk pPatch [(66, g)]) (fun t => decide (t.graphs = [(66, g)]))) &&
      goes (.patchPacket hs0 pPatchX false) (sPk pPatchX [(66, g)]) (fun t => decide (t.graphs = [(66, g)])) &&
      decide (g.nodes[pNode pPatchX]? = none) && packetOk pPatchX true &&
      [pReplay, pPatch].all (fun w => let w := w ||| (BitVec.ofNat 2048 (3 * 2 ^ 48))
        goes (if pType w = 3 then .replayPacket hs0 w false else .patchPacket hs0 w false) (sPk w [(66, g)]) (fun t => decide (t.graphs = [(66, g)]))))) = true := by decide +kernel
/-- A slot written while it is busy and while its function is frozen, and a packet of a partition that its function does not have (R411, R412, R439). -/
theorem witness_Aperture :
    (goes (.launchPacket (.host 0 0 5) pLaunch false) (sPk pLaunch []) (fun t => decide (tfind t.slots 5 = some pLaunch ∧ tfind t.aper 5 = some (pLaunch, false))) &&
     (let s := { sPk pLaunch [] with fnFrz := 1 }
      fnFrozen s 0 0 && goes (.launchPacket hs0 pLaunch false) s (fun t => decide (t.aper = []))) &&
     (let w := pk [(0, 3), (3, 4), (4, 2)]
      tookB (sPk w []) w && packetOk w true && goes (.replayPacket hs0 w false) (sPk w []) (fun t => decide (t.fnFrz = 1)))) = true := by decide +kernel


/-- The tables with a second page, 0x110000 in the fabric SRAM, and there `l`: offset, bytes, value. -/
def fa2 : Nat := mkFa 0 0 2 0 0x10000
def tables2 (l : List (Nat × Nat × Nat)) : Mem :=
  ([(hbm 0x240000, 16, 0x10 + 2 * 2 ^ 48 + 31 * 2 ^ 64), (hbm 0x320288, 8, fa2 + 3)] ++ l.map (fun (x : Nat × Nat × Nat) => (fa2 + x.1, x.2.1, x.2.2))).foldl
    (fun (m : Mem) (x : Nat × Nat × Nat) => memWrite m x.1 x.2.1 x.2.2) tables
def inl : BitVec 2048 := pLaunch ||| 0x100 ||| (BitVec.ofNat 2048 (4 * 2 ^ 176))
theorem witness_Patch :
    (let g : Graph := { va := 0x110000, nodes := [{ rcd := inl }] }
     let s := sLau (tables2 []) [(66, g)] [(0, (pPatch, false))]
     pInl inl && (match unitPages 0 0 [2] (pagesOf 0x110040 4) s with | (_, some _) => true | _ => false) &&
     goes (.patchPacket hs0 pPatch false) s (fun t => decide (memRead t.mem (fa2 + 0x40) 4 = 0x11223344 ∧
       ((tget {} t.graphs 66).nodes.map (fun n => fieldAt n.rcd 0x40 4)) = [0x11223344]))) = true := by decide +kernel
/-- The bytes `v` at 0x110000, in eight dirty lines of core 0. -/
def inCache (s : State) (v : Nat) : State :=
  let s := s.setDie 0 { s.die 0 with dir := (List.range 8).map (fun i => (fa2 + 64 * i, { st := .o, ptrs := [.core 0] })) }
  s.setAct 0 0 { s.act 0 0 with
    lines := (List.range 8).map (fun i => (fa2 + 64 * i, { va := 0x110000 + 64 * i, data := BitVec.ofNat 512 (v >>> (512 * i)), dirty := true })) }
def pG2 : BitVec 2048 := pk [(0, 2), (3, 1), (4, 2), (0x18, 0x110000), (0x2E, 1)]
def sGl : State := inCache (sLau (tables2 []) [] [(0, (pG2, false))])
  (recBytes [(0, 1), (3, 1), (4, 3), (8, 1), (0xA, 1), (0xC, 1), (0xE, 1), (0x10, 1), (0x12, 1), (1, 1)])
theorem witness_Gload : goes (.gloadPacket hs0 pG2 false) sGl (fun t => decide ((tget {} t.graphs 66).nodes.length = 1)) = true := by decide +kernel
def pR2 : BitVec 2048 := pk [(0, 5), (4, 3), (0x18, 0x110000)]
def imgBytes (crc : Nat) : Nat := img0.toNat + crc * 2 ^ (8 * 0x7C)
def imgCrc : Nat := crc32c ((List.range 188).map (fun i => BitVec.ofNat 8 (img0.toNat / 2 ^ (8 * (if i < 0x7C then i else i + 4)))))
theorem witness_Register :
    goes (.registerPacket hs0 pR2 false) (inCache (sLau (tables2 []) [] [(0, (pR2, false))]) (imgBytes imgCrc))
      (fun t => decide ((tfind t.images 3).map (·.va) = some 0x110000)) = true ∧
    goes (.registerPacket hs0 pR2 false) (inCache (sLau (tables2 []) [] [(0, (pR2, false))]) 0)
      (fun t => decide ((tfind t.images 3).map (·.va) = some 0x100000)) = true := by decide +kernel

/-- Launch 4 of one task on core 0 of partition 1; its share waits at the head of the queue. -/
def lau (placed : Bool) (todo : List Task) : Launch :=
  { hdr := img0, part := 1, prio := 2, shape := [1, 1, 1, 1, 1, 1], shares := [{ die := 0, ord := 0, placed := placed, todo := todo }] }
def sShare (l : Launch) : State :=
  let s := sLau [] [] []
  let s := { s with launches := [(4, l)] }
  s.setDie 0 { s.die 0 with lq := [(10, [4])] }
def tk0 : Task := { core := 0, lco := 0, wp := 0x8080, base := 0 }
theorem witness_LaunchShares :
    (let l := lau false []
     let s := sShare l
     decide (l.shares.find? (fun h => decide (h.die = 0) && !h.placed) = some { die := 0, ord := 0 } ∧ pkgOrd s 0 1 = some 0 ∧ shareFirst (s.die 0) l 4 = true) &&
     (match shareTasks (s.die 0) l 0 0 with | [(c, _)] => c == 0 | _ => false) && coreTakes s 0 0 1 l 4 &&
     (match dealPlaces (decide (hScratch l.hdr ≠ 0)) (shareTasks (s.die 0) l 0 0) [0x8080] with | some todo => (reserveAll l.hdr (s.die 0) todo).isSome | none => false) &&
     goes (.sharePlace 4 0 [0x8080]) s (fun t => decide (((tfind t.launches 4).map (fun m => m.shares.map (·.placed)) = some [true]) ∧ tget [] (t.die 0).lq 10 = [])) &&
     -- its task, and its end
     (let u := sShare (lau true [tk0])
      (match createTask (u.core 0 0) 4 (lau true [tk0]) tk0 0 with | .ok _ => true | .error _ => false) &&
      goes (.taskCreate 4 0 0) u (fun t => decide (((t.act 0 0).ctx 0).state = .ready ∧ ((t.act 0 0).ctx 0).launch = some 4)) &&
      !launchOver u 4 (lau true [tk0]) && goesB (.launchComplete 4) u u) &&
     (let l := { lau true [] with reply := { src := .node 66 0 0 } }
      launchOver (sShare l) 4 l && goes (.launchComplete 4) (sShare l) (fun t => decide (t.launches = []))) &&
     launchOver (sShare (lau true [])) 4 (lau true []) && goes (.launchComplete 4) (sShare (lau true [])) (fun t => decide (t.launches = [])) &&
     -- a replay of one inline node
     (let g : Graph := { nodes := [{ rcd := inl }], queue := [(0, {})] }
      goes (.replayStart 1 2) (sLau [] [(66, g)] []) (fun t => decide (((tget {} t.graphs 66).running.map (·.left)) = some [(0, 0)] ∧ t.launches.length = 1)))) = true := by decide +kernel

/-! ### Scheduling -/

/-- Core 0 of die 0 changed by `f`, in partition 1 of cores 0 to 3. -/
def sSch (f : Core → Core) : State :=
  let s := sEv {} [] []
  let s := s.setDie 0 { s.die 0 with parts := [(1, part1)], ctl := [(0x30008, 0x100000)] }
  s.setCore 0 0 (f (s.core 0 0))
def inPart (a : SetState) : SetState := { a with part := some 1 }
theorem witness_LoadsMoves :
    (let s := sSch (fun k => { k with act := inPart { runq := [5], ctxs := [(5, { c0 with state := .ready, stream := noHandle })] }, load := 60 })
     let s := s.setCore 0 1 { s.core 0 1 with act := inPart (s.core 0 1).act, load := 3 }
     decide ((s.core 0 0).cyc.toNat % 64 = 0 ∧ (s.die 0).dcyc.toNat % 64 = 0) && goes (.loadRefresh 0 0) s (fun t => decide (fld (t.core 0 0).load 6 0 = 1)) &&
     (let u := s.setDie 0 { s.die 0 with slices := [(1, { running := true, remain := 9 })] }
      goes (.sliceCopy 0 0) u (fun t => decide ((t.core 0 0).running = true ∧ (t.core 0 0).remain = 9)) && goes (.sliceCopy 0 9) u (fun t => decide ((t.core 0 9).remain = 0))) &&
     decide ((s.core 0 0).hwm.toNat < loadDepth (s.die 0) 0 ∧ (s.core 0 0).moved = none ∧ (s.core 0 0).halted = false) &&
     decide (((s.act 0 0).runq.filter (movable s (s.core 0 0))).getLast? = some 5) &&
     decide (leastOf (loadDepth (s.die 0)) ((List.range 96).filter (fun i => decide (i ≠ 0 ∧ ((s.die 0).core i).act.part = (s.act 0 0).part))) = some (1, 3)) &&
     (freeIx (s.core 0 1).act).isSome && !(movePlaces (s.core 0 1) 128).isEmpty && storesGone (s.core 0 0) 5 1 && !sharePending s 0 1 &&
     -- the moved context arrives
     (let p := pktOf 0 (.context { c0 with state := .ready } [(4, 9)] [] 0x8080)
      let u := sEv { resv := [(0x8000, 128 + 16 * 128)] } [] [p]
      decide ((u.ready 0).isSome ∧ freeIx (u.act 0 0) = some 0) && (createWait (u.core 0 0) [(0x8000, 128 + 16 * 128)]).isNone &&
      goes (.contextMigrateArrival 0) u (fun t => decide (((t.act 0 0).ctx 0).state = .ready ∧ ((t.act 0 0).ctx 0).wp = 0x8080 ∧ regRaw (t.act 0 0) ((t.act 0 0).ctx 0) 4 = 9)))) = true := by
  decide +kernel
theorem witness_Generations :
    (let s := sSch (fun k => { k with act := { pad := [(2, { tag := 3, data := 7 })] }, shear := { waiting := true, stalled := 4096 } })
     decide (tget 0 (s.core 0 0).shear.pos 0 < 4096 ∧ (s.core 0 0).shear.setB = (s.core 0 0).setB) && twf {} (s.act 0 0).pad &&
     goes (.shearerScan 0 0 0) s (fun t => decide (tget {} (t.act 0 0).pad 2 = { tag := 0, data := 7 })) &&
     goes (.shearForcedRate 0 0) s (fun t => (t.core 0 0).shear.forced) &&
     (let u := sSch (fun k => { k with shd := { pad := [(2, { tag := 3, data := 7 })] }, shear := { setB := !k.setB } })
      decide ((u.core 0 0).shear.setB ≠ (u.core 0 0).setB) && goes (.shearerScan 0 0 0) u (fun t => decide (tget {} (t.core 0 0).shd.pad 2 = { tag := 0, data := 7 }))) &&
     -- the save area's generation 2 is 256 away from NEXT at 769, and within the lead at 770
     (let u := sSch (fun k => { k with act := { saveGen := 2, pad := [(4, { tag := 2, data := 1 })] }, next := 770 })
      decide (liveRegion (u.act 0 0) 64 0 = some (0, 0x2000, 2)) && inLead 770 2 && !inLead 769 2 && inLead 1023 2 &&
      !leadBusy 770 (dueGens 770 (u.act 0 0) ++ dueGens 770 (u.core 0 0).shd) (u.act 0 0).pad &&
      goes (.regionRenew 0 0 false 64 0) u (fun t => decide ((t.act 0 0).saveGen = 770 ∧ (t.core 0 0).next = 771 ∧ tget {} (t.act 0 0).pad 4 = { tag := 770, data := 1 }))) &&
     goes (.bankWake 0 0) (sSch (fun k => { k with act := { gated := 6 }, wake := 2 })) (fun t => decide ((t.act 0 0).gated = 4 ∧ (t.core 0 0).wake = 0))) = true := by
  decide +kernel
theorem witness_Preemption :
    (let s := sSch (fun k => { k with act := inPart {} })
     let sl := fun (x : Slice) => s.setDie 0 { s.die 0 with slices := [(1, x)] }
     goes (.sliceExpiry 0 1) (sl { running := true }) (fun t => decide ((tfind (t.die 0).slices 1).map (·.preq) = some false)) &&
     -- another partition's READY context waits in the shadow set: a request, unless the slice's last task has retired
     (let w := fun (x : Slice) => let s := sSch (fun k => { k with act := inPart {}, shd := { part := some 2, ctxs := [(5, { c0 with state := .ready })], runq := [5] } })
        s.setDie 0 { s.die 0 with slices := [(1, x)] }
      otherWaits ((w {}).die 0) 1 && goes (.sliceExpiry 0 1) (w { running := true }) (fun t => decide ((tfind (t.die 0).slices 1).map (·.preq) = some true)) &&
      goes (.sliceExpiry 0 1) (w { running := true, quiet := true }) (fun t => decide ((tfind (t.die 0).slices 1).map (·.preq) = some false))) &&
     (let u := (sl { preq := true }).setCore 0 0 { s.core 0 0 with preq := true, pack := true }
      goes (.preemptOrder 0 1) u (fun t => (t.core 0 0).ordered)) &&
     (let u := sSch (fun k => { k with swap := .draining, act := { pad := [(4, { tag := 2, data := 1 })] } })
      drainedCore (u.core 0 0) && decide ((u.die 0).gangs = []) && goes (.shswapExchange 0 0) u (fun t => decide ((t.core 0 0).setB = true ∧ (t.core 0 0).shd.pad.length = 1))) &&
     goes (.preemptLate 0 0) (sl { preq := true, since := 1048576 }) (fun t => decide ((tfind (t.die 0).slices 1).map (·.late) = some 1 ∧ t.postBox.lost = 1)) &&
     goes (.freezePacket 0) { sSch id with net := [{ pktOf 0 (.freeze { core := 2, hart := true } 3 9) with cls := 0 }] } (fun t => (t.core 0 2).frz) &&
     goes (.fthawWrite 0 5) { s with fnFrz := 7 } (fun t => decide (t.fnFrz = 2)) &&
     -- partitions
     partLive (s.setAct 0 0 (inPart { ctxs := [(0, c0)] }) |>.die 0) 1 && !partLive (s.die 0) 1 && decide (partNdom part1 ≤ 8 ∧ 8 < partNdom (part1 ||| (BitVec.ofNat 512 (9 * 2 ^ 316)))) &&
     goes (.partitionWrite 0 1 part1) s (fun t => decide ((t.die 0).part 1 = part1)) &&
     goes (.partitionWrite 0 1 (part1 ||| (BitVec.ofNat 512 (9 * 2 ^ 316)))) { s with postBox := { s.postBox with en := true } } (fun t => decide ((t.die 0).reports.length = 1 ∧ (t.die 0).part 1 = part1))) = true := by decide +kernel

/-- Translation tables in dirty lines of core 5: two pages of 2 MiB at 0 and 0x200000, and 32 pages of 64 KiB in the list of domain 0. -/
def tabLines : List (Nat × Nat) :=
  [(0x200000, hbm 0x240000 + 2 ^ 64 + 2 ^ 127), (0x240000, 0x10 + 32 * 2 ^ 48 + 31 * 2 ^ 64), (0x300000, hbm 0x310000 + 1), (0x310000, hbm 0x320000 + 1),
    (0x320000, hbm 0x320100 + 1), (0x320100, (hbm 0x400000 + 3) + (hbm 0x600000 + 3) * 2 ^ 64)]
def sImg (f : Core → Core) (v : Sparse Saved) : State :=
  let s := sSch f
  let s := s.setDie 0 { s.die 0 with ddir := BitVec.ofNat 64 (hbm 0x200000), root := BitVec.ofNat 64 (hbm 0x300000), saved := v,
                                     dir := tabLines.map (fun p => (hbm p.1, { st := .o, ptrs := [.core 5] })) }
  s.setAct 0 5 { s.act 0 5 with lines := tabLines.map (fun p => (hbm p.1, { va := p.1, data := BitVec.ofNat 512 p.2, dirty := true })) }
theorem witness_Images :
    (let s := sImg (fun k => { k with shd := inPart { pad := [(600, { tag := 1, data := 5 })] } }) []
     savable (s.core 0 0).shd && decide ((s.core 0 0).shd.part = some 1 ∧ (tfind (s.die 0).saved 128).isNone ∧ (s.core 0 0).shd.lines = []) &&
     decide (imageSize * 0 = 0 ∧ saveVa (s.die 0) 1 = 0x100000) && (imagePages 0 0x100000 (List.range 23) s).2.isSome &&
     (let u := sImg id [(128, {})]
      (imagePages 0 0x100000 (List.range 23) u).2.isSome && decide ((u.core 0 0).shd.part = none ∧ (u.core 0 0).shd.anyLive = false) && partCore ((u.die 0).part 1) 0 &&
      -- a generation for its one region, or none while Alloc stalls
      decide ((inPart {}).regionKeys.length = 1 ∧ (drawGens (u.core 0 0) [] 1).2.length = 1) &&
      (let w := sImg (fun k => { k with next := 5, act := { pad := [(4, { tag := 5, data := 1 })] } }) [(128, {})]
       decide ((drawGens (w.core 0 0) [] 1).2.length < 1) && (imagePages 0 0x100000 (List.range 23) w).2.isSome &&
       decide ((w.core 0 0).shd.part = none ∧ (w.core 0 0).shd.anyLive = false)))) = true := by decide +kernel

/-! ### Droves, frames, migration, joins -/

/-- Residency entry 4: weight 1, no wait, every quad, handler 0x40; stream 0 queued there. -/
def res4 : BitVec 128 := BitVec.ofNat 128 (2 ^ 124 + (2 ^ 24 - 1) * 2 ^ 60 + 0x40)
def sFold (x : Stream) (q : List (Nat × Nat)) : State :=
  let s := sEv {} [] []
  s.setDie 0 { s.die 0 with streams := [(0, x)], resid := [(4, res4)], dq := [(4, q)], spw := tset 0 pools 0x98 (BitVec.ofNat 64 fa0), frames := [(5, { refs := 1 })] }
/-- A free buffer is there: whichever the free value picks, it is one. -/
theorem freeList_isSome {s : State} {v : Die} (h0 : spReg v 0x98 ≠ 0)
    (h : ((List.range 64).filter (fun i => !(v.streams.filterMap (fun p => p.2.list)).contains i)).isEmpty = false) : ∃ b, freeList s v = some b := by
  unfold freeList
  simp only [if_neg h0, h]
  have hp : 0 < ((List.range 64).filter (fun i => !(v.streams.filterMap (fun p => p.2.list)).contains i)).length := by
    cases hl : (List.range 64).filter (fun i => !(v.streams.filterMap (fun p => p.2.list)).contains i) with
    | nil => rw [hl] at h; cases h
    | cons => simp
  exact ⟨_, List.getElem?_eq_getElem (Nat.mod_lt _ hp)⟩
theorem witness_Droves :
    (let s := sFold { str0 with st := .ready } [(0, 3)]
     let v := s.die 0
     decide ((((tget [] v.dq 4).take 256).map (·.1)).find? (fun i => (s.stream 0 i).bad) = none) && droveDue (v.res 4) (tget [] v.dq 4) && decide (nextQuad v 4 (v.res 4) = some 0) && arrivalRoom (v.core (shallowCore v 0)) && decide (spReg v 0x98 ≠ 0) &&
     !((List.range 64).filter (fun i => !(v.streams.filterMap (fun p => p.2.list)).contains i)).isEmpty &&
     (let u := s.setDie 0 { v with spw := [] }
      decide (freeList u (u.die 0) = none) && goes (.droveDispatch 0 4) u (fun t => decide (tget 0 (t.die 0).perf 0xA = 1))) &&
     goes (.residencyWrite 0 9 res4) s (fun t => decide ((t.die 0).res 9 = res4)) && goesB (.frameCascade 0) s s &&
     -- frame 5 of the pool of HBM goes to frame 6
     (let u := s.setDie 0 { v with streams := [(0, { str0 with croot := entryOf 5 })] }
      decide (tfind (u.die 0).frames 5 = some { refs := 1 } ∧ 6 < poolCount (u.die 0) 0 false ∧ tfind (u.die 0).frames 6 = none) &&
      goes (.tierMove 0 0 false 5 0 6) u (fun t => decide ((t.stream 0 0).croot = entryOf 6 ∧ (t.die 0).frame 6 = { refs := 1 })))) = true := by decide +kernel
theorem witness_Migration :
    (let mg := fun (f : Bool) (di : Option Nat) => { die := 1, dst := fa0, frozen := f, di := di : Migration }
     let on := fun (x : Stream) (y : Migration) => ({ sFold x [] with migs := [(3, y)] } : State)
     ([{ str0 with st := .migrating }, { str0 with st := .droved }, { str0 with st := .waitPage }, { str0 with spec := true }] : List Stream).all (fun x =>
       decide ((on x (mg false none)).streamOf 0 = some (0, 0)) && goes (.migrationPull 3) (on x (mg false none)) (fun t => decide (t.migs = []))) &&
     goes (.migrationPull 3) (on str0 (mg false none)) (fun t => decide ((t.stream 0 0).st = .migrating ∧ (tfind t.migs 3).map (·.frozen) = some true)) &&
     homeFree (on str0 (mg false none)) fa0 && decide (streamError (on str0 (mg false none)) 0 0 true = none) &&
     (let lost := on { str0 with bad := true } (mg false none)
      (streamError lost 0 0 true).isSome && goes (.migrationPull 3) lost (fun t => decide (t.migs = []))) &&
     (let u := on { str0 with st := .migrating, croot := 0, pen := 0 } (mg true none)
      match u.allocStream 1 with
      | some (_, v) => (match pullTree 0 1 2 0 v with | .ok (v2, _) => (match pullTree 0 1 0 0 v2 with | .ok _ => true | .error _ => false) | .error _ => false)
      | none => false) &&
     (let u := on { str0 with st := .migrating } (mg true none)
      let u := u.setDie 1 { u.die 1 with fresh := 8192 }
      (u.allocStream 1).isNone && goes (.migrationPull 3) u (fun t => decide (t.migs = []))) &&
     (let u := on { str0 with st := .migrating, pst := .idle } (mg true (some 2))
      goes (.migrationSwitch 3) u (fun t => decide ((t.stream 1 2).st = .idle ∧ (t.stream 0 0).st = .free ∧ t.migs = [])))) = true := by decide +kernel
theorem witness_JoinArrivals :
    (let on := fun (g : Group) (b : Payload) (ask : Ask) =>
       let s := { sJoin [(0, g)] with net := [pktOf 0 b] }
       s.setPend ag0 { ask := ask }
     let post := .post 0 5 6 none ag0
     decide (((on grp0 post .post).ready 0).isSome) && goes (.joinArrival 0) (on grp0 post .idle) (fun t => decide ((t.pend ag0).ask = .idle)) &&
     decide (arrivalStatus (on { grp0 with closed := true } post .idle) 0 (some 0) = 7) && goes (.joinArrival 0) (on { grp0 with closed := true } post .idle) (fun t => decide (t.net = [])) &&
     goes (.joinArrival 0) (on grp0 post .post) (fun t => decide ((t.pend ag0).status = some 0 ∧ (t.group 0 0).arr = 1)) &&
     goes (.childResultArrival 0) (on grp0 (.child 0 9 []) .idle) (fun t => decide ((t.group 0 0).arr = 1)) &&
     goes (.childResultArrival 0) (on grp0 (.child 9 9 []) .idle) (fun t => decide (t.net = [])) &&
     goes (.descentStep 0) (on { grp0 with st := .descent, op := 4 } (.descent 0 none) .idle) (fun t => decide (t.net = [] ∨ (t.net.map (·.id)) ≠ [0])) &&
     goes (.joinPrune 0) { on { grp0 with frees := 1 } (.prune 0 0) .idle with dies := (sFold str0 []).dies, net := [pktOf 0 (.prune 0 0)] } (fun t => decide ((t.stream 0 0).st = .free)) &&
     goes (.joinPrune 0) (on { grp0 with frees := 1 } (.prune 77 0) .idle) (fun t => decide (t.net = [])) &&
     goes (.joinArrival 0) (on grp0 (.get 0 false ag0) .post) (fun t => decide ((t.pend ag0).status = some 0 ∧ (t.group 0 0).st = .open)) &&
     goes (.joinArrival 0) (on grp0 (.get 0 true ag0) .post) (fun t => decide ((t.pend ag0).status = some 0 ∧ (t.group 0 0).closed = true)) &&
     (let u := { on { grp0 with frees := 1 } (.prune 0 0) .idle with dies := (sFold { str0 with bad := true } []).dies, net := [pktOf 0 (.prune 0 0)] }
      (streamError u 0 0 false).isSome && goes (.joinPrune 0) u (fun t => decide ((t.stream 0 0).st = .free)))) = true := by decide +kernel

/-! ### The fabric, the host, management -/

/-- A packet from die 0 to die 5 of class 1. -/
def pktFar (loc waited : Nat) (ev : Bool) : Packet := { pktOf 0 (.signal 5 3 0 none) with die := 5, loc := loc, waited := waited, evicted := ev }
def sNet (l : List Packet) : State := { State.reset with net := l }
def fnRegs : Sparse W64 := [(0x70010, BitVec.ofNat 64 (2 ^ 43 + 1)), (0x70018, BitVec.ofNat 64 fa0)]
def sHost : State := withPage (State.reset.setDie 0 { State.reset.die 0 with ctl := fnRegs })
theorem witness_Fabric :
    (let s := sNet [pktFar 0 0 false]
     decide ((s.pkt 0) = some (pktFar 0 0 false) ∧ outranked s (pktFar 0 0 false) = false ∧ exitDie s (pktFar 0 0 false) = 5 ∧ nextDie 0 5 = 1) &&
     goes (.packetRoute 0 none) s (fun t => t.net.map (fun p => (p.loc, p.waited)) == [(1, 0)]) && goesB (.packetRoute 0 none) (sNet [pktFar 5 0 false]) (sNet [pktFar 5 0 false]) &&
     (let o := sNet [pktFar 0 0 false, { pktFar 0 0 false with id := 1, cls := 0 }]
      outranked o (pktFar 0 0 false) && goesB (.packetRoute 0 none) o o) &&
     (let f := { pktFar 5 0 false with pkg := 9 }
      let f := { f with loc := exitDie (sNet [f]) f }
      (sNet [f]).unreachable 9 && decide (f.loc = exitDie (sNet [f]) f) && goes (.packetRoute 0 none) (sNet [f]) (fun t => decide (t.net = []))) &&
     goes (.classAging 0) (sNet [pktFar 0 1024 false]) (fun t => t.net.map (·.loc) == [1]) &&
     goes (.evictionNotice 0) (sNet [pktFar 3 7 true]) (fun t => t.net.map (fun p => (p.loc, p.evicted)) == [(0, false)]) &&
     goes (.endToEndAck 7) { State.reset with kept := [7, 8] } (fun t => t.kept == [8]) &&
     -- a packet of class 0 evicts the one of the lowest class in the buffer it enters, and no other
     (let u := { pktFar 0 0 false with cls := 0 }
      let q := { pktFar 1 0 false with id := 1, cls := 2, via := enterPort 0 1 0 }
      let o := sNet [u, q, { q with id := 2, cls := 1 }]
      victimOk o u 1 && !victimOk o u 2 && goes (.packetRoute 0 (some 1)) o (fun t => t.net.map (fun p => (p.loc, p.evicted)) == [(1, false), (1, true), (1, false)])) &&
     headOfClass (sNet [pktFar 0 1024 false]) (pktFar 0 1024 false)) = true := by decide +kernel
theorem witness_Links :
    (let worn := fun (n : Nat) => State.reset.setDie 0 { State.reset.die 0 with laneErr := [(256 * 138, n)], ctl := [(0x58000, 5 * 2 ^ 32)] }
     isPort 0 138 && !isPort 0 130 && !isPort 0 129 && goes (.flitReplay 0 138 0) (worn 4) (fun t => decide (tget 0 (t.die 0).laneErr (256 * 138) = 5)) &&
     !laneWorn ((worn 4).die 0) (256 * 138) && laneWorn ((worn 5).die 0) (256 * 138) && decide (((worn 4).die 0).spares 0 138 ≠ 0) &&
     goes (.laneRetrain 0 138 0) (worn 5) (fun t => decide (tget 0 (t.die 0).laneErr (256 * 138) = 0)) &&
     goes (.linkUp 2) { State.reset with boot := 5, up := 0 } (fun t => decide (t.up = 4)) && goes (.linkDown 2) { State.reset with up := 4 } (fun t => decide (t.up = 0)) &&
     (let c := fun (n : Nat) => State.reset.setDie 0 { State.reset.die 0 with rowErr := [(2 ^ 40 * 129 + 7, n)], ctl := [(0x58000, 5 * 2 ^ 32)] }
      decide (wornChannel ((c 5).die 0) 1 = some (2 ^ 40 * 129 + 7) ∧ wornChannel ((c 5).die 0) 0 = none ∧ wornChannel ((c 4).die 0) 1 = none) &&
      goes (.hbmChannelSpare 0 1) (c 5) (fun t => decide ((t.die 0).spares 0 129 + 1 = ((c 5).die 0).spares 0 129))) &&
     (let r := State.reset.setDie 0 { State.reset.die 0 with failAt := some 0, dcyc := 0x1000000 }
      goes (.rateWindow 0) r (fun t => decide ((t.die 0).failAt = none)))) = true := by decide +kernel
theorem witness_HostPorts :
    (let s := sHost
     !fnFrozen s 0 0 && bar4Ok s 0 0 0x40 4 && !bar4Ok s 0 0 0xFFFE 4 && homeFree s (fa0 + 0x40) &&
     goes (.bar4Write 0 0 0x40 [1, 2] false) s (fun t => decide (memRead t.mem (fa0 + 0x40) 2 = 0x201)) &&
     goes (.bar4Write 0 0 0xFFFF [1, 2] false) s (fun t => decide (t.hostOut = [.unsupported 0 0] ∧ t.fnFrz = 1)) && decide (s.badWord (fa0 + 0x40) 2 = none) &&
     (let u := { s with memBad := [fa0 + 0x40] }
      decide (u.badWord (fa0 + 0x40) 2 = some (fa0 + 0x40)) && goes (.bar4Read 0 0 0x40 2) u (fun t => decide (t.hostOut = [.abort 0 0]))) &&
     goes (.bar4Read 0 0 0x40 2) { s with mem := memWrite [] (fa0 + 0x40) 2 0x201 } (fun t => decide (t.hostOut = [.data 0 0 [1, 2]])) &&
     goes (.bar4Read 0 0 0x40 2) { s with fnFrz := 1 } (fun t => decide (t.hostOut = [.abort 0 0])) &&
     goes (.configRequest 0 3) s (fun t => decide (t.hostOut = [.configured 0 3 (2 ^ 36)])) && goes (.configRequest 1 3) { s with boot := 4 } (fun t => decide (t.hostOut = [.retry 1 3])) &&
     (let p := { s with postBox := { s.postBox with en := true, base := 0x8000, vec := 3 } }
      let p := p.setDie 0 { p.die 0 with reports := [{ kind := 5, body := 1 }] }
      decide (p.postBox.full = false) && goes (.postRecord 0) p (fun t => decide (t.postBox.seq = 1 ∧ t.msix = [(0, 0, 3)] ∧ (t.die 0).reports = []))) &&
     goes (.pbctlWrite 0x30201) s (fun t => decide (t.postBox.en = true ∧ t.postBox.vec = 3 ∧ t.postBox.size = 2)) &&
     goes (.pbctlWrite 0x30B01) s (fun t => decide (t.postBox.size = 0)) && goes (.registerWrite (.bar0 0x10) 7) s (fun t => decide (t.postBox.rd = 7)) &&
     goes (.registerWrite .cxlMode 1) s (fun t => t.cxlMode) && goes (.registerWrite (.keeper 0 3) 0x10007) s (fun t => decide (tget 0 (t.die 0).keepers 3 = 7))) = true := by
  decide +kernel
def mct : MctpMsg := { i3c := true, dies := 1, keySlot := 5, dom := 3, key := 7, nonce := 0, image := 3, data := [], signature := 0, msgType := 0, cmd := 1 }
theorem witness_Management :
    (goes (.thermalTrip true) State.reset (fun t => decide (t.boot = 0)) && goes .supplyFault State.reset (fun t => decide (t.boot = 0)) &&
     goes .moduleReset State.reset (fun t => decide (t.boot = 1 ∧ t.dil.boots = 2)) &&
     goes .moduleReset { State.reset with boot := 4 } (fun t => decide (t.boot = 5)) && decide (logicalOf (State.reset.die 0) 3 = some 3) &&
     goes (.coreFailure 0 3) State.reset (fun t => (t.core 0 3).failed) &&
     (let s := State.reset.setDie 0 { State.reset.die 0 with dcyc := 4096 }
      goes (.powerMeasure 0 5 800) s (fun t => (t.die 0).capped) && goes (.powerMeasure 0 5 799) s (fun t => !(t.die 0).capped)) &&
     goes (.mctpKeyLoad mct) State.reset (fun t => decide ((t.die 0).keys = [(5, (3, 7))] ∧ t.dil.out.length = 1)) &&
     (let k := State.reset.setDie 0 { State.reset.die 0 with keys := [(5, (3, 7))] }
      goes (.mctpKeyClear mct) k (fun t => decide ((t.die 0).keys = [])) && goes (.mctpKeyClear { mct with dom := 4 }) k (fun t => decide ((t.die 0).keys.length = 1))) &&
     goes (.mctpDebugRevoke mct) { State.reset with debug := true } (fun t => !t.debug) && goes (.mctpTelemetry { mct with i3c := false }) State.reset (fun t => decide (t.dil.out.length = 1)) &&
     goes (.mctpControl mct) State.reset (fun t => decide (t.dil.out.length = 1)) && goes (.mctpImageStage mct) State.reset (fun t => decide (t.dil.out = [.done true false]))) = true := by
  decide +kernel

/-! ### Frames -/

theorem witness_FrameRegisterOps :
    [.addV 8 (tv 4 12 4 1 0), .cmp 3 (tv 4 12 4 1 0), .fadd 8 (tv 4 12 9 1 0), .bra 0 (tb 1 1), .call 8 (tb 1 1), .ld 8 (tm 4 3 0 0 0 0), .addV 8 (tv 4 12 4 1 2)].all
      (fun i => (granTargets (s1.ctx e0) i).isSome && goes i s1 (fun _ => true)) = true ∧ s1.env? = some e0 := by decide +kernel
theorem witness_FramePaddockStores :
    (let s := sCmd [reg 4 0x4000, reg 5 0x20000, reg 8 7, reg 12 0] []
     let t := tm 4 3 0 0 0 0
     let c := tv 4 12 4 1 0
     decide (s.env? = some e0 ∧ mEnabled (s.act 0 0) cmdCtx t = [0]) && goes (.st 8 t) s (fun _ => true) && goes (.sta 8 t) s (fun _ => true) &&
     okB (mEa (s.act 0 0) 0 t) 0x4000 && okAny (ldstCheck (s.act 0 0) cmdCtx true 0x4000 8 [0]) &&
     -- a store that faults, one without an enabled register
     goes (.st 8 (tm 5 3 0 0 0 0)) s (fun u => decide ((u.ctx e0).state = .parked)) && decide (mEnabled (s.act 0 0) cmdCtx { t with p := 1 } = []) &&
     goes (.st 8 { t with p := 1 }) s (fun _ => true) && goes (.sta 8 { t with p := 1 }) s (fun _ => true) &&
     goes (.scat 8 c) s (fun _ => true) && decide (((s.ctx e0).regionOf 0x4000 4).isSome)) = true := by decide +kernel
theorem witness_FrameGlobalStores :
    (let t := tm 4 3 0 0 2 0
     decide (sG.env? = some e0) && goes (.stg 8 { t with aop := 0 }) sG (fun u => decide ((u.core 0 0).sb.length = 1)) &&
     goes (.red 8 t) sG (fun u => decide ((u.core 0 0).sb.length = 1)) && goes (.stg 8 { t with aop := 0, p := 1 }) sG (fun u => decide ((u.core 0 0).sb = []))) = true := by
  decide +kernel
theorem witness_StoresPerform : (fa0 + 62) % 64 + [1, 2].length ≤ 64 ∧ [1, 2] ≠ [] := by decide

end Sys2Proof.Tests
end

/-! Proofs of the number formats: exact sums and products, packed floating-point and integer instructions. -/

namespace Sys2Proof

open Machine

/-! ## Chapter 02: exact values -/

/-- A sign and a magnitude as an integer. -/
def mant (n : Bool) (m : Nat) : Int := if n then -(m : Int) else m

/-- The power of two at an exponent. -/
def pow2 (e : Int) : Rat := 2 ^ e

/-- The exact value of a finite number is an integer times a power of two. -/
theorem ratOf_fin (n : Bool) (m : Nat) (e : Int) : ratOf (.fin n m e) = some ((mant n m : Rat) * pow2 e) := by
  cases n
  case false => exact congrArg (fun r => some (r * pow2 e)) (Rat.intCast_natCast m).symm
  case true =>
    have hneg : ((-(m : Int) : Int) : Rat) = -(m : Rat) := (Rat.intCast_neg m).trans (congrArg _ (Rat.intCast_natCast m))
    exact congrArg (fun r => some (r * pow2 e)) hneg.symm

/-- A value with an exact number is a finite one. -/
theorem eq_fin_of_ratOf {x : FVal} {p : Rat} (h : ratOf x = some p) :
    ∃ n m e, x = .fin n m e ∧ p = (mant n m : Rat) * pow2 e := by
  cases x with
  | nan s => cases h
  | inf n => cases h
  | fin n m e =>
    rw [ratOf_fin] at h
    exact ⟨n, m, e, rfl, (Option.some.inj h).symm⟩

theorem pow2_add (a b : Int) : pow2 (a + b) = pow2 a * pow2 b := Rat.zpow_add (by decide) a b

theorem pow2_natCast (k : Nat) : pow2 k = ((2 ^ k : Nat) : Int) := by
  have hnat : ((2 ^ k : Nat) : Rat) = 2 ^ k := Rat.natCast_pow 2 k
  exact (Rat.zpow_natCast 2 k).trans (hnat.symm.trans (Rat.intCast_natCast _).symm)

theorem mant_zero (n : Bool) : mant n 0 = 0 := by cases n <;> rfl

theorem mant_not (n : Bool) (m : Nat) : mant (!n) m = -mant n m := by
  cases n
  case false => rfl
  case true => exact (Int.neg_neg m).symm

/-- Magnitudes multiply and signs combine. -/
theorem mant_mul (n n' : Bool) (m m' : Nat) : mant (n != n') (m * m') = mant n m * mant n' m' := by
  have hcast : ((m * m' : Nat) : Int) = m * m' := Int.natCast_mul m m'
  cases n
  case false =>
    cases n'
    case false => exact hcast
    case true => exact (congrArg Neg.neg hcast).trans (Int.mul_neg _ _).symm
  case true =>
    cases n'
    case false => exact (congrArg Neg.neg hcast).trans (Int.neg_mul _ _).symm
    case true => exact hcast.trans (Int.neg_mul_neg _ _).symm

/-- Every integer is the sign and the magnitude it is written with. -/
theorem mant_natAbs (v : Int) : mant (decide (v < 0)) v.natAbs = v := by
  by_cases h : v < 0
  case pos => rw [mant, if_pos (decide_eq_true h)]; omega
  case neg => rw [mant, if_neg (by simpa using h)]; omega

theorem scaleTo_eq (n : Bool) (m : Nat) (e q : Int) : scaleTo n m e q = mant n m * ((2 ^ (e - q).toNat : Nat) : Int) := by
  have hshift : ((m <<< (e - q).toNat : Nat) : Int) = m * ((2 ^ (e - q).toNat : Nat) : Int) := by
    rw [Nat.shiftLeft_eq, Int.natCast_mul]
  cases n
  case false => exact hshift
  case true => exact (congrArg _ hshift).trans (Int.neg_mul _ _).symm

/-- A signed mantissa moved to an exponent not above its own keeps its value. -/
theorem scaleTo_exact (n : Bool) (m : Nat) {e q : Int} (h : q ≤ e) :
    (scaleTo n m e q : Rat) * pow2 q = (mant n m : Rat) * pow2 e := by
  have hexp : e = ((e - q).toNat : Int) + q := by omega
  have hpow : pow2 e = ((2 ^ (e - q).toNat : Nat) : Int) * pow2 q :=
    (congrArg pow2 hexp).trans ((pow2_add _ _).trans (congrArg (· * pow2 q) (pow2_natCast _)))
  rw [hpow, scaleTo_eq, Rat.intCast_mul, Rat.mul_assoc]

theorem ratOf_fin_zero (n : Bool) (e : Int) : ratOf (.fin n 0 e) = some 0 := by
  rw [ratOf_fin, mant_zero]
  exact congrArg some (Rat.zero_mul _)

theorem ratOf_neg {x : FVal} {p : Rat} (hx : ratOf x = some p) : ratOf x.neg = some (-p) := by
  obtain ⟨n, m, e, rfl, rfl⟩ := eq_fin_of_ratOf hx
  rw [FVal.neg, ratOf_fin, mant_not, Rat.intCast_neg, Rat.neg_mul]

/-- The common exponent that a sum is formed at is not above either one. -/
theorem common_exponent_le (e e' : Int) : (if e ≤ e' then e else e') ≤ e ∧ (if e ≤ e' then e else e') ≤ e' := by
  split <;> omega

theorem ratOf_addF (mode : Nat) {x y : FVal} {p q : Rat} (hx : ratOf x = some p) (hy : ratOf y = some q) :
    ratOf (addF mode x y).1 = some (p + q) := by
  obtain ⟨n, m, e, rfl, rfl⟩ := eq_fin_of_ratOf hx
  obtain ⟨n', m', e', rfl, rfl⟩ := eq_fin_of_ratOf hy
  simp only [addF]
  split
  case isTrue h =>
    obtain ⟨rfl, rfl⟩ := h
    rw [ratOf_fin_zero, mant_zero, mant_zero]
    exact congrArg some (by rw [Rat.intCast_zero, Rat.zero_mul, Rat.zero_mul, Rat.add_zero])
  case isFalse =>
    obtain ⟨hle, hle'⟩ := common_exponent_le e e'
    generalize (if e ≤ e' then e else e') = l at hle hle' ⊢
    rw [← scaleTo_exact n m hle, ← scaleTo_exact n' m' hle', ← Rat.add_mul, ← Rat.intCast_add]
    split
    case isTrue hv => rw [ratOf_fin_zero, hv, Rat.intCast_zero, Rat.zero_mul]
    case isFalse => rw [ratOf_fin, mant_natAbs]

theorem ratOf_mulF {x y : FVal} {p q : Rat} (hx : ratOf x = some p) (hy : ratOf y = some q) :
    ratOf (mulF x y).1 = some (p * q) := by
  obtain ⟨n, m, e, rfl, rfl⟩ := eq_fin_of_ratOf hx
  obtain ⟨n', m', e', rfl, rfl⟩ := eq_fin_of_ratOf hy
  have hswap (a b c d : Rat) : a * b * (c * d) = a * c * (b * d) := by grind
  rw [mulF, ratOf_fin, mant_mul, Rat.intCast_mul, pow2_add, hswap]

theorem ratOf_fmaF (mode : Nat) {x y z : FVal} {p q r : Rat} (hx : ratOf x = some p) (hy : ratOf y = some q)
    (hz : ratOf z = some r) : ratOf (fmaF mode x y z).1 = some (p * q + r) :=
  ratOf_addF mode (ratOf_mulF hx hy) hz

/-- Settles O22: each operation forms the exact number; a fused multiply-add is the exact sum of the exact product. -/
theorem exactBeforeRounding : Obligations.ExactBeforeRounding := fun mode _ _ _ _ _ _ hx hy hz =>
  ⟨ratOf_addF mode hx hy, ratOf_mulF hx hy, ratOf_fmaF mode hx hy hz, ratOf_neg hx⟩

/-! ## Packed instructions: several beats, sources -/

/-- A packed instruction on the active set: a turn leaves what `onBeat` says, the last one its completion. -/
theorem multiSet_ok {i : Instr} {s : State} {e : Env} {b : List Nat} {u : Use} {n : Nat} {a : SetState}
    {body : Env → SetState → Res SetState} (hr : Ready i s e b) (hu : i.use? = some u)
    (hb : body e (s.act e.d e.c) = .ok a) : multiSet n u body s = .next (onBeat i n s e (writes s e b a)) := by
  obtain ⟨he, hc⟩ := hr.checks hu
  unfold multiSet multiRun onBeat
  rw [hu]
  by_cases hn : n ≤ 1
  case pos =>
    simp only [hn, if_true, true_or]
    exact setRun_ok he hc hb
  case neg =>
    simp only [hn, if_false, false_or, beatRun, he, hc, hb, bind, Except.bind, pure, Except.pure]
    by_cases hl : (beatOf n u s e).left ≤ 1
    case pos => rw [if_neg (fun h => by omega), if_pos hl, if_pos hl]; rfl
    case neg => rw [if_neg hl, if_neg hl, ite_self]

/-- A group of sources as the value it reads as. -/
theorem ReadsGrp.eq_pure {s : State} {e : Env} {sh : BitVec 2} {r : BitVec 7} {v : Nat} (h : ReadsGrp s e sh r v) :
    grpRead (s.act e.d e.c) e.ix sh r = pure v := h

/-- A group of sources, read only where the instruction uses it and 0 where it does not, is `v` for what follows. -/
theorem bind_grpRead_if {s : State} {e : Env} {sh : BitVec 2} {r : BitVec 7} {use : Bool} {v : Nat}
    (h : if use then ReadsGrp s e sh r v else v = 0) (k : Nat → Res SetState) :
    (if use = true then grpRead (s.act e.d e.c) e.ix sh r >>= k else k 0) = k v := by
  cases use
  case false => cases h; rfl
  case true => rw [if_pos rfl, ReadsGrp.eq_pure h, pure_bind]

/-- An instruction past its checks is legal (R71 rank 3). -/
theorem Ready.legal {i : Instr} {s : State} {e : Env} {b : List Nat} {u : Use} (hr : Ready i s e b) (hu : i.use? = some u) :
    u.legal = true := by
  obtain ⟨-, hc⟩ := hr.checks hu
  cases h : u.legal
  case true => rfl
  case false =>
    simp only [ctxChecks, h, Bool.not_false, if_true] at hc
    cases hc

/-! ## Chapter 08: packed floating-point instructions -/

/-- The flags of the enabled elements, gathered as a number or as the word ORed into %fpc. -/
theorem flagsOn_eq_raisedBy (on : Nat → Bool) (g : Nat → Nat × Nat) (n : Nat) :
    BitVec.ofNat 11 (flagsOn on g n % 32) = raisedBy on (fun j => (g j).2) n := by
  induction n with
  | zero => rfl
  | succ n ih =>
    have hor (v r : Nat) : (v ||| r) % 32 = v % 32 ||| r % 32 := Nat.or_mod_two_pow (n := 5)
    rw [raisedBy, List.range_succ, List.foldl_append, ← raisedBy, ← ih]
    cases h : on n <;> simp [flagsOn, h, hor, BitVec.ofNat_or]

/-- Every instruction of the table is the packed run of the table's operation on the table's sources. -/
theorem exec_of_fpOp {i : Instr} {d : BitVec 7} {t : TailV} {useC useD : Bool} {f : FpElt → Nat → Nat → Nat → Nat × Nat}
    (h : fpOp i = some (d, t, useC, useD, f)) :
    ∃ u, i.use? = some u ∧ ∀ s, exec i s = fpRun u d t useC useD f s := by
  cases i with
  | fadd | fsub | fmul | fdiv | fma | fsqrt | fmin | fmax | fsgn | frnd | fcls | frcp | frsq | fexp2 | flog2 | fsin | fcos | ftanh =>
    cases h
    exact ⟨_, rfl, fun _ => rfl⟩
  | _ => cases h

/-- Settles O23: the run reads the sources, and its flags are those the enabled elements raise. The approximated functions' results are the
model's free values within their bounds (`freeApprox`, log 7), here as in the table. -/
theorem floatElements : Obligations.FloatElements := by
  intro i s e b d t useC useD f x y z hop hr hx hy hz
  obtain ⟨u, hu, hexec⟩ := exec_of_fpOp hop
  rw [hexec]
  refine multiSet_ok hr hu ?_
  simp only [hx.eq_pure, pure_bind, bind_grpRead_if hy, bind_grpRead_if hz, withFlags, ← flagsOn_eq_raisedBy]
  rfl

/-! ## Numbers below 2^w and words of width w -/

theorem two_pow_pos_int (w : Nat) : (0 : Int) < (2 ^ w : Nat) := Int.natCast_pos.2 (Nat.two_pow_pos w)

@[simp] theorem elt_ext_toNat (w : Nat) (sg : Bool) (x : BitVec w) : (Elt.mk w sg).ext x.toNat = intVal sg x := by
  have hx : x.toNat % 2 ^ w = x.toNat := Nat.mod_eq_of_lt x.isLt
  cases sg
  case false => simp [Elt.ext, intVal, hx]
  case true =>
    rcases w with _ | w
    · simp [Elt.ext, intVal, sext, BitVec.of_length_zero]
    · have hlt : 2 * x.toNat < 2 ^ (w + 1) ↔ x.toNat < 2 ^ w := by rw [Nat.pow_succ]; omega
      simp [Elt.ext, intVal, sext, hx, BitVec.toInt_eq_toNat_cond, hlt]

@[simp] theorem ofNat_wrap (w : Nat) (z : Int) : BitVec.ofNat w (wrap w z) = BitVec.ofInt w z := by
  apply BitVec.eq_of_toNat_eq
  rw [BitVec.toNat_ofNat, BitVec.toNat_ofInt, wrap]
  exact Nat.mod_eq_of_lt ((Int.toNat_lt' (Nat.two_pow_pos w)).2 (Int.emod_lt_of_pos z (two_pow_pos_int w)))

@[simp] theorem ofInt_intVal {w : Nat} (sg : Bool) (x : BitVec w) : BitVec.ofInt w (intVal sg x) = x := by
  cases sg <;> simp [intVal]

@[simp] theorem intVal_eq_zero {w : Nat} (sg : Bool) (y : BitVec w) : intVal sg y = 0 ↔ y = 0 := by
  cases sg
  case false => simp [intVal, ← BitVec.toNat_inj]
  case true => simp [intVal, ← BitVec.toInt_inj]

theorem extend_eq_ofInt {w : Nat} (v : Nat) (sg : Bool) (x : BitVec w) :
    (if sg then x.signExtend v else x.zeroExtend v) = BitVec.ofInt v (intVal sg x) := by
  cases sg
  case false => simp [intVal]
  case true => rfl

theorem clamped_eq {lo hi : Int} (h : lo ≤ hi) (z : Int) :
    (if z < lo then (lo, true) else if hi < z then (hi, true) else (z, false)).1 = max lo (min hi z) := by
  split
  case isTrue => show lo = _; omega
  case isFalse =>
    split
    case isTrue => show hi = _; omega
    case isFalse => show z = _; omega

/-- Saturating the number or the integer the type gives is the same. -/
theorem ofNat_clamp (w : Nat) (sg : Bool) (z : Int) : BitVec.ofNat w ((Elt.mk w sg).clamp z) = satOf w sg z := by
  have hfull : (0 : Int) ≤ (2 ^ w : Nat) - 1 := Int.le_sub_one_of_lt (two_pow_pos_int w)
  have hhalf : -((2 ^ (w - 1) : Nat) : Int) ≤ (2 ^ (w - 1) : Nat) - 1 := by
    have hpos := two_pow_pos_int (w - 1)
    omega
  rw [Elt.clamp, ofNat_wrap, satOf]
  refine congrArg (BitVec.ofInt w) ?_
  cases sg
  case false => exact clamped_eq hfull z
  case true => exact clamped_eq hhalf z

/-- The upper half of a word of width 2w holds the quotient by 2^w. -/
theorem extract_high_ofInt (w : Nat) (z : Int) :
    (BitVec.ofInt (2 * w) z).extractLsb' w w = BitVec.ofInt w (z.fdiv ((2 ^ w : Nat) : Int)) := by
  have hm := two_pow_pos_int w
  have hsq : ((2 ^ (2 * w) : Nat) : Int) = (2 ^ w : Nat) * (2 ^ w : Nat) := by
    rw [Nat.two_mul, Nat.pow_add, Int.natCast_mul]
  have hdiv : z % ((2 ^ w : Nat) * (2 ^ w : Nat) : Int) / (2 ^ w : Nat) = z / (2 ^ w : Nat) % (2 ^ w : Nat) := by
    rw [Int.emod_def, Int.emod_def, Int.mul_assoc, Int.ediv_ediv_of_nonneg (Int.le_of_lt hm), Int.sub_eq_add_neg, ← Int.mul_neg,
      Int.add_mul_ediv_left _ _ (Int.ne_of_gt hm), ← Int.sub_eq_add_neg]
  have hnn : 0 ≤ z % ((2 ^ w : Nat) * (2 ^ w : Nat) : Int) := Int.emod_nonneg _ (Int.ne_of_gt (Int.mul_pos hm hm))
  apply BitVec.eq_of_toInt_eq
  rw [Int.fdiv_eq_ediv_of_nonneg _ (Int.le_of_lt hm), BitVec.toInt_extractLsb', BitVec.toInt_ofInt, BitVec.toNat_ofInt, hsq,
    Nat.shiftRight_eq_div_pow, Int.natCast_ediv, Int.toNat_of_nonneg hnn, hdiv, Int.emod_bmod]

/-! ## Chapter 07: one element -/

/-- What an operation does with two words of any width, given whether their type is signed. -/
abbrev WordOp := (w : Nat) → Bool → BitVec w → BitVec w → BitVec w

/-- `op`, the model's step on numbers, computes the word function `f` at every width and signedness. -/
def OnWords (op : Elt → Nat → Nat → Nat) (f : WordOp) : Prop :=
  ∀ (w : Nat) (sg : Bool) (x y : BitVec w), BitVec.ofNat w (op ⟨w, sg⟩ x.toNat y.toNat) = f w sg x y

theorem addOp_words (sat : Prop) [Decidable sat] :
    OnWords (addOp false (decide sat)) (fun w sg x y => if sat then satOf w sg (intVal sg x + intVal sg y) else x + y) := by
  intro w sg x y
  by_cases h : sat <;> simp [addOp, h, ofNat_clamp, BitVec.ofInt_add]

theorem subOp_words (sat : Prop) [Decidable sat] :
    OnWords (addOp true (decide sat)) (fun w sg x y => if sat then satOf w sg (intVal sg x - intVal sg y) else x - y) := by
  intro w sg x y
  by_cases h : sat <;>
    simp [addOp, h, ofNat_clamp, Int.sub_eq_add_neg, BitVec.ofInt_add, BitVec.ofInt_neg, BitVec.sub_eq_add_neg]

theorem mulOp_words : OnWords mulOp (fun _ _ x y => x * y) := by
  intro w sg x y
  simp [mulOp, BitVec.ofInt_mul]

theorem mulhOp_words : OnWords mulhOp intOp.mulHigh := by
  intro w sg x y
  have hprod : (if sg then x.signExtend (2 * w) * y.signExtend (2 * w) else x.zeroExtend (2 * w) * y.zeroExtend (2 * w)) =
      BitVec.ofInt (2 * w) (intVal sg x * intVal sg y) := by
    rw [BitVec.ofInt_mul, ← extend_eq_ofInt, ← extend_eq_ofInt]
    cases sg <;> rfl
  rw [intOp.mulHigh, hprod, extract_high_ofInt]
  simp [mulhOp]

theorem divOp_words : OnWords divOp intOp.quotient := by
  intro w sg x y
  simp only [divOp, intOp.quotient, elt_ext_toNat, intVal_eq_zero]
  split
  case isTrue => apply BitVec.eq_of_toNat_eq; simp
  case isFalse =>
    rw [ofNat_wrap]
    cases sg
    case false =>
      show BitVec.ofInt w (Int.tdiv x.toNat y.toNat) = x / y
      rw [← Int.ofNat_tdiv, BitVec.ofInt_natCast, BitVec.udiv_def]
    case true => apply BitVec.eq_of_toInt_eq; simp [intVal, BitVec.toInt_sdiv, BitVec.toInt_ofInt]

theorem remOp_words : OnWords remOp intOp.remainder := by
  intro w sg x y
  simp only [remOp, intOp.remainder, elt_ext_toNat, intVal_eq_zero]
  split
  case isTrue h => subst h; cases sg <;> simp
  case isFalse =>
    rw [ofNat_wrap]
    cases sg
    case false =>
      show BitVec.ofInt w (Int.tmod x.toNat y.toNat) = x % y
      rw [← Int.ofNat_tmod, BitVec.ofInt_natCast, BitVec.umod_def]
    case true => simp only [intVal, if_true, ← BitVec.toInt_srem, BitVec.ofInt_toInt]

theorem andOp_words : OnWords andOp (fun _ _ x y => x &&& y) := by
  intro w sg x y
  simp [andOp, BitVec.ofNat_and]

theorem orOp_words : OnWords orOp (fun _ _ x y => x ||| y) := by
  intro w sg x y
  simp [orOp, BitVec.ofNat_or]

theorem xorOp_words : OnWords xorOp (fun _ _ x y => x ^^^ y) := by
  intro w sg x y
  simp [xorOp, BitVec.ofNat_xor]

theorem andnOp_words : OnWords andnOp (fun _ _ x y => x &&& ~~~y) := by
  intro w sg x y
  simp only [andnOp, ← BitVec.toNat_not, ← BitVec.toNat_and, BitVec.ofNat_toNat, BitVec.setWidth_eq]

theorem minOp_words : OnWords minOp (fun _ sg x y => if intVal sg x ≤ intVal sg y then x else y) := by
  intro w sg x y
  simp only [minOp, elt_ext_toNat]
  split <;> simp

theorem maxOp_words : OnWords maxOp (fun _ sg x y => if intVal sg x ≤ intVal sg y then y else x) := by
  intro w sg x y
  simp only [maxOp, elt_ext_toNat]
  split <;> simp

/-! The shifts take their count modulo the width. -/

theorem shlOp_words : OnWords (fun k b c => shlOp k b (c % k.w)) (fun w _ x y => x <<< (y.toNat % w)) := by
  intro w sg x y
  apply BitVec.eq_of_toNat_eq
  simp [shlOp, Nat.shiftLeft_eq]

theorem shrOp_words : OnWords (fun k b c => shrOp k b (c % k.w)) (fun w _ x y => x >>> (y.toNat % w)) := by
  intro w sg x y
  show BitVec.ofNat w (x.toNat >>> (y.toNat % w)) = _
  rw [← BitVec.toNat_ushiftRight, BitVec.ofNat_toNat, BitVec.setWidth_eq]

theorem sraOp_words : OnWords (fun k b c => sraOp k b (c % k.w)) (fun w _ x y => x.sshiftRight (y.toNat % w)) := by
  intro w sg x y
  have hsext : sext w x.toNat = x.toInt := elt_ext_toNat w true x
  have hp := Int.le_of_lt (two_pow_pos_int (y.toNat % w))
  show BitVec.ofNat w (wrap w ((sext w x.toNat).fdiv ((2 ^ (y.toNat % w) : Nat) : Int))) = x.sshiftRight (y.toNat % w)
  rw [ofNat_wrap, hsext, Int.fdiv_eq_ediv_of_nonneg _ hp, ← Int.shiftRight_eq_div_pow, BitVec.sshiftRight_eq]

theorem rotOp_words : OnWords (fun k b c => rotOp k b (c % k.w)) (fun w _ x y => x.rotateLeft (y.toNat % w)) := by
  intro w sg x y
  have hdisj : x <<< (y.toNat % w) &&& x >>> (w - y.toNat % w) = 0#w := by
    apply BitVec.eq_of_getLsbD_eq
    intro i hi
    simp only [BitVec.getLsbD_and, BitVec.getLsbD_shiftLeft, BitVec.getLsbD_ushiftRight, BitVec.getLsbD_zero]
    rcases Nat.lt_or_ge i (y.toNat % w) with h | h
    · simp [h]
    · simp [BitVec.getLsbD_of_ge x (w - y.toNat % w + i) (by omega)]
  have hadd : BitVec.ofNat w (x.toNat * 2 ^ (y.toNat % w) + x.toNat >>> (w - y.toNat % w)) =
      x <<< (y.toNat % w) + x >>> (w - y.toNat % w) := by
    apply BitVec.eq_of_toNat_eq
    simp [Nat.shiftLeft_eq]
  show BitVec.ofNat w ((x.toNat * 2 ^ (y.toNat % w) + x.toNat >>> (w - y.toNat % w)) % 2 ^ w) = x.rotateLeft (y.toNat % w)
  rw [BitVec.rotateLeft_def, Nat.mod_mod, ← BitVec.add_eq_or_of_and_eq_zero _ _ hdisj, ← hadd]
  apply BitVec.eq_of_toNat_eq
  simp

/-! ## Chapter 07: packed instructions of two sources -/

/-- `op`, the step of a packed run of tail `t`, computes `f` from an element of B and one of C, or with IMM from the field C. -/
def Computes (t : TailV) (imm : Bool) (op : Elt → Nat → Nat → Nat → Nat) (f : WordOp) : Prop :=
  ∀ (x y : BitVec (tyBits t.ty.toNat)) (c o : Nat), (if imm then y = BitVec.ofNat _ t.c.toNat else c = y.toNat) →
    BitVec.ofNat _ (op (eltOf t) x.toNat c o) = f _ (tySigned t.ty.toNat) x y

theorem OnWords.computes {op : Elt → Nat → Nat → Nat} {f : WordOp}
    (h : OnWords op f) (t : TailV) : Computes t false (fun k b c _ => op k b c) f := by
  intro x y c o hc
  obtain rfl : c = y.toNat := hc
  exact h _ _ x y

/-- A shift is one packed run, whose count is the element of C or, with IMM, the field C. -/
theorem shiftRun_eq (op : Elt → Nat → Nat → Nat) (d : BitVec 7) (t : TailV) (s : State) :
    shiftRun op d t s = packedRun (useShift d t) d t (!t.f.getLsbD 0) false
      (fun k b c _ => op k b ((if t.f.getLsbD 0 then t.c.toNat else c) % k.w)) s := by
  unfold shiftRun
  cases t.f.getLsbD 0 <;> rfl

theorem useShift_ty_le {d : BitVec 7} {t : TailV} (h : (useShift d t).legal = true) : t.ty.toNat ≤ 7 := by
  unfold useShift at h
  split at h <;> simp_all [packedUse, packedLegal, isInt]

theorem field_le_of_ty_le : ∀ ty ≤ 7, 128 ≤ 2 ^ tyBits ty := by decide

theorem OnWords.computes_shift {op : Elt → Nat → Nat → Nat} {f : WordOp}
    (h : OnWords (fun k b c => op k b (c % k.w)) f) {d : BitVec 7} {t : TailV} (hl : (useShift d t).legal = true) :
    Computes t (t.f.getLsbD 0) (fun k b c _ => op k b ((if t.f.getLsbD 0 then t.c.toNat else c) % k.w)) f := by
  intro x y c o hc
  have hy : (if t.f.getLsbD 0 then t.c.toNat else c) = y.toNat := by
    split at hc
    case isTrue hi =>
      have hw := field_le_of_ty_le _ (useShift_ty_le hl)
      rw [if_pos hi, hc, BitVec.toNat_ofNat, Nat.mod_eq_of_lt (Nat.lt_of_lt_of_le t.c.isLt hw)]
    case isFalse hi => rw [if_neg hi, hc]
  simp only [hy]
  exact h _ _ x y

/-- A legal ADD or SUB has no function bit but SAT. -/
theorem sat_eq_of_legal {d : BitVec 7} {t : TailV} (h : (useBin d t isInt 1).legal = true) : t.f.getLsbD 0 = decide (t.f = 1) := by
  have hf : t.f.toNat &&& 126 = 0 := by simp_all [useBin, packedUse, packedLegal, vOnly]
  have hall : ∀ f : BitVec 7, f.toNat &&& 126 = 0 → f.getLsbD 0 = decide (f = 1) := by decide
  exact hall _ hf

/-- Form S has no function bits, and no IMM. -/
@[simp] theorem tailSV_f (t : TailS) : (tailSV t).f = 0 := rfl

/-- Instruction `i` is a packed run of tail `t` into group `d` that computes `f`, where it is legal. -/
def RunsOnWords (i : Instr) (d : BitVec 7) (t : TailV) (imm : Bool) (f : WordOp) : Prop :=
  ∃ u op, i.use? = some u ∧ (∀ s, exec i s = packedRun u d t (!imm) false op s) ∧ (u.legal = true → Computes t imm op f)

theorem OnWords.runs {op : Elt → Nat → Nat → Nat} {f : WordOp} (h : OnWords op f)
    {i : Instr} {d : BitVec 7} {t : TailV} {u : Use} (hu : i.use? = some u)
    (hx : ∀ s, exec i s = packedRun u d t true false (fun k b c _ => op k b c) s) : RunsOnWords i d t false f :=
  ⟨u, _, hu, hx, fun _ => h.computes t⟩

theorem OnWords.runs_shift {op : Elt → Nat → Nat → Nat} {f : WordOp}
    (h : OnWords (fun k b c => op k b (c % k.w)) f) {i : Instr} {d : BitVec 7} {t : TailV} (hu : i.use? = some (useShift d t))
    (hx : ∀ s, exec i s = shiftRun op d t s) {imm : Bool} (hi : t.f.getLsbD 0 = imm) : RunsOnWords i d t imm f := by
  subst hi
  exact ⟨_, _, hu, fun s => (hx s).trans (shiftRun_eq op d t s), h.computes_shift⟩

/-- ADD and SUB saturate where F is 1, the only function code besides 0 that is legal. -/
theorem OnWords.runs_add {sub : Bool} {sat : Prop} [Decidable sat] {f : WordOp}
    (h : OnWords (addOp sub (decide sat)) f) {i : Instr} {d : BitVec 7} {t : TailV} (hu : i.use? = some (useBin d t isInt 1))
    (hx : ∀ s, exec i s = addRun sub d t s) (hs : t.f = 1 ↔ sat) : RunsOnWords i d t false f := by
  refine ⟨_, _, hu, hx, fun hl => ?_⟩
  rw [sat_eq_of_legal hl, decide_eq_decide.2 hs]
  exact h.computes t

/-- Every instruction of the table is a packed run that computes the table's function of the table's sources. -/
theorem runsOnWords_of_intOp {i : Instr} {d : BitVec 7} {t : TailV} {imm : Bool}
    {f : WordOp} (h : intOp i = some (d, t, imm, f)) : RunsOnWords i d t imm f := by
  cases i with
  | addS => cases h; exact (addOp_words False).runs_add rfl (fun _ => rfl) (by simp)
  | subS => cases h; exact (subOp_words False).runs_add rfl (fun _ => rfl) (by simp)
  | addV => cases h; exact (addOp_words _).runs_add rfl (fun _ => rfl) Iff.rfl
  | subV => cases h; exact (subOp_words _).runs_add rfl (fun _ => rfl) Iff.rfl
  | mulS | mulV => cases h; exact mulOp_words.runs rfl fun _ => rfl
  | mulhS | mulhV => cases h; exact mulhOp_words.runs rfl fun _ => rfl
  | divS | divV => cases h; exact divOp_words.runs rfl fun _ => rfl
  | remS | remV => cases h; exact remOp_words.runs rfl fun _ => rfl
  | andS | andV => cases h; exact andOp_words.runs rfl fun _ => rfl
  | orS | orV => cases h; exact orOp_words.runs rfl fun _ => rfl
  | xorS | xorV => cases h; exact xorOp_words.runs rfl fun _ => rfl
  | andnS | andnV => cases h; exact andnOp_words.runs rfl fun _ => rfl
  | minS | minV => cases h; exact minOp_words.runs rfl fun _ => rfl
  | maxS | maxV => cases h; exact maxOp_words.runs rfl fun _ => rfl
  | shlS | shlV => cases h; exact shlOp_words.runs_shift rfl (fun _ => rfl) (by simp)
  | shrS | shrV => cases h; exact shrOp_words.runs_shift rfl (fun _ => rfl) (by simp)
  | sraS | sraV => cases h; exact sraOp_words.runs_shift rfl (fun _ => rfl) (by simp)
  | rotS | rotV => cases h; exact rotOp_words.runs_shift rfl (fun _ => rfl) (by simp)
  | _ => cases h

/-! ## Groups of elements -/

theorem ofNat_elem_toNat (v w k : Nat) : (BitVec.ofNat w (elem v w k)).toNat = elem v w k := by
  simp [elem]

/-- A group depends only on the words that its elements are at their width. -/
theorem elems_eq_of_words {w : Nat} {f : Nat → Nat} {g : Nat → BitVec w} (h : ∀ k, BitVec.ofNat w (f k) = g k) (n : Nat) :
    elems w f n = elems w (fun k => (g k).toNat) n := by
  induction n with
  | zero => rfl
  | succ n ih => rw [elems, elems, ih, ← h n, BitVec.toNat_ofNat, Nat.mod_mod]

/-- Settles O19: the packed run reads what the table names, and computes the table's function at every element. -/
theorem integerElements : Obligations.IntegerElements := by
  intro i s e b d t imm f x y hop hr hx hy w second r
  obtain ⟨u, op, hu, hexec, hcomp⟩ := runsOnWords_of_intOp hop
  -- the group read for C, which is none with IMM, and how the second operand of each element lies in it
  obtain ⟨c, hc, hsecond⟩ : ∃ c, (if !imm then ReadsGrp s e t.sh t.c c else c = 0) ∧
      ∀ k, if imm then second k = BitVec.ofNat w t.c.toNat else elem c w k = (second k).toNat := by
    cases imm
    case false => exact ⟨y, hy rfl, fun k => (ofNat_elem_toNat y w k).symm⟩
    case true => exact ⟨0, rfl, fun _ => rfl⟩
  have hr' : elems w (fun k => op (eltOf t) (elem x w k) (elem c w k) (elem 0 w k)) (shElems t.sh.toNat w) = r := by
    refine elems_eq_of_words (fun k => ?_) _
    have hk := hcomp (hr.legal hu) (BitVec.ofNat w (elem x w k)) (second k) (elem c w k) (elem 0 w k) (hsecond k)
    rwa [ofNat_elem_toNat] at hk
  rw [hexec]
  refine multiSet_ok hr hu ?_
  simp only [hx.eq_pure, pure_bind, bind_grpRead_if hc, Bool.false_eq_true, if_false]
  rw [← hr']
  rfl

end Sys2Proof

/-! Proofs of the integer and address operations: unary operations, compare and select, immediates, bit fields, lanes. -/

namespace Sys2Proof

open Machine

/-! ## Chapter 07: counts of bits -/

theorem clzBits_succ {w : Nat} (x : BitVec w) (n : Nat) :
    clzBits x.toNat (n + 1) = if x.getLsbD n then 0 else 1 + clzBits x.toNat n := rfl

/-- The count from bit `n` down, as if the bits above were zeros. -/
theorem clzAuxRec_eq_clzBits {w : Nat} (x : BitVec w) {n : Nat} (h : n < w) :
    x.clzAuxRec n = BitVec.ofNat w (w - (n + 1) + clzBits x.toNat (n + 1)) := by
  induction n with
  | zero =>
    rw [BitVec.clzAuxRec_zero, clzBits_succ]
    split
    case isTrue => rfl
    case isFalse => exact congrArg _ (Nat.sub_add_cancel h).symm
  | succ n ih =>
    rw [BitVec.clzAuxRec_succ, ih (by omega), clzBits_succ x (n + 1)]
    split
    case isTrue => congr 1; omega
    case isFalse => congr 1; omega

theorem ofNat_clzBits {w : Nat} (x : BitVec w) : BitVec.ofNat w (clzBits x.toNat w) = x.clz := by
  cases w with
  | zero => exact BitVec.of_length_zero.trans BitVec.of_length_zero.symm
  | succ n => simp [BitVec.clz, clzAuxRec_eq_clzBits x (Nat.lt_succ_self n)]

/-- The trailing zeros of a number are the leading zeros of its reversal. -/
theorem ctzBits_eq_clzBits {n : Nat} {a b : Nat} (h : ∀ i < n, a.testBit i = b.testBit (n - 1 - i)) :
    ctzBits b n = clzBits a n := by
  induction n generalizing b with
  | zero => rfl
  | succ n ih =>
    have htail : ∀ i < n, a.testBit i = (b / 2).testBit (n - 1 - i) := fun i hi => by
      rw [h i (by omega), Nat.testBit_div_two]
      congr 1
      omega
    have hhead : a.testBit n = decide (b % 2 = 1) := by
      rw [h n (by omega), Nat.add_sub_cancel, Nat.sub_self, Nat.testBit_zero]
    simp [ctzBits, clzBits, ih htail, hhead]

theorem ofNat_ctzBits {w : Nat} (x : BitVec w) : BitVec.ofNat w (ctzBits x.toNat w) = x.ctz := by
  have hrev : ∀ i < w, x.reverse.toNat.testBit i = x.toNat.testBit (w - 1 - i) := fun i hi => by
    rw [← BitVec.getLsbD, ← BitVec.getLsbD, BitVec.getLsbD_reverse, BitVec.getMsbD_eq_getLsbD]
    simp [hi]
  rw [ctzBits_eq_clzBits hrev, ofNat_clzBits, BitVec.ctz_eq_reverse_clz]

/-- Counting one more bit at the top instead of at the bottom. -/
theorem popBits_succ (b n : Nat) : popBits b (n + 1) = popBits b n + (b.testBit n).toNat := by
  induction n generalizing b with
  | zero =>
    rw [Nat.testBit_zero]
    rcases Nat.mod_two_eq_zero_or_one b with h | h <;> simp [popBits, h]
  | succ n ih => rw [popBits, ih, Nat.testBit_div_two, ← Nat.add_assoc]; rfl

theorem cpopNatRec_eq_popBits {w : Nat} (x : BitVec w) (n acc : Nat) : x.cpopNatRec n acc = acc + popBits x.toNat n := by
  induction n generalizing acc with
  | zero => simp [popBits]
  | succ n ih => rw [BitVec.cpopNatRec_succ, ih, popBits_succ, BitVec.getLsbD]; omega

theorem ofNat_popBits {w : Nat} (x : BitVec w) : BitVec.ofNat w (popBits x.toNat w) = x.cpop := by
  rw [BitVec.cpop, cpopNatRec_eq_popBits, Nat.zero_add]

/-! ## Chapter 07: unary operations and MADD -/

/-- The magnitude, wrapped: the signed minimum stays itself (R167). -/
theorem ofInt_natAbs_toInt {w : Nat} (x : BitVec w) : BitVec.ofInt w (x.toInt.natAbs : Int) = x.abs := by
  rw [BitVec.abs_eq, BitVec.msb_eq_toInt]
  by_cases h : x.toInt < 0
  case pos => rw [if_pos (decide_eq_true h), Int.ofNat_natAbs_of_nonpos (by omega), BitVec.ofInt_neg, BitVec.ofInt_toInt]
  case neg => rw [if_neg (by simpa using h), Int.natAbs_of_nonneg (by omega), BitVec.ofInt_toInt]

/-- A result that saturates where `sat` holds, and else wraps. -/
theorem ofNat_clamp_or_wrap {w : Nat} {sg c : Bool} {sat : Prop} [Decidable sat] (h : c = decide sat) (z : Int) :
    BitVec.ofNat w (if c then (Elt.mk w sg).clamp z else wrap w z) = if sat then satOf w sg z else BitVec.ofInt w z := by
  subst h
  by_cases hs : sat <;> simp [hs, ofNat_clamp]

/-- A packed run computes `f` at every element, when its step does so on words. -/
theorem exec_of_packedRun {i : Instr} {s : State} {e : Env} {b : List Nat} {u : Use} {d : BitVec 7} {t : TailV} {useC useD : Bool}
    {op : Elt → Nat → Nat → Nat → Nat} {x y z : Nat} (hr : Ready i s e b) (hu : i.use? = some u)
    (hexec : exec i s = packedRun u d t useC useD op s) (hx : ReadsGrp s e t.sh t.b x)
    (hy : if useC then ReadsGrp s e t.sh t.c y else y = 0) (hz : if useD then ReadsGrp s e t.sh d z else z = 0)
    (f : (p q r : BitVec (tyBits t.ty.toNat)) → BitVec (tyBits t.ty.toNat))
    (h : ∀ p q r, BitVec.ofNat _ (op (eltOf t) p.toNat q.toNat r.toNat) = f p q r) :
    let w := tyBits t.ty.toNat
    let v := fun (n k : Nat) => BitVec.ofNat w (elem n w k)
    exec i s = .next (onBeat i (shRegs t.sh.toNat) s e (writes s e b
      (grpWrite (s.act e.d e.c) e.ix t.sh d w (predRead (s.act e.d e.c) (s.ctx e) t.p.toNat) t.pn
        (elems w (fun k => (f (v x k) (v y k) (v z k)).toNat) (shElems t.sh.toNat w))))) := by
  intro w v
  rw [hexec]
  refine multiSet_ok hr hu ?_
  have hword : ∀ k, BitVec.ofNat w (op (eltOf t) (elem x w k) (elem y w k) (elem z w k)) = f (v x k) (v y k) (v z k) := fun k => by
    rw [← h, ofNat_elem_toNat, ofNat_elem_toNat, ofNat_elem_toNat]
  simp only [hx.eq_pure, pure_bind, bind_grpRead_if hy, bind_grpRead_if hz, ← elems_eq_of_words hword]
  rfl

/-- The element class and the function bits that a legal packed instruction has. -/
theorem packedUse_legal {d : BitVec 7} {t : TailV} {cls : Nat → Bool} {c old : Bool} {fm : Nat}
    (h : (packedUse d t cls c fm old).legal = true) : cls t.ty.toNat = true ∧ t.f.toNat &&& (127 - fm) = 0 := by
  simp_all [packedUse, packedLegal, vOnly]

/-- Where the only function bit is F[0], it is F. -/
theorem getLsbD_zero_eq_of_legal {d : BitVec 7} {t : TailV} {cls : Nat → Bool} {c old : Bool}
    (h : (packedUse d t cls c 1 old).legal = true) : t.f.getLsbD 0 = decide (t.f = 1) := by
  have hall : ∀ f : BitVec 7, f.toNat &&& 126 = 0 → f.getLsbD 0 = decide (f = 1) := by decide
  exact hall _ (packedUse_legal h).2

/-! ## Groups bit by bit -/

theorem elem_lt (v w k : Nat) : elem v w k < 2 ^ w := Nat.mod_lt _ (Nat.two_pow_pos w)

theorem testBit_elem (v w k j : Nat) : (elem v w k).testBit j = (decide (j < w) && v.testBit (w * k + j)) := by
  rw [elem, Nat.testBit_mod_two_pow, Nat.testBit_shiftRight]

theorem elems_lt (w : Nat) (f : Nat → Nat) (n : Nat) : elems w f n < 2 ^ (w * n) := by
  induction n with
  | zero => exact Nat.two_pow_pos _
  | succ n ih =>
    have hf := Nat.mod_lt (f n) (Nat.two_pow_pos w)
    calc elems w f n + f n % 2 ^ w * 2 ^ (w * n) < (f n % 2 ^ w + 1) * 2 ^ (w * n) := by rw [Nat.add_mul]; omega
      _ ≤ 2 ^ w * 2 ^ (w * n) := Nat.mul_le_mul_right _ hf
      _ = 2 ^ (w * (n + 1)) := by rw [← Nat.pow_add, Nat.mul_succ, Nat.add_comm]

/-- Bit `j` of a group is bit `j % w` of element `j / w`. -/
theorem testBit_elems (w : Nat) (f : Nat → Nat) (n j : Nat) :
    (elems w f n).testBit j = (decide (j < n * w) && (f (j / w)).testBit (j % w)) := by
  induction n with
  | zero => simp [elems]
  | succ n ih =>
    rw [elems, Nat.add_comm, Nat.mul_comm _ (2 ^ (w * n)), Nat.testBit_two_pow_mul_add _ (elems_lt w f n), Nat.testBit_mod_two_pow,
      Nat.succ_mul, Nat.mul_comm w n, ih]
    by_cases hlo : j < n * w
    case pos => simp [hlo, Nat.lt_add_right]
    case neg =>
      by_cases hhi : j < n * w + w
      case pos =>
        have hdiv : j / w = n := Nat.div_eq_of_lt_le (by omega) (by rw [Nat.succ_mul]; omega)
        have hmod : j % w = j - n * w := by rw [Nat.mod_eq_sub_mul_div, hdiv, Nat.mul_comm w n]
        have hlt : j - n * w < w := by omega
        simp [hlo, hhi, hdiv, hmod, hlt]
      case neg =>
        have hge : ¬j - n * w < w := by omega
        simp [hlo, hhi, hge]

/-! ## Chapter 07: CMP -/

/-- What CMP writes for one element: all ones or zeros where it is enabled, else the bits that the predicate had. -/
def predElem (pred : Nat) (pn : Bool) (w old : Nat) (out : Nat → Bool) (k : Nat) : Nat :=
  if elemOn pred pn w k then (if out k then 2 ^ (w / 8) - 1 else 0) else elem old (w / 8) k

theorem predElem_lt (pred : Nat) (pn : Bool) (w old : Nat) (out : Nat → Bool) (k : Nat) :
    predElem pred pn w old out k < 2 ^ (w / 8) := by
  have hpos := Nat.two_pow_pos (w / 8)
  unfold predElem
  split
  case isTrue => split <;> omega
  case isFalse => exact elem_lt _ _ _

/-- A predicate result is a group with one bit to a byte. -/
theorem predBits_eq_elems (pred : Nat) (pn : Bool) (w old : Nat) (out : Nat → Bool) (n : Nat) :
    predBits pred pn w old out n = elems (w / 8) (predElem pred pn w old out) n := by
  induction n with
  | zero => rfl
  | succ n ih => rw [predBits, elems, ih, Nat.mod_eq_of_lt (predElem_lt ..)]; rfl

theorem testBit_predBits {w : Nat} (hw : 8 ∣ w) (hpos : 0 < w) (pred : Nat) (pn : Bool) (old : Nat) (out : Nat → Bool) (n j : Nat) :
    (predBits pred pn w old out n).testBit j =
      if j < n * (w / 8) then
        if pred.testBit (j / (w / 8) * (w / 8)) != pn then out (j / (w / 8)) else old.testBit j
      else false := by
  have hes : 0 < w / 8 := Nat.div_pos (Nat.le_of_dvd hpos hw) (by decide)
  have hlow : j % (w / 8) < w / 8 := Nat.mod_lt _ hes
  rw [predBits_eq_elems, testBit_elems, predElem, elemOn, Nat.mul_div_assoc _ hw]
  by_cases hj : j < n * (w / 8)
  case neg => simp [hj]
  case pos =>
    rw [if_pos hj, decide_eq_true hj, Bool.true_and]
    split
    case isTrue => cases out (j / (w / 8)) <;> simp [hlow, Nat.testBit_two_pow_sub_one]
    case isFalse => rw [testBit_elem, decide_eq_true hlow, Bool.true_and, Nat.div_add_mod]

theorem elemOn_zero (pred : Nat) (pn : Bool) (w : Nat) : elemOn pred pn w 0 = (pred.testBit 0 != pn) := by
  rw [elemOn, Nat.zero_mul, Nat.zero_div]

theorem cmpWrite_eq (a : SetState) (ix : Nat) (t : TailV) (d w n : Nat) (out : Nat → Bool) :
    cmpWrite a ix t d w n out =
      if t.sh = 0 ∧ ((predOf a (a.ctx ix) t).testBit 0 != t.pn) = false then a
      else predWrite a ix d (predBits (predOf a (a.ctx ix) t) t.pn w (predRead a (a.ctx ix) d) out n) := by
  simp only [cmpWrite, elemOn_zero, Bool.not_eq_true]

/-- An integer type's elements are whole bytes. -/
theorem tyBits_of_isInt {ty : Nat} (h : isInt ty = true) : 8 ∣ tyBits ty ∧ 0 < tyBits ty := by
  have hall : ∀ ty ≤ 7, 8 ∣ tyBits ty ∧ 0 < tyBits ty := by decide
  exact hall ty (of_decide_eq_true h)

theorem useCmp_isInt {d : BitVec 7} {t : TailV} (h : (useCmp d t).legal = true) : isInt t.ty.toNat = true := by
  simp_all [useCmp]

/-- The conditions of CMP on two words (R168). -/
def cmpWord (cc : Nat) (sg : Bool) {w : Nat} (x y : BitVec w) : Bool :=
  match cc with
  | 0 => decide (x = y)
  | 1 => decide (x ≠ y)
  | 2 => decide (intVal sg x < intVal sg y)
  | 3 => decide (intVal sg x ≥ intVal sg y)
  | 4 => decide (intVal sg x ≤ intVal sg y)
  | 5 => decide (intVal sg x > intVal sg y)
  | _ => decide (x &&& y ≠ 0)

theorem cmpCond_words (cc : Nat) (sg : Bool) {w : Nat} (x y : BitVec w) :
    cmpCond cc ⟨w, sg⟩ x.toNat y.toNat = cmpWord cc sg x y := by
  match cc with
  | 0 => exact decide_eq_decide.2 BitVec.toNat_inj
  | 1 => exact decide_eq_decide.2 (not_congr BitVec.toNat_inj)
  | 2 | 3 | 4 | 5 => simp [cmpCond, cmpWord]
  | n + 6 =>
    have hand : x.toNat &&& y.toNat = 0 ↔ x &&& y = 0 := by rw [← BitVec.toNat_inj, BitVec.toNat_and]; rfl
    exact decide_eq_decide.2 (not_congr hand)

/-- Settles O20: the packed runs compute the word functions at every element; the bits of a predicate result are those of one-bit-a-byte
elements; SEL is the run itself. -/
theorem integerUnaryCompare : Obligations.IntegerUnaryCompare := by
  constructor
  · intro s e b d t x y z w sg v out hx
    refine ⟨fun hr => ?_, fun hr => ?_, fun hr => ?_, fun hr => ?_, fun hr hy hz => ?_⟩
    · have hl : (useAbs d t).legal = true := hr.legal rfl
      have hf := getLsbD_zero_eq_of_legal hl
      have hsg : tySigned t.ty.toNat = true := (Bool.and_eq_true_iff.1 (packedUse_legal hl).1).2
      refine exec_of_packedRun hr rfl exec_abs hx (y := 0) (z := 0) rfl rfl
        (fun p _ _ => if t.f = 1 then satOf w true (p.toInt.natAbs : Int) else p.abs) (fun p _ _ => ?_)
      refine (ofNat_clamp_or_wrap hf _).trans ?_
      simp only [eltOf, hsg, elt_ext_toNat, intVal, if_true, ofInt_natAbs_toInt]
      rfl
    · have hf := getLsbD_zero_eq_of_legal (hr.legal rfl)
      refine exec_of_packedRun hr rfl exec_neg hx (y := 0) (z := 0) rfl rfl
        (fun p _ _ => if t.f = 1 then satOf w sg (-intVal sg p) else -p) (fun p _ _ => ?_)
      refine (ofNat_clamp_or_wrap hf _).trans ?_
      simp only [eltOf, elt_ext_toNat, BitVec.ofInt_neg, ofInt_intVal]
      rfl
    · have hf := getLsbD_zero_eq_of_legal (hr.legal rfl)
      refine exec_of_packedRun hr rfl exec_clz hx (y := 0) (z := 0) rfl rfl (fun p _ _ => if t.f = 1 then p.ctz else p.clz) (fun p _ _ => ?_)
      rw [hf, apply_ite (BitVec.ofNat _)]
      simp only [eltOf, ofNat_clzBits, ofNat_ctzBits, decide_eq_true_eq]
    · exact exec_of_packedRun hr rfl exec_popc hx (y := 0) (z := 0) rfl rfl (fun p _ _ => p.cpop) (fun p _ _ => ofNat_popBits p)
    · refine exec_of_packedRun hr rfl exec_madd hx hy hz (fun p q r => r + p * q) (fun p q r => ?_)
      apply BitVec.eq_of_toNat_eq
      simp [eltOf]
  · intro s e b d t x y a w sg n p v holds hx hy
    refine ⟨fun hr => ?_, fun hr => ?_⟩
    · obtain ⟨hbyte, hpos⟩ := tyBits_of_isInt (useCmp_isInt (hr.legal rfl))
      have hcond : (fun k => cmpCond t.f.toNat (eltOf t) (elem x w k) (elem y w k)) = holds := funext fun k => by
        rw [← ofNat_elem_toNat x, ← ofNat_elem_toNat y]
        exact cmpCond_words t.f.toNat sg (v x k) (v y k)
      refine ⟨predBits p t.pn w (predRead a (s.ctx e) d.toNat) holds n, ?_, fun j _ => testBit_predBits hbyte hpos ..⟩
      refine exec_cmp.trans (multiSet_ok hr rfl ?_)
      simp only [hx.eq_pure, hy.eq_pure, pure_bind, cmpWrite_eq, ← hcond]
      rfl
    · refine exec_sel.trans (multiSet_ok hr rfl ?_)
      simp only [hx.eq_pure, hy.eq_pure, pure_bind]
      rfl

/-! ## Integers modulo a width as words -/

theorem wrap_eq_toNat (w : Nat) (z : Int) : wrap w z = (BitVec.ofInt w z).toNat := (BitVec.toNat_ofInt ..).symm

theorem sext_toNat {w : Nat} (x : BitVec w) : sext w x.toNat = x.toInt := elt_ext_toNat w true x

theorem wrap_toInt (v : Nat) {w : Nat} (x : BitVec w) : wrap v x.toInt = (x.signExtend v).toNat := wrap_eq_toNat v _

theorem fdiv_two_pow (z : Int) (n : Nat) : z.fdiv ((2 ^ n : Nat) : Int) = z >>> n := by
  rw [Int.fdiv_eq_ediv_of_nonneg _ (Int.le_of_lt (two_pow_pos_int n)), Int.shiftRight_eq_div_pow]

/-! ## Chapter 07: immediates and addresses -/

/-- A register as the value it reads as. -/
theorem Reads.eq_pure {s : State} {e : Env} {r : BitVec 7} {v : W128} (h : Reads s e r v) :
    regRead (s.act e.d e.c) e.ix r.toNat = pure v := h

/-- The low 64 bits of a register. -/
theorem fld_low (x : W128) : fld x 63 0 = (x.setWidth 64).toNat := by simp [fld]

theorem addi_sum (x : W128) (imm : BitVec 25) :
    wrap 64 ((fld x 63 0 : Int) + sext 25 imm.toNat) = (x.setWidth 64 + imm.signExtend 64).toNat := by
  rw [fld_low, sext_toNat, wrap_eq_toNat, BitVec.ofInt_add, BitVec.ofInt_natCast, BitVec.ofNat_toNat, BitVec.setWidth_eq]
  rfl

theorem ofInt_mul_two_pow (w n : Nat) (z : Int) : BitVec.ofInt w (z * ((2 ^ n : Nat) : Int)) = BitVec.ofInt w z <<< n := by
  rw [BitVec.ofInt_mul, BitVec.ofInt_natCast, BitVec.shiftLeft_eq_mul_twoPow]
  congr 1
  exact BitVec.eq_of_toNat_eq ((BitVec.toNat_ofNat _ _).trans (BitVec.toNat_twoPow _ _).symm)

theorem elem_zero (v w : Nat) : elem v w 0 = (BitVec.ofNat w v).toNat := by simp [elem]

theorem lea_sum (x y : W128) (w n : Nat) (sg : Bool) :
    wrap 64 ((fld x 63 0 : Int) + (Elt.mk w sg).ext (elem y.toNat w 0) * ((2 ^ n : Nat) : Int)) =
      (x.setWidth 64 + (if sg then (BitVec.ofNat w y.toNat).signExtend 64 else (BitVec.ofNat w y.toNat).zeroExtend 64) <<< n).toNat := by
  rw [fld_low, elem_zero, elt_ext_toNat, wrap_eq_toNat, BitVec.ofInt_add, BitVec.ofInt_natCast, BitVec.ofNat_toNat, BitVec.setWidth_eq,
    ofInt_mul_two_pow, extend_eq_ofInt]

/-! ## Chapter 07: bit fields -/

/-- Bits of an arithmetic shift: those above the word are its sign. -/
theorem getLsbD_sshiftRight_min {w : Nat} (x : BitVec w) (n : Nat) {j : Nat} (hj : j < w) :
    (x.sshiftRight n).getLsbD j = x.getLsbD (min (n + j) (w - 1)) := by
  rw [BitVec.getLsbD_sshiftRight, BitVec.msb_eq_getLsbD_last]
  by_cases h : n + j < w
  case pos => simp [h, hj, Nat.min_eq_left (Nat.le_sub_one_of_lt h)]
  case neg => simp [h, hj, Nat.min_eq_right (show w - 1 ≤ n + j by omega)]

/-- Bits of a word cut to `m` bits and sign-extended again. -/
theorem getLsbD_signExtend_signExtend {w m : Nat} (x : BitVec w) (hm : 0 < m) (hle : m ≤ w) {j : Nat} (hj : j < w) :
    ((x.signExtend m).signExtend w).getLsbD j = x.getLsbD (if j < m then j else m - 1) := by
  have hlow : ∀ i < m, (x.signExtend m).getLsbD i = x.getLsbD i := fun i hi => by
    rw [BitVec.getLsbD_signExtend, decide_eq_true hi, if_pos (Nat.lt_of_lt_of_le hi hle), Bool.true_and]
  rw [BitVec.getLsbD_signExtend, BitVec.msb_eq_getLsbD_last, hlow (m - 1) (by omega), decide_eq_true hj, Bool.true_and]
  split
  case isTrue h => exact hlow j h
  case isFalse => rfl

theorem bextOp_signed {w : Nat} (pos len : Nat) (x : BitVec w) :
    bextOp ⟨w, true⟩ pos len x.toNat =
      if Nat.min len w = 0 then 0 else (((x.sshiftRight pos).signExtend (Nat.min len w)).signExtend w).toNat := by
  simp only [bextOp, elt_ext_toNat, intVal, if_true, fdiv_two_pow, ← BitVec.toInt_sshiftRight, wrap_toInt, sext_toNat]

theorem bextOp_unsigned {w : Nat} (pos len : Nat) (x : BitVec w) :
    bextOp ⟨w, false⟩ pos len x.toNat = if Nat.min len w = 0 then 0 else (x.toNat >>> pos) % 2 ^ Nat.min len w := by
  simp only [bextOp, elt_ext_toNat, intVal, Bool.false_eq_true, if_false, fdiv_two_pow]
  rfl

/-- Bit `j` of an extracted field (R172): beyond the field the sign of its last bit, beyond the element the element's sign. -/
theorem testBit_bextOp {w : Nat} (sg : Bool) (pos len : Nat) (x : BitVec w) {j : Nat} (hj : j < w) :
    (bextOp ⟨w, sg⟩ pos len x.toNat).testBit j =
      if Nat.min len w = 0 then false
      else
        let j' := if j < Nat.min len w then pos + j else pos + Nat.min len w - 1
        if sg then x.toNat.testBit (min j' (w - 1))
        else decide (j < Nat.min len w) && x.toNat.testBit j' := by
  have hle : Nat.min len w ≤ w := Nat.min_le_right len w
  cases sg
  case false =>
    rw [bextOp_unsigned]
    generalize Nat.min len w = m at hle ⊢
    by_cases hm : m = 0
    case pos => simp [hm]
    case neg => by_cases hjm : j < m <;> simp [hm, hjm, Nat.testBit_mod_two_pow, Nat.testBit_shiftRight]
  case true =>
    rw [bextOp_signed]
    generalize Nat.min len w = m at hle ⊢
    by_cases hm : m = 0
    case pos => simp [hm]
    case neg =>
      have hpos := Nat.pos_of_ne_zero hm
      have hsrc : (if j < m then j else m - 1) < w := by split <;> omega
      rw [if_neg hm, if_neg hm, if_pos rfl, ← BitVec.getLsbD, ← BitVec.getLsbD, getLsbD_signExtend_signExtend _ hpos hle hj,
        getLsbD_sshiftRight_min _ _ hsrc, Nat.add_sub_assoc hpos, ← apply_ite (pos + ·)]

theorem testBit_complement {m w : Nat} (h : m < 2 ^ w) (j : Nat) :
    (2 ^ w - 1 - m).testBit j = (decide (j < w) && !m.testBit j) := by
  rw [Nat.sub_sub, Nat.add_comm, Nat.testBit_two_pow_sub_succ h]

/-- Bit `j` of an element with a field inserted (R172). -/
theorem testBit_binsOp {w : Nat} (sg : Bool) (pos len b old : Nat) {j : Nat} (hj : j < w) :
    (binsOp ⟨w, sg⟩ pos len b old).testBit j =
      if pos ≤ j ∧ j < pos + Nat.min len w then b.testBit (j - pos) else old.testBit j := by
  have hmask : ((2 ^ Nat.min len w - 1) * 2 ^ pos % 2 ^ w).testBit j = decide (pos ≤ j ∧ j < pos + Nat.min len w) := by
    rw [Nat.testBit_mod_two_pow, Nat.testBit_mul_two_pow, Nat.testBit_two_pow_sub_one]
    simp only [hj, decide_true, Bool.true_and, ← Bool.decide_and, decide_eq_decide]
    omega
  simp only [binsOp, Nat.testBit_or, Nat.testBit_and, testBit_complement (Nat.mod_lt _ (Nat.two_pow_pos w)), hmask, hj,
    Nat.testBit_mul_two_pow]
  by_cases h : pos ≤ j ∧ j < pos + Nat.min len w <;> simp [h]

/-! ## Chapter 07: lanes -/

theorem ite_sext_elem (sg : Bool) (w v k : Nat) :
    (if sg then sext w (elem v w k) else (elem v w k : Int)) = intVal sg (BitVec.ofNat w (elem v w k)) := by
  cases sg
  case false => exact congrArg Int.ofNat (ofNat_elem_toNat v w k).symm
  case true => exact (congrArg (sext w) (ofNat_elem_toNat v w k).symm).trans (sext_toNat _)

theorem dotSum_eq_sum (sb sc : Bool) (w b c i n : Nat) :
    dotSum sb sc w b c i n = ((List.range n).map (fun k =>
      intVal sb (BitVec.ofNat w (elem b w (i + k))) * intVal sc (BitVec.ofNat w (elem c w (i + k))))).sum := by
  induction n generalizing i with
  | zero => rfl
  | succ n ih =>
    rw [dotSum, ite_sext_elem, ite_sext_elem, ih, List.range_succ_eq_map, List.map_cons, List.sum_cons, List.map_map]
    simp [Function.comp_def, Nat.add_assoc, Nat.add_comm 1]

theorem clamp_eq_toNat (w : Nat) (sg : Bool) (z : Int) : (Elt.mk w sg).clamp z = (satOf w sg z).toNat := by
  rw [← ofNat_clamp, Elt.clamp, ofNat_wrap, wrap_eq_toNat]

/-- SATN of a word: the rounding shift, saturated to half the width (R175). -/
theorem satnOp_words {w : Nat} (sg u : Bool) (n : Nat) (x : BitVec w) :
    satnOp ⟨w, sg⟩ u n x.toNat =
      (satOf (w / 2) (sg && !u)
        (if n = 0 then intVal sg x else (intVal sg x + (2 ^ (n - 1) : Nat)).fdiv (2 ^ n : Nat))).toNat := by
  rw [← clamp_eq_toNat, ← elt_ext_toNat]
  rfl

/-! ## Runs on one register, runs with a control register -/

/-- An instruction on the active set completes with the set its effect gives. -/
theorem exec_of_setRun {i : Instr} {s : State} {e : Env} {b : List Nat} {u : Use} {a : SetState}
    {body : Env → SetState → Res SetState} (hr : Ready i s e b) (hu : i.use? = some u) (hexec : exec i s = setRun u body s)
    (hb : body e (s.act e.d e.c) = .ok a) : exec i s = .next (writes s e b a) := by
  obtain ⟨he, hc⟩ := hr.checks hu
  rw [hexec]
  exact setRun_ok he hc hb

/-- BEXT and BINS: `f` at every element, with POS and LEN of the control register `c`. -/
theorem exec_of_fieldRun {i : Instr} {s : State} {e : Env} {b : List Nat} {u : Use} {d : BitVec 7} {t : TailV} {old : Bool}
    {f : Elt → Nat → Nat → Nat → Nat → Nat} {x z : Nat} {c : W128} (hr : Ready i s e b) (hu : i.use? = some u)
    (hexec : exec i s = fieldRun u d t old f s) (hx : ReadsGrp s e t.sh t.b x) (hc : Reads s e t.c c)
    (hz : if old then ReadsGrp s e t.sh d z else z = 0) :
    let w := tyBits t.ty.toNat
    exec i s = .next (onBeat i (shRegs t.sh.toNat) s e (writes s e b
      (grpWrite (s.act e.d e.c) e.ix t.sh d w (predRead (s.act e.d e.c) (s.ctx e) t.p.toNat) t.pn
        (elems w (fun k => f (eltOf t) (fld c 6 0) (fld c 14 8) (elem x w k) (elem z w k)) (shElems t.sh.toNat w))))) := by
  intro w
  rw [hexec]
  refine multiSet_ok hr hu ?_
  simp only [hx.eq_pure, hc.eq_pure, pure_bind, bind_grpRead_if hz]
  rfl

/-- Settles O21: each sum is a sum of words modulo 2^64; the bits of a field are those of the shifted word; a lane's dot product and SATN are
taken on the integers that the elements are; MOVI, MOVQ and SHUF are the runs themselves. -/
theorem immediatesFieldsLanes : Obligations.ImmediatesFieldsLanes := by
  refine ⟨?_, ?_, ?_⟩
  · intro s e b d i t x y imm big w ix ix64
    refine ⟨fun hr hx => ?_, fun hr => ?_, fun hr => ?_, fun hr hx hy => ?_⟩
    · refine exec_of_setRun hr rfl exec_addi ?_
      simp only [hx.eq_pure, pure_bind, addi_sum]
      rfl
    · exact exec_of_setRun hr rfl exec_movi rfl
    · exact exec_of_setRun hr rfl exec_movq rfl
    · refine exec_of_setRun hr rfl exec_lea ?_
      simp only [hx.eq_pure, hy.eq_pure, pure_bind, eltOf, lea_sum]
      exact (apply_ite pure ..).symm
  · intro s e b d t x z c w pos len out hx hc
    refine ⟨fun hr => ?_, fun hr hz => ?_⟩
    · refine ⟨_, exec_of_fieldRun (z := 0) hr rfl exec_bext hx hc rfl, fun k j hj => ?_⟩
      rw [← ofNat_elem_toNat x]
      exact testBit_bextOp _ _ _ _ hj
    · exact ⟨_, exec_of_fieldRun hr rfl exec_bins hx hc hz, fun k j hj => testBit_binsOp _ _ _ _ _ hj⟩
  · intro s e b d t x y z a ty w sg p v lane h narrow hx
    have hnarrow : (fun k => satnOp (eltOf t) (t.f.getLsbD 0) (t.f.toNat / 2) (elem x w k)) = narrow := funext fun k => by
      rw [← ofNat_elem_toNat x]
      exact satnOp_words ..
    refine ⟨fun hr hy hz => ?_, fun hr hsh => ?_, fun hr hsh => ?_, fun hr hy => ?_⟩
    · refine exec_doti.trans (multiSet_ok hr rfl ?_)
      simp only [hx.eq_pure, hy.eq_pure, hz.eq_pure, pure_bind, dotSum_eq_sum, wrap_eq_toNat]
      rfl
    · refine exec_satn.trans (multiSet_ok hr rfl ?_)
      have hone : shElems t.sh.toNat (eltOf t).w = 1 := if_pos (congrArg BitVec.toNat hsh)
      simp only [hx.eq_pure, pure_bind, if_pos hsh, hone, ← hnarrow]
      rfl
    · refine exec_satn.trans (multiSet_ok hr rfl ?_)
      simp only [hx.eq_pure, pure_bind, if_neg hsh, ← hnarrow]
      rfl
    · refine exec_shuf.trans (multiSet_ok hr rfl ?_)
      simp only [hx.eq_pure, hy.eq_pure, pure_bind]
      rfl

end Sys2Proof

/-! Proofs of the special floating-point operations: scaling, comparison, reductions, conversions, draws, rotary positions. -/

namespace Sys2Proof

open Machine

/-! ## Chapter 08: flags and function bits -/

/-- ORing the gathered flags of the enabled elements into %fpc is raising what they raise together. -/
theorem orFlags_flagsOn (a : SetState) (e : Env) (on : Nat → Bool) (g : Nat → Nat × Nat) (n : Nat) :
    orFlags a e.ix (flagsOn on g n) = withFlags a e (raisedBy on (fun j => (g j).2) n) := by
  rw [withFlags, ← flagsOn_eq_raisedBy]
  rfl

/-- A legal form V instruction has no function bits but those its row names (R60). -/
theorem vOnly_functionBits {t : TailV} {b c ty sh p : Bool} {fm : Nat} (h : vOnly t b c ty sh p fm = true) : t.f.toNat &&& (127 - fm) = 0 := by
  simp_all [vOnly]

/-! ## Chapter 08: FCMP, FRED and IMAX -/

theorem useFcmp_condition_lt {d : BitVec 7} {t : TailV} (h : (useFcmp d t).legal = true) : t.f.toNat < 8 := by
  have hv : vOnly t true true true true true 7 = true := by simp_all [useFcmp]
  have hall : ∀ f : BitVec 7, f.toNat &&& 120 = 0 → f.toNat < 8 := by decide
  exact hall _ (vOnly_functionBits hv)

/-- What FRED gives when no element is enabled (R194). -/
theorem fredEmpty_eq (f : Fmt) (op : BitVec 7) :
    (if op.toNat = 0 then packF f false 0 0 else infBits f (decide (op.toNat = 1))) =
      if op = 0 then packF f false 0 0 else infBits f (decide (op = 1)) := by
  have h0 : op.toNat = 0 ↔ op = 0 := BitVec.toNat_inj (y := 0)
  have h1 : op.toNat = 1 ↔ op = 1 := BitVec.toNat_inj (y := 1)
  simp only [h0, decide_eq_decide.2 h1]

theorem useImax_accumulates {d : BitVec 7} {t : TailV} (h : (useImax d t).legal = true) : t.f.getLsbD 0 = decide (t.f = 1) := by
  have hv : vOnly t true true true true true 1 = true := by simp_all [useImax]
  have hall : ∀ f : BitVec 7, f.toNat &&& 126 = 0 → f.getLsbD 0 = decide (f = 1) := by decide
  exact hall _ (vOnly_functionBits hv)

/-- A register that is read only where the instruction uses it and 0 where it does not, is `v` for what follows. -/
theorem bind_regRead_if {s : State} {e : Env} {r : BitVec 7} {use : Prop} [Decidable use] {v : W128}
    (h : if use then Reads s e r v else v = 0) (k : W128 → Res SetState) :
    (if use then regRead (s.act e.d e.c) e.ix r.toNat >>= k else k 0) = k v := by
  by_cases hu : use
  case pos => rw [if_pos hu] at h ⊢; rw [h.eq_pure, pure_bind]
  case neg => rw [if_neg hu] at h ⊢; rw [h]

/-- ORing NV into %fpc or nothing. -/
theorem orFlags_ite_nv (a : SetState) (e : Env) (c : Prop) [Decidable c] :
    orFlags a e.ix (if c then flNV else 0) = withFlags a e (if c then 16 else 0) := by
  by_cases h : c
  case pos => rw [if_pos h, if_pos h]; rfl
  case neg => rw [if_neg h, if_neg h]; rfl

theorem b2n_mul (c : Bool) (m : Nat) : b2n c * m = if c then m else 0 := by
  cases c <;> simp [b2n]

/-- Settles O24: each run reads its sources and computes the statement's function at every element, at every leaf of the tree, over the
candidates or over the products; its flags are those the enabled elements raise. -/
theorem scaleCompareReduce : Obligations.ScaleCompareReduce := by
  constructor
  · intro s e b d t x y c a w n k p on out
    refine ⟨fun hr hf hx hy => ?_, fun hr hf hx hc => ?_, fun hr hx hy => ?_, fun hr hc => ?_⟩
    · rw [exec_fscl, execFscl, if_neg (by rw [hf]; decide)]
      refine multiSet_ok hr rfl ?_
      simp only [hx.eq_pure, hy.eq_pure, pure_bind, if_true, orFlags_flagsOn]
      rfl
    · rw [exec_fscl, execFscl, if_pos (by rw [hf]; rfl)]
      refine multiSet_ok hr rfl ?_
      simp only [hx.eq_pure, hc.eq_pure, pure_bind, orFlags_flagsOn]
      rfl
    · refine exec_fcmp.trans (multiSet_ok hr rfl ?_)
      simp only [hx.eq_pure, hy.eq_pure, pure_bind, orFlags_flagsOn, Nat.mod_eq_of_lt (useFcmp_condition_lt (hr.legal rfl))]
      rfl
    · refine exec_of_setRun hr rfl exec_fpcset ?_
      simp only [hc.eq_pure, pure_bind]
      rfl
  · intro s e b d t x y z c o a ty w n k p on hx
    refine ⟨fun hr => ?_, fun hr hc ho => ?_, fun hr hy hz => ?_⟩
    · refine exec_fred.trans (multiSet_ok hr rfl ?_)
      simp only [hx.eq_pure, pure_bind, fredEmpty_eq]
      rfl
    · refine exec_imax.trans (multiSet_ok hr rfl ?_)
      simp only [hx.eq_pure, hc.eq_pure, pure_bind, useImax_accumulates (hr.legal rfl), decide_eq_true_eq, bind_regRead_if ho,
        orFlags_ite_nv, b2n_mul]
      rfl
    · refine exec_fdot.trans (multiSet_ok hr rfl ?_)
      simp only [hx.eq_pure, hy.eq_pure, hz.eq_pure, pure_bind, orFlags_flagsOn]
      rfl

/-! ## Instructions of several beats whose effect reaches beyond the active set -/

/-- An instruction of several beats: a turn leaves what `onBeat` says, the last one its completion. -/
theorem beatRun_ok {i : Instr} {s r : State} {e : Env} {b : List Nat} {u : Use} {n : Nat} {body : Env → State → Res State}
    (hr : Ready i s e b) (hu : i.use? = some u) (hb : body e s = .ok r) :
    beatRun n u body s = .next (onBeat i n s e (goesOn e b r)) := by
  obtain ⟨he, hc⟩ := hr.checks hu
  simp only [beatRun, onBeat, hu, he, hc, hb, bind, Except.bind, pure, Except.pure]
  by_cases hlast : n ≤ 1 ∨ (beatOf n u s e).left ≤ 1
  case pos => rw [if_neg (fun h => by omega), if_pos hlast, if_pos hlast]; rfl
  case neg => rw [if_neg hlast, if_neg hlast, ite_self]

theorem multiRun_ok {i : Instr} {s r : State} {e : Env} {b : List Nat} {u : Use} {n : Nat} {body : Env → State → Res State}
    (hr : Ready i s e b) (hu : i.use? = some u) (hb : body e s = .ok r) :
    multiRun n u body s = .next (onBeat i n s e (goesOn e b r)) := by
  by_cases hn : n ≤ 1
  case neg => rw [multiRun, if_neg hn]; exact beatRun_ok hr hu hb
  case pos =>
    obtain ⟨he, hc⟩ := hr.checks hu
    simp only [multiRun, onBeat, hu, hn, if_true, true_or]
    exact ctxRun_ok he hc hb

/-- FCVT takes the beats of its shape, with and without draws. -/
theorem fcvtRun_ok {i : Instr} {s r : State} {e : Env} {b : List Nat} {u : Use} {t : TailV} {body : Env → State → Res State}
    (hr : Ready i s e b) (hu : i.use? = some u) (hb : body e s = .ok r) :
    fcvtRun t u body s = .next (onBeat i (shRegs t.sh.toNat) s e (goesOn e b r)) := by
  unfold fcvtRun
  split
  case isTrue => exact beatRun_ok hr hu hb
  case isFalse => exact multiRun_ok hr hu hb

/-! ## Chapter 08: draws -/

/-- A draw from a stream that is here, whose record holds no error and which is not MIGRATING, answers its key and its counter, which moves
on by the blocks drawn (R202). -/
theorem drawStream_ok {s : State} {e : Env} {sd si : Nat} (haway : s.streamAway (drawn s e) = false)
    (hof : s.streamOf (drawn s e) = some (sd, si)) (herr : streamError s sd si false = none) (hst : (s.stream sd si).st ≠ .migrating)
    (n : Nat) :
    drawStream s e n = pure ((s.stream sd si).key.toNat, (s.stream sd si).ctr.toNat,
      s.setStream sd si { s.stream sd si with ctr := (s.stream sd si).ctr + BitVec.ofNat 128 n }) := by
  unfold drawn at haway hof
  simp only [drawStream, haway, hof, herr, hst, Bool.false_eq_true, if_false]
  rfl

@[simp] theorem act_setStream (s : State) (sd si : Nat) (x : Stream) (d c : Nat) : (s.setStream sd si x).act d c = s.act d c := by
  unfold State.setStream State.act State.core
  rw [die_setDie]
  split
  case isTrue h => rw [h]; rfl
  case isFalse => rfl

@[simp] theorem act_endDraw (s : State) (e : Env) (d c : Nat) : (endDraw s e).act d c = s.act d c := by
  unfold endDraw endAccess State.setPend State.act
  rw [core_setCore]
  split
  case isTrue h => rw [h.1, h.2]; rfl
  case isFalse => rfl

theorem regsRead_eq_pure {a : SetState} {ix i n v : Nat} (h : regsRead a ix i n = .ok v) : regsRead a ix i n = pure v := h

/-! ## Chapter 08: RAND -/

/-- A legal RAND that draws from a stream has no counter register to move on. -/
theorem useRand_stream_upd {d : BitVec 7} {t : TailV} (h : (useRand d t).legal = true) (hs : randStrm t = true) : randUpd t = false := by
  simp_all [useRand]

/-- A word that RAND writes: unchanged where TY is U32, else as a number. -/
theorem randWord_eq (ty : BitVec 5) (u : Nat) :
    randWord ty.toNat u = if ty = 5 then u else (roundF fmtF32 {} false (2 * (u / 512) + 1) (-24) false).1 := by
  have h5 : ty.toNat = 5 ↔ ty = 5 := BitVec.toNat_inj (y := 5)
  simp only [randWord, h5]

/-! ## Chapter 08: the rotary table -/

/-- ROPE with SET writes word `n` of the group, where it is enabled, `n` places on from the first entry. -/
theorem tget_rotarySet_succ (r : Sparse (BitVec 32)) (on : Nat → Bool) (t0 b n i : Nat) :
    tget 0 (rotarySet r on t0 b (n + 1)) i =
      if i = (t0 + n) % 64 ∧ on n = true then BitVec.ofNat 32 (elem b 32 n) else tget 0 (rotarySet r on t0 b n) i := by
  rw [rotarySet]
  cases on n
  case false => simp
  case true => simp [tget_tset]

/-- No more than 64 words write each entry at most once: with the word whose place it is, where that is one of them and enabled. -/
theorem tget_rotarySet (r : Sparse (BitVec 32)) (on : Nat → Bool) {t0 : Nat} (b : Nat) {n i : Nat} (ht : t0 < 64) (hn : n ≤ 64)
    (hi : i < 64) :
    tget 0 (rotarySet r on t0 b n) i =
      if (i + 64 - t0) % 64 < n ∧ on ((i + 64 - t0) % 64) = true then BitVec.ofNat 32 (elem b 32 ((i + 64 - t0) % 64))
      else tget 0 r i := by
  induction n with
  | zero => rw [rotarySet, if_neg (fun h => absurd h.1 (Nat.not_lt_zero _))]
  | succ n ih =>
    have hplace : i = (t0 + n) % 64 ↔ (i + 64 - t0) % 64 = n := by omega
    rw [tget_rotarySet_succ, ih (by omega)]
    simp only [hplace]
    generalize (i + 64 - t0) % 64 = k
    by_cases hk : k = n
    case pos => subst hk; simp
    case neg =>
      have hlt : k < n + 1 ↔ k < n := by omega
      simp [hk, hlt]

theorem shElems_words_le (sh : BitVec 2) : shElems sh.toNat 32 ≤ 64 := by
  have hall : ∀ sh : BitVec 2, shElems sh.toNat 32 ≤ 64 := by decide
  exact hall sh

/-- Settles O25: the runs read their sources; a draw answers the stream's key and counter and leaves the active set alone; the entries of the
rotary table are those that the enabled words write. ROPE's cosine and sine are the model's free values (`Config.ropeTrig`, log 7), in `ropePair`
here as in the statement. -/
theorem conversionsDrawsRotary : Obligations.ConversionsDrawsRotary := by
  refine ⟨?_, ?_, ?_⟩
  · intro s e b d t x c sd si
    dsimp only
    refine ⟨fun hr hx hm => ?_, fun hr hx hm hc hbit => ?_, fun hr hx hm hc hbit haway hof herr hst => ?_, fun hr hx hc => ?_,
      fun hr hx hc => ?_, fun hr hc => ?_⟩
    · refine exec_fcvt.trans (fcvtRun_ok hr rfl ?_)
      simp only [fcvtSides, regsRead_eq_pure hx, hm, pure_bind, if_false]
      rfl
    · refine exec_fcvt.trans (fcvtRun_ok hr rfl ?_)
      simp only [fcvtSides, regsRead_eq_pure hx, hm, hc.eq_pure, bit, hbit, pure_bind, if_true, Bool.false_eq_true, if_false]
      rfl
    · refine exec_fcvt.trans (fcvtRun_ok hr rfl ?_)
      simp only [fcvtSides, regsRead_eq_pure hx, hm, hc.eq_pure, bit, hbit, pure_bind, if_true, drawStream_ok haway hof herr hst]
      rfl
    · refine exec_qnt.trans (multiSet_ok hr rfl ?_)
      simp only [qntSides, regsRead_eq_pure hx, hc.eq_pure, pure_bind]
      rfl
    · refine exec_dqnt.trans (multiSet_ok hr rfl ?_)
      simp only [dqntSides, regsRead_eq_pure hx, hc.eq_pure, pure_bind]
      rfl
    · refine exec_of_setRun hr rfl exec_qntScl ?_
      simp only [hc.eq_pure, pure_bind]
      exact (apply_ite pure ..).symm
  · intro s e b d t kv c sd si
    dsimp only
    refine ⟨fun hr hs hb hc => ?_, fun hr hs haway hof herr hst => ?_⟩
    · have hstrm : randStrm t = false := hs
      rw [exec_rand, execRand, if_neg (by rw [hstrm]; exact Bool.false_ne_true)]
      refine multiRun_ok hr rfl ?_
      simp only [hstrm, hb.eq_pure, hc.eq_pure, pure_bind, Bool.false_eq_true, if_false, randWord_eq]
      rfl
    · have hstrm : randStrm t = true := hs
      rw [exec_rand, execRand, if_pos hstrm]
      refine beatRun_ok hr rfl ?_
      simp only [hstrm, useRand_stream_upd (hr.legal rfl) hstrm, drawStream_ok haway hof herr hst, pure_bind, if_true, Bool.false_eq_true,
        if_false, randWord_eq, act_setStream, act_endDraw]
      rfl
  · intro s e b d t x c a w n p hx
    refine ⟨fun hr hc => ?_, fun hr =>
      ⟨rotarySet a.rotary (elemOn p t.pn 32) (t.f.toNat % 64) x (shElems t.sh.toNat 32), ?_, fun i hi => ?_⟩⟩
    · refine exec_rope.trans (multiSet_ok hr rfl ?_)
      simp only [hx.eq_pure, hc.eq_pure, pure_bind, orFlags_flagsOn]
      rfl
    · refine exec_ropeSet.trans (multiSet_ok hr rfl ?_)
      simp only [hx.eq_pure, pure_bind]
      rfl
    · have hbit (j : Nat) : j * 32 / 8 = 4 * j := by omega
      rw [tget_rotarySet _ _ _ (Nat.mod_lt _ (by decide)) (shElems_words_le t.sh) hi, elemOn, hbit]

end Sys2Proof

/-! Proofs of the completion counters, triggers, chunk maps and barriers (chapter 09). -/

namespace Sys2Proof

open Machine

/-! ## Instructions whose effect reaches beyond the active set -/

section
variable {i : Instr} {s : State} {e : Env} {b : List Nat} {u : Use} {body : Env → State → Res State}

/-- An instruction that goes on completes in the state its effect gives. -/
theorem exec_of_ctxRun {t : State} (hr : Ready i s e b) (hu : i.use? = some u) (hexec : exec i s = ctxRun u body s)
    (hb : body e s = .ok t) : exec i s = .next (goesOn e b t) := by
  obtain ⟨he, hc⟩ := hr.checks hu
  rw [hexec]
  exact ctxRun_ok he hc hb

/-- An instruction whose own effect ends otherwise does as that end says. -/
theorem exec_of_ctxRun_error {x : Exit} (hr : Ready i s e b) (hu : i.use? = some u) (hexec : exec i s = ctxRun u body s)
    (hb : body e s = .error x) : exec i s = finish s e (.error x) := by
  obtain ⟨he, hc⟩ := hr.checks hu
  rw [hexec]
  exact ctxRun_body_error he hc hb

end

/-! ## Triggers and signals of one counter (R209, R220) -/

/-- Trigger `g` after an update that leaves its counter at `v`: an idle one becomes pending when its condition holds. -/
def evalTrigger (v : BitVec 16) (g : Trigger) : Trigger :=
  if !g.pending && (if g.eq then decide (v = g.thr) else decide (g.thr ≤ v)) then { g with pending := true, fired := v } else g

theorem evalTrigger_of_pending {g : Trigger} (v : BitVec 16) (hp : g.pending = true) : evalTrigger v g = g := by
  simp [evalTrigger, hp]

theorem evalTrigger_of_idle {g : Trigger} (v : BitVec 16) (hp : g.pending = false) :
    evalTrigger v g =
      if (if g.eq then decide (v = g.thr) else decide (g.thr ≤ v)) then { g with pending := true, fired := v } else g := by
  simp [evalTrigger, hp]

/-- An evaluation changes a counter's trigger and nothing else. -/
theorem trigEval_eq (c : Counter) : trigEval c = { c with trig := c.trig.map (evalTrigger c.value) } := by
  obtain ⟨v, o, g⟩ := c
  cases g with
  | none => rfl
  | some g => exact (apply_ite (fun g' => ({ value := v, ovf := o, trig := some g' } : Counter)) ..).symm

@[simp] theorem trigEval_value (c : Counter) : (trigEval c).value = c.value := by rw [trigEval_eq]
@[simp] theorem trigEval_ovf (c : Counter) : (trigEval c).ovf = c.ovf := by rw [trigEval_eq]
@[simp] theorem trigEval_trig (c : Counter) : (trigEval c).trig = c.trig.map (evalTrigger c.value) := by rw [trigEval_eq]

/-- The sum of a signal saturates (R209). -/
theorem signalCounter_value (c : Counter) (inc : Int) :
    ((signalCounter c inc).value.toNat : Int) = max 0 (min 65535 (c.value.toNat + inc)) := by
  simp only [signalCounter, trigEval_value, BitVec.toNat_ofNat]
  split
  case isTrue => omega
  case isFalse => split <;> omega

theorem signalCounter_ovf (c : Counter) (inc : Int) :
    (signalCounter c inc).ovf = (c.ovf || decide ((c.value.toNat : Int) + inc < 0 ∨ 65535 < (c.value.toNat : Int) + inc)) :=
  trigEval_ovf _

/-- A signal evaluates the trigger at the new value. -/
theorem signalCounter_trig (c : Counter) (inc : Int) :
    (signalCounter c inc).trig = c.trig.map (evalTrigger (signalCounter c inc).value) := by
  simp only [signalCounter, trigEval_trig, trigEval_value]

/-! ## Waking leaves the counters as they are -/

@[simp] theorem makeReady_counters (a : SetState) (ix : Nat) : (makeReady a ix).counters = a.counters := rfl

@[simp] theorem wakeOne_counters (a : SetState) (ix : Nat) : (wakeOne a ix).counters = a.counters := by
  simp only [wakeOne]
  split
  case h_1 => rfl
  case h_2 =>
    split
    case isTrue => rfl
    case isFalse =>
      split
      case isTrue => split <;> rfl
      case isFalse => rfl

theorem foldl_wakeOne_counters (l : List Nat) (a : SetState) : (l.foldl wakeOne a).counters = a.counters := by
  induction l generalizing a with
  | nil => rfl
  | cons ix l ih => rw [List.foldl_cons, ih, wakeOne_counters]

@[simp] theorem wakeHart_counters (a : SetState) : (wakeHart a).counters = a.counters := by
  unfold wakeHart
  split
  case h_1 => split <;> rfl
  case h_2 => rfl

@[simp] theorem wakeAll_counter (a : SetState) (k : Nat) : (wakeAll a).counter k = a.counter k := by
  have h : (wakeAll a).counters = a.counters := (wakeHart_counters _).trans (foldl_wakeOne_counters _ a)
  rw [SetState.counter, h, SetState.counter]

theorem signalSet_counter (a : SetState) (k j : Nat) (inc : Int) :
    (signalSet a k inc).counter j = if j = k then signalCounter (a.counter k) inc else a.counter j := by
  rw [signalSet, wakeAll_counter, counter_setCounter]

theorem setSet_counter (a : SetState) (k j v : Nat) :
    (setSet a k v).counter j =
      if j = k then trigEval { a.counter k with value := BitVec.ofNat 16 v, ovf := false } else a.counter j := by
  rw [setSet, wakeAll_counter, counter_setCounter]

/-! ## Waits for a counter (R211, R212, R215) -/

/-- What a wait for counter `k` asks: the threshold is there now, or it has been there since this wait began. -/
def CounterMet (s : State) (e : Env) (k n : Nat) (eq : Bool) : Prop :=
  let v := ((s.act e.d e.c).counter k).value.toNat
  (if eq then v = n else n ≤ v) ∨ ((s.ctx e).satisfied = true ∧ (s.ctx e).wait = some (.counter k n eq))

section
variable {s : State} {e : Env} {k n : Nat} {eq : Bool}

theorem counterMet_iff : CounterMet s e k n eq ↔
    (((s.ctx e).satisfied && decide ((s.ctx e).wait = some (.counter k n eq))) ||
      waitHolds (s.act e.d e.c) e.ix (.counter k n eq)) = true := by
  cases eq <;> simp [CounterMet, waitHolds, or_comm]

/-- Under OVFE an overflowed counter faults. -/
theorem counterWait_overflow (hx : (s.ctx e).ovfe = true) (ho : ((s.act e.d e.c).counter k).ovf = true) :
    counterWait s e k n eq = raiseAt counterOvf k :=
  if_pos (Bool.and_eq_true_iff.2 ⟨hx, ho⟩)

/-- No COUNTER_OVF is due. -/
theorem not_ovfe_and_ovf (h : (s.ctx e).ovfe = false ∨ ((s.act e.d e.c).counter k).ovf = false) :
    ¬((s.ctx e).ovfe && ((s.act e.d e.c).counter k).ovf) = true :=
  ne_true_of_eq_false (Bool.and_eq_false_iff.2 h)

theorem counterWait_of_met (h : (s.ctx e).ovfe = false ∨ ((s.act e.d e.c).counter k).ovf = false) (hm : CounterMet s e k n eq) :
    counterWait s e k n eq = .ok s :=
  (if_neg (not_ovfe_and_ovf h)).trans (if_pos (counterMet_iff.1 hm))

theorem counterWait_of_not_met (h : (s.ctx e).ovfe = false ∨ ((s.act e.d e.c).counter k).ovf = false)
    (hm : ¬CounterMet s e k n eq) : counterWait s e k n eq = .error (.wait (.counter k n eq) s) :=
  (if_neg (not_ovfe_and_ovf h)).trans (if_neg (mt counterMet_iff.2 hm))

/-- A context that begins to wait keeps its IP. -/
theorem takeWait_ctx (s : State) (e : Env) (w : Wait) :
    ((takeWait s e w).ctx e).wait = some w ∧ ((takeWait s e w).ctx e).satisfied = false ∧
    ((takeWait s e w).ctx e).ip = (s.ctx e).ip := by
  simp only [takeWait]
  split
  case isTrue => simp [State.ctx, emptySlot]
  case isFalse => simp [State.ctx]

/-- A stray that waits for a counter leaves its slot BLOCKED, with WHY, WK and WT. -/
theorem takeWait_counter_stray (h : e.mode = .stray) :
    let u := takeWait s e (.counter k n eq)
    (u.slotOf e).mode = .empty ∧ (u.ctx e).state = .blocked ∧ (u.ctx e).why = 1 ∧
    (u.ctx e).wk = BitVec.ofNat 8 k ∧ (u.ctx e).wt = BitVec.ofNat 16 n := by
  simp [takeWait, h, State.ctx, State.slotOf, emptySlot, Wait.why]

end

/-- `i` waits for counter `k`: a fault under OVFE, else it goes on or its context waits. -/
def WaitsForCounter (i : Instr) (s : State) (e : Env) (b : List Nat) (k n : Nat) (eq : Bool) : Prop :=
  let x := s.ctx e
  let ovf := ((s.act e.d e.c).counter k).ovf
  (x.ovfe = true → ovf = true → exec i s = .next (takeFault s e { code := 0x0D, faddr := some k })) ∧
  (x.ovfe = false ∨ ovf = false →
    (CounterMet s e k n eq → exec i s = .next (goesOn e b s)) ∧
    (¬CounterMet s e k n eq → ∃ u, exec i s = .next u ∧ (u.ctx e).wait = some (.counter k n eq) ∧ (u.ctx e).satisfied = false ∧
      (u.ctx e).ip = x.ip ∧
      (e.mode = .stray → (u.slotOf e).mode = .empty ∧ (u.ctx e).state = .blocked ∧ (u.ctx e).why = 1 ∧
        (u.ctx e).wk = BitVec.ofNat 8 k ∧ (u.ctx e).wt = BitVec.ofNat 16 n)))

/-- An instruction whose effect is a counter wait. -/
theorem waitsForCounter_of_body {i : Instr} {s : State} {e : Env} {b : List Nat} {u : Use} {body : Env → State → Res State}
    {k n : Nat} {eq : Bool} (hr : Ready i s e b) (hu : i.use? = some u) (hexec : exec i s = ctxRun u body s)
    (hb : body e s = counterWait s e k n eq) : WaitsForCounter i s e b k n eq := by
  refine ⟨fun hx ho => ?_, fun h => ⟨fun hm => ?_, fun hm => ⟨takeWait s e (.counter k n eq), ?_, ?_⟩⟩⟩
  · exact exec_of_ctxRun_error hr hu hexec (hb.trans (counterWait_overflow hx ho))
  · exact exec_of_ctxRun hr hu hexec (hb.trans (counterWait_of_met h hm))
  · exact exec_of_ctxRun_error hr hu hexec (hb.trans (counterWait_of_not_met h hm))
  · obtain ⟨hwait, hsat, hip⟩ := takeWait_ctx s e (.counter k n eq)
    exact ⟨hwait, hsat, hip, takeWait_counter_stray⟩

/-! ## Updates: at once, or after the context's earlier stores (R257) -/

/-- The state in which a context's update waits for its newest store. -/
def updateLater (s : State) (e : Env) (op : UpdOp) : State :=
  let q := s.core e.d e.c
  let inc := (s.ctx e).inc
  s.setCore e.d e.c { q with updates := q.updates ++ [{ after := lastStore q e.ix inc, ix := e.ix, inc := inc, op := op }] }

theorem update_eq (s : State) (e : Env) (op : UpdOp) :
    update s e op =
      if lastStore (s.core e.d e.c) e.ix (s.ctx e).inc = 0 then applyUpd s e.d e.c op else updateLater s e op := rfl

theorem goesOn_update (s : State) (e : Env) (b : List Nat) (op : UpdOp) :
    goesOn e b (update s e op) =
      if lastStore (s.core e.d e.c) e.ix (s.ctx e).inc = 0 then goesOn e b (applyUpd s e.d e.c op)
      else goesOn e b (updateLater s e op) := by
  rw [update_eq, apply_ite (goesOn e b)]

/-- A packet with nothing of its context ahead of it leaves at once (R95). -/
theorem applyUpd_packet {s : State} {d c : Nat} {p : Packet} (h : sendsAhead s d c p = false) :
    applyUpd s d c (.packet p) = sendPacket s p := by
  simp [applyUpd, h]

/-! ## CSIG -/

/-- CSIG without OVFE is the update. -/
theorem exec_csig_update {s : State} {e : Env} {b : List Nat} {d : BitVec 7} {t : TailI} (hr : Ready (.csig d t) s e b)
    (hx : (s.ctx e).ovfe = false) :
    exec (.csig d t) s = .next (goesOn e b (update s e (.signal (fld t.imm 24 17) (sext 16 (fld t.imm 15 0))))) :=
  exec_of_ctxRun hr rfl exec_csig (if_neg (ne_true_of_eq_false hx))

/-- Under OVFE CSIG looks at the counter first. -/
theorem exec_csig_ovfe {s : State} {e : Env} {b : List Nat} {d : BitVec 7} {t : TailI} (hr : Ready (.csig d t) s e b)
    (hx : (s.ctx e).ovfe = true) (hn : lastStore (s.core e.d e.c) e.ix (s.ctx e).inc = 0) :
    let k := fld t.imm 24 17
    let inc := sext 16 (fld t.imm 15 0)
    let c := (s.act e.d e.c).counter k
    exec (.csig d t) s = .next (
      if (c.value.toNat : Int) + inc < 0 ∨ 65535 < (c.value.toNat : Int) + inc then
        takeFault s e { code := 0x0D, faddr := some k }
      else writes s e b (signalSet (s.act e.d e.c) k inc)) := by
  intro k inc c
  have hstores := not_not_intro hn
  by_cases hv : (c.value.toNat : Int) + inc < 0 ∨ 65535 < (c.value.toNat : Int) + inc
  case pos =>
    have hover : signalOverflows c inc = true := decide_eq_true hv
    rw [if_pos hv]
    exact exec_of_ctxRun_error hr rfl exec_csig ((if_pos hx).trans ((if_neg hstores).trans (if_pos hover)))
  case neg =>
    have hover : ¬signalOverflows c inc = true := ne_true_of_eq_false (decide_eq_false hv)
    rw [if_neg hv]
    exact exec_of_ctxRun hr rfl exec_csig ((if_pos hx).trans ((if_neg hstores).trans (if_neg hover)))

/-- CSIG.rmt with a route that names a core is the update that sends the packet. -/
theorem exec_csigRmt_update {s : State} {e : Env} {b : List Nat} {d : BitVec 7} {t : TailI} {r : W128}
    (hr : Ready (.csigRmt d t) s e b) (hb : Reads s e t.b r) (hcore : fld r 18 12 ≤ 95) (hdie : fld r 22 19 ≤ 11) :
    exec (.csigRmt d t) s = .next (goesOn e b (update s e (.packet
      { cls := 0, src := senderOf s e, pkg := fld r 34 23, die := fld r 22 19, core := fld r 18 12,
        body := .signal (BitVec.ofNat 8 (fld t.imm 24 17)) (sext 16 (fld t.imm 15 0)) (r.setWidth 64) none }))) := by
  have hroute : badRoute (fld r 18 12) (fld r 22 19) = false := decide_eq_false (by omega)
  refine exec_of_ctxRun hr rfl exec_csigRmt ?_
  simp only [hb.eq_pure, pure_bind, hroute, Bool.false_eq_true, if_false]
  rfl

/-- Settles O32: CWAIT and CWAITR are the counter wait; CSIG, CSIG.rmt and CSET are updates, which apply at once or wait for the context's
stores; waking contexts leaves the counters as the signal or the set put them. -/
theorem counterOps : Obligations.CounterOps := by
  refine ⟨?_, ?_, ?_, ?_⟩
  · intro s e b d i t kv tv
    refine ⟨fun hr => waitsForCounter_of_body hr rfl exec_cwait rfl,
      fun hr hk ht => waitsForCounter_of_body hr rfl exec_cwaitr ?_⟩
    simp only [hk.eq_pure, ht.eq_pure, pure_bind]
  · intro c inc
    refine ⟨signalCounter_value c inc, signalCounter_ovf c inc, fun h => ?_, fun g h hp => ?_, fun g h hp => ?_⟩
    · rw [signalCounter_trig, h, Option.map_none]
    · rw [signalCounter_trig, h, Option.map_some, evalTrigger_of_idle _ hp]
    · rw [signalCounter_trig, h, Option.map_some, evalTrigger_of_pending _ hp]
  · intro a k v inc hv
    refine ⟨?_, ?_, ?_, fun j hj => ⟨?_, ?_⟩⟩
    · rw [signalSet_counter, if_pos rfl]
    · rw [setSet_counter, if_pos rfl, trigEval_value, BitVec.toNat_ofNat, Nat.mod_eq_of_lt hv]
    · rw [setSet_counter, if_pos rfl, trigEval_ovf]
    · rw [signalSet_counter, if_neg hj]
    · rw [setSet_counter, if_neg hj]
  · intro s e b d t r
    refine ⟨fun hr hx => ?_, exec_csig_ovfe, fun hr hb hcore hdie => ⟨fun hn hp => ?_, fun hn => ?_⟩,
      fun hr => ?_, fun hr => ?_⟩
    · rw [exec_csig_update hr hx, goesOn_update]
      rfl
    · rw [exec_csigRmt_update hr hb hcore hdie, update_eq, if_pos hn, applyUpd_packet hp]
    · rw [exec_csigRmt_update hr hb hcore hdie, update_eq, if_neg hn]
      rfl
    · rw [exec_of_ctxRun hr rfl exec_cset rfl, goesOn_update]
      rfl
    · refine exec_of_setRun hr rfl exec_cget ?_
      simp only [counterMap, Nat.mul_comm 65536, b2n_mul]
      rfl

/-! ## CTRIG and CTRIG.off (R218, R219) -/

section
variable {s : State} {e : Env} {b : List Nat} {d : BitVec 7} {t : TailV} {v m : W128}

/-- A counter that has a trigger takes no other: status 1. -/
theorem exec_ctrig_taken {h : W128} {g : Trigger} (hr : Ready (.ctrig d t) s e b) (hb : Reads s e t.b h) (hc : Reads s e t.c v)
    (hz : fld v 31 28 = 0) (hg : ((s.act e.d e.c).counter (fld v 23 16)).trig = some g) :
    exec (.ctrig d t) s = .next (writes s e b (withReg s e d 1)) := by
  refine exec_of_setRun hr rfl exec_ctrig ?_
  simp only [hb.eq_pure, hc.eq_pure, pure_bind, hz, hg, ne_eq, not_true, if_false]
  rfl

/-- A counter without a trigger is armed, and the trigger evaluated at once: status 0. -/
theorem exec_ctrig_arms {h : W128} (hr : Ready (.ctrig d t) s e b) (hb : Reads s e t.b h) (hc : Reads s e t.c v)
    (hz : fld v 31 28 = 0) (hg : ((s.act e.d e.c).counter (fld v 23 16)).trig = none) :
    let a := s.act e.d e.c
    let k := fld v 23 16
    exec (.ctrig d t) s = .next (writes s e b (regWrite
      (a.setCounter k (trigEval { a.counter k with trig := some (triggerOf v h (s.ctx e)) })) e.ix d.toNat 0 allBytes)) := by
  refine exec_of_setRun hr rfl exec_ctrig ?_
  simp only [hb.eq_pure, hc.eq_pure, pure_bind, hz, hg, ne_eq, not_true, if_false]
  rfl

/-- What CTRIG.off leaves of the active set, by the counter's trigger. -/
def disarmed (s : State) (e : Env) (d : BitVec 7) (k : Nat) : Option Trigger → SetState
  | none => withReg s e d 3
  | some g =>
    if g.pending then withReg s e d 1
    else if g.dom ≠ (s.ctx e).dom then withReg s e d 4
    else regWrite ((s.act e.d e.c).setCounter k { (s.act e.d e.c).counter k with trig := none }) e.ix d.toNat 0 allBytes

theorem exec_ctrigOff_disarmed (hr : Ready (.ctrigOff d t) s e b) (hc : Reads s e t.c v) :
    exec (.ctrigOff d t) s =
      .next (writes s e b (disarmed s e d (fld v 23 16) ((s.act e.d e.c).counter (fld v 23 16)).trig)) := by
  refine exec_of_setRun hr rfl exec_ctrigOff ?_
  simp only [hc.eq_pure, pure_bind]
  cases ((s.act e.d e.c).counter (fld v 23 16)).trig with
  | none => rfl
  | some g =>
    simp only [disarmed, apply_ite Except.ok]
    rfl

/-! ## CHKW (R222) -/

/-- A chunk map read under a mask is satisfied when some bit of it is set, or all of them. -/
def chunkSat (any : Bool) (cm m : BitVec 128) : Bool :=
  if any then decide (cm &&& m ≠ 0 ∨ m = 0) else decide (cm &&& m = m)

/-- A CHKW that is satisfied or has NB does not wait. -/
theorem exec_chkw_reads (hr : Ready (.chkw d t) s e b) (hb : Reads s e t.b m) :
    let a := s.act e.d e.c
    let cm := tget 0 a.chunk t.c.toNat
    let sat := chunkSat (t.f.getLsbD 0) cm m
    (sat = true ∨ t.f.getLsbD 2 = true) →
    exec (.chkw d t) s = .next (writes s e b (regWrite
      (if sat && t.f.getLsbD 1 then { a with chunk := tset 0 a.chunk t.c.toNat (cm &&& ~~~(cm &&& m)) } else a)
      e.ix d.toNat (cm &&& m).toNat allBytes)) := by
  intro a cm sat hgo
  have hwait : ¬(!sat && !t.f.getLsbD 2) = true := by
    rcases hgo with h | h <;> simp [h]
  refine exec_of_ctxRun hr rfl exec_chkw ?_
  simp only [hb.eq_pure, pure_bind]
  exact if_neg hwait

/-! ## BAR (R223, R224) -/

/-- A context that does not wait at a barrier joins its scope's next phase, and completes it when everyone else has joined. -/
theorem exec_bar_completes {l : Nat} (hr : Ready (.bar d t) s e b) (hl : (s.ctx e).launch = some l) (hw : (s.ctx e).wait = none)
    (hn : lastStore (s.core e.d e.c) e.ix (s.ctx e).inc = 0) :
    let x := s.ctx e
    let n := tget 0 x.phases t.f.toNat + 1
    let u := unitOf t.f.toNat x.lco
    let joinedS := s.setCtx e { x with phases := tset 0 x.phases t.f.toNat n }
    phaseFull joinedS l t.f.toNat u n = true →
    exec (.bar d t) s = .next (goesOn e b (completePhase joinedS l t.f.toNat u n)) := by
  intro x n u joinedS hfull
  simp only [joinedS, x, n, u, hl, hw] at hfull ⊢
  refine exec_of_ctxRun hr rfl exec_bar ?_
  simp only [hl, hw, hn, hfull, ne_eq, not_true, if_false, if_true]

/-- A context whose phase has completed goes on. -/
theorem exec_bar_satisfied {l n : Nat} (hr : Ready (.bar d t) s e b) (hl : (s.ctx e).launch = some l)
    (hw : (s.ctx e).wait = some (.bar t.f.toNat n)) (hs : (s.ctx e).satisfied = true) :
    exec (.bar d t) s = .next (goesOn e b s) := by
  refine exec_of_ctxRun hr rfl exec_bar ?_
  simp only [hl, hw, hs, and_self, if_true]

end

/-- Settles O33: each clause is the instruction's own run on the values it reads. -/
theorem triggersChunksBarriers : Obligations.TriggersChunksBarriers := by
  intro s e b d t h v m g l
  refine ⟨exec_ctrig_taken, exec_ctrig_arms, fun hr hc => ?_, exec_chkw_reads, exec_bar_completes, fun _ => exec_bar_satisfied⟩
  refine (exec_ctrigOff_disarmed hr hc).trans ?_
  cases ((s.act e.d e.c).counter (fld v 23 16)).trig <;> rfl

end Sys2Proof
